-- ==== Sys2Proof/Word.lean ====
section
/-!
DEFINITION. Word.lean: the word types of the module's registers and memories (R7, R8).
-/
namespace Sys2Proof

/-- A byte of any memory or message. -/
abbrev Byte := BitVec 8

/-- A 32-bit register word (R37). -/
abbrev Word := BitVec 32

/-- A 64-bit quantity: a register pair, an address, a beat count. -/
abbrev Quad := BitVec 64

end Sys2Proof
end

