-- ==== Sys2Proof/Syntax.lean ====
section
/-!
DEFINITION. Syntax.lean: the commands of the block, one constructor per row of spec/opcode_table.json, and the values they carry.
The table gives its rows no operand bits, so the operands are the model's: what the row's rules say the step depends on.
-/
namespace Sys2Proof.Machine

/-- Memory tiers, with their codes in descriptors and page entries (R68, R145). -/
inductive Tier | loft | crib | grn | host
  deriving DecidableEq, Repr

/-- Kinds of access (R147, R155). -/
inductive Acs | read | write | atomic
  deriving DecidableEq, Repr

/-- A memory error met by an access: the tier, its tier-relative address (a loft error by physical slice address), correctable or not (R137). -/
structure MemErr where
  tier : Tier
  addr : Nat
  corrected : Bool
  deriving DecidableEq, Repr

/-- A memory unit with a page of its own: a crib stack, or the four channels of a granary page (R167, R168). -/
inductive MemUnit | stack (n : Fin 12) | page (p : Fin 8)
  deriving DecidableEq, Repr

/-- What trains by itself (R140): a crib stack or a granary channel. -/
inductive TrainUnit | stack (n : Fin 12) | channel (n : Fin 32)
  deriving DecidableEq, Repr

/-- How a memory training ended (R140, R141). -/
inductive TrainKind | fast | full | failed
  deriving DecidableEq, Repr

/-- A bell mark (R179); DEPART in 1/64 beat. -/
structure Mark where
  bell : Nat
  depart : Nat
  tkId : Nat
  tkRank : Nat
  tkEpoch : Nat
  depth : Nat
  state : Nat
  surveyEpoch : Nat
  surveyModules : Nat
  holdBell : Nat
  resumeBell : Nat
  up : Bool
  deriving DecidableEq, Repr

/-- A PEER message (R202). -/
structure PeerMsg where
  modId : Nat
  link : Nat
  posValid : Bool
  quiet : Bool
  epoch : Nat
  buf : List Nat
  deriving DecidableEq, Repr

/-- A twin heartbeat (R418). -/
structure Heartbeat where
  modId : Nat
  state : Nat
  twinState : Nat
  fallow : Bool
  mirror : Bool
  mirrorSync : Bool
  bell : Nat
  alm0 : Nat
  alm1 : Nat
  twin : Nat
  deriving DecidableEq, Repr

/-- Link-control messages (R179, R202). -/
inductive CtlMsg
  | ack | nak (expected : Nat) | credit (freed : List Nat)
  | bell (m : Mark) | hold (origin bell cause : Nat) | ready (origin bell : Nat) | resume (holdBell resumeBell : Nat)
  | surveyReq (seq t1 : Nat) | surveyRsp (seq t2 t3 : Nat) | heartbeat (h : Heartbeat)
  | shed (keepB : Bool) | restore (phase bell : Nat) | quiet (origin bell : Nat) | live | peer (p : PeerMsg)
  deriving DecidableEq, Repr

/-- A frame of VC0–VC6 (R198, R199) without the link's own LSEQ and ACK. -/
structure LFrame where
  vc : Nat
  typ : Nat
  dest : Nat
  src : Nat
  fwd : Bool
  flow : Nat
  ctx : Nat
  payload : List Byte
  deriving DecidableEq, Repr

/-- A flit slot as received (R195, R196): its FLIT_KIND, whether it lay in an uncorrectable codeword, its 64 bytes. -/
structure Slot where
  kind : Nat
  lost : Bool
  bytes : List Byte
  deriving DecidableEq, Repr

/-- A received VC7 frame (R199, R202): the link it arrives on and its header's ACK. -/
structure Vc7 where
  k : Nat
  ack : Nat
  deriving DecidableEq, Repr

/-- A received VC7 frame of a message of the stead that is sent in two copies (R203): its link, its header's ACK, its copy. -/
structure Vc7Copy where
  k : Nat
  ack : Nat
  copy : Bool
  deriving DecidableEq, Repr

/-- The size of a register access in bytes, and whether all its byte enables are set (R37). -/
structure BusSize where
  bytes : Nat
  full : Bool
  deriving DecidableEq, Repr

/-- Where a received RME packet waits: sent by this module to itself, in the receive buffer of a link, or in that of an Ethernet port or sub-port. -/
inductive RxAt | self | link (k : Nat) | eth (port sub prio : Nat)
  deriving DecidableEq, Repr

/-- The form of a doorbell write (R264): the whole 8-byte word, its low half, or its high half alone. -/
inductive BellForm | whole | low | high
  deriving DecidableEq, Repr

/-- What a doorbell write carries (R264): its form and the word. -/
structure BellWrite where
  form : BellForm
  v : Nat
  deriving DecidableEq, Repr

/-- A configuration request (R349, R353, R357, R358, R382): one that changes nothing the module acts on, the CXL.mem enable, the BAR4 size, a
function's Relaxed Ordering Enable, the completion timeout in microseconds. -/
inductive CfgWrite | none | cxlMem (on : Bool) | bar4Full (full : Bool) | relaxed (fn : Nat) (on : Bool) | timeout (us : Nat)
  deriving DecidableEq, Repr

/-- What the sensors give at a bell boundary (R168, R399, R438, R449): coolant inlet and outlet in 0.01 °C, flow, input voltage and current, mean power,
hottest junction, and the temperatures of crib stacks and granary channels. -/
structure Sensors where
  inlet : Nat
  outlet : Nat
  flow : Nat
  volts : Nat
  amps : Nat
  watts : Nat
  junction : Nat
  crib : List Nat
  grn : List Nat
  deriving DecidableEq, Repr

end Sys2Proof.Machine

namespace Sys2Proof
open Machine

/-- The command set: one constructor per row of the opcode table, in the table's order. Operands are explained at each meaning, exec<Name>. -/
inductive Instr
  | registerWrite (src addr : Nat) (size : BusSize) (v : Nat)
  | rcFieldRead (src addr : Nat) (size : BusSize)
  | pairLoRead (src addr : Nat)
  | pairHiRead (src addr : Nat)
  | pairLoWrite (src addr v : Nat)
  | pairHiWrite (src addr v : Nat)
  | violClear (src page : Nat)
  | goReady (src : Nat)
  | goSafe (src : Nat)
  | modeRequest (src v : Nat)
  | modeBellEvaluation
  | bellBoundary (r : Sensors)
  | load (src : Nat)
  | admitAlmanac (src : Nat)
  | admissionComplete (ctx : Nat)
  | run (src : Nat)
  | stop (src : Nat)
  | unload (src : Nat)
  | stopTakesEffect (ctx : Nat)
  | startBellReached (ctx : Nat)
  | reevalHold (ctx : Nat)
  | stampedEntryIssue (ctx : Nat)
  | localEntryIssue (ctx : Nat)
  | almanacCacheFill (ctx idx : Nat)
  | entryComplete (ctx idx : Nat) (ecc : List MemErr)
  | bellWaitFrameStart (ctx : Nat)
  | occupancyEndCheck (ctx idx : Nat)
  | transferComplete (ctx idx : Nat)
  | shiftBoundary
  | spillDeadline
  | sliceSpillComplete
  | sliceRestoreComplete
  | thrApply (src : Nat)
  | thrApplyResult
  | chaffClear (src : Nat)
  | chaffClearDone
  | genOutRead (src : Nat)
  | memoryTrainingComplete (u : TrainUnit) (kind : TrainKind) (time : Nat)
  | unitOut (src : Nat) (u : MemUnit)
  | unitReturn (src : Nat) (u : MemUnit)
  | translationMiss (space va : Nat) (acs : Acs) (requester : Nat) (stall : Bool)
  | walkComplete
  | faultQueueWrite (space : Nat)
  | fqConsWrite (src v : Nat)
  | faultReplyRetry (src space id : Nat)
  | faultReplyFail (src space id : Nat)
  | faultReplyTimeout (space : Nat)
  | invalidateGo (src : Nat) (all : Bool)
  | invalidateComplete
  | poolProdWrite (src v : Nat)
  | prefetch (owner : Nat)
  | prefetchPageDone (space : Nat)
  | advise (owner : Nat)
  | loftQuotaWrite (src q : Nat)
  | spillRegionWrite (src base : Nat)
  | bellMarkReceive (h : Vc7) (m : Mark) (arrive : Nat)
  | upstreamLoss
  | lockAchieved
  | holdoverLimit
  | timekeeperTakeover
  | surveyGo (src : Nat)
  | resurvey (src : Nat)
  | surveyReq (h : Vc7) (seq t1 arrive : Nat)
  | surveyRsp (h : Vc7) (seq t2 t3 t4 : Nat)
  | surveyTimeout
  | hold (h : Vc7Copy) (origin bell cause : Nat)
  | holdBellReached
  | ready (h : Vc7Copy) (origin bell : Nat)
  | resume (h : Vc7Copy) (holdBell resumeBell : Nat)
  | resumeBellReached
  | flitSlotTransmit (k : Nat)
  | frameReceive (k corrected arrive : Nat) (kinds : List Nat) (lost : List Bool) (bytes : List (List Byte))
  | codewordUncorrectable (k : Nat) (pairB : Bool) (n : Nat)
  | frameTaken (k vc : Nat)
  | linkAck (k ack : Nat)
  | linkNak (h : Vc7) (copy : Bool) (expected : Nat)
  | linkCredit (h : Vc7) (freed : List Nat)
  | linkAckTimer (k : Nat)
  | linkCreditTimer (k : Nat)
  | replayTimeout (k : Nat)
  | peer (h : Vc7) (copy : Bool) (m : PeerMsg)
  | peerRepeatTimer (k : Nat)
  | laneLoss (k lane : Nat)
  | shed (h : Vc7) (copy keepB : Bool)
  | shedRetrainEnd (k : Nat) (ok : Bool)
  | laneLock (k lane : Nat)
  | trainingSignalDetect (k : Nat)
  | trainingEnd (k lanes : Nat)
  | trainingRetry (k : Nat)
  | linkDisable (src k : Nat) (v : Bool)
  | retrain (src k : Nat)
  | restore (h : Vc7) (src : Option Nat) (copy : Bool) (phase bell : Nat)
  | restorePairLocked (k : Nat)
  | restoreJoinBell (k : Nat)
  | restoreTimeout (k : Nat)
  | vcBufWrite (src k vc n : Nat)
  | quiet (h : Vc7) (copy : Bool) (origin bell : Nat)
  | live (h : Vc7) (copy : Bool)
  | chainSetup (ch pos g : Nat)
  | produced (ch pos g beat : Nat)
  | anchored (ch pos g : Nat)
  | arrived (ch pos g level : Nat)
  | reduced (ch pos g : Nat)
  | root (ch pos g : Nat)
  | down (ch pos g : Nat)
  | sent (ch pos g : Nat)
  | relay (ch g origin : Nat)
  | combineData (k vc : Nat)
  | anchorUp (k vc : Nat)
  | anchorDown (k vc : Nat)
  | grant (k : Nat)
  | windowPlaceFree (k vc : Nat)
  | tenantCombineTimeout
  | doorbellProducer (src qid : Nat) (w : BellWrite)
  | doorbellConsumer (src qid : Nat) (w : BellWrite) (arm : Bool)
  | workEntryFetch (qid : Nat)
  | sqNop (qpn : Nat)
  | sqSend (qpn : Nat)
  | sqWrite (qpn : Nat)
  | sqRead (qpn : Nat)
  | sqFetchAdd (qpn : Nat)
  | sqCompareSwap (qpn : Nat)
  | cqStallTimeout (qpn : Nat)
  | contextFetchComplete (qpn : Nat)
  | createCq (owner : Nat)
  | destroyCq (owner : Nat)
  | createWq (owner : Nat)
  | destroyWq (owner : Nat)
  | createQp (owner : Nat)
  | connectQp (owner : Nat)
  | resetQp (owner : Nat)
  | destroyQp (owner : Nat)
  | queryQp (owner : Nat)
  | almLoad (owner : Nat)
  | almAdmit (owner : Nat)
  | almRun (owner : Nat)
  | almStop (owner : Nat)
  | almUnload (owner : Nat)
  | keyAlloc (owner : Nat)
  | keyFree (owner : Nat)
  | adminNop (owner : Nat)
  | queryUse (owner : Nat)
  | adminUnlistedOpcode (owner : Nat)
  | ortSend (rx : RxAt)
  | ortWrite (rx : RxAt)
  | readReq (rx : RxAt)
  | readResp (rx : RxAt)
  | ortFetchAdd (rx : RxAt)
  | ortCompareSwap (rx : RxAt)
  | atomicResp (rx : RxAt)
  | ortAck (rx : RxAt)
  | ortNak (rx : RxAt)
  | ortCredit (rx : RxAt)
  | connect (rx : RxAt)
  | accept (rx : RxAt)
  | resetNotice (rx : RxAt)
  | ortCombine (rx : RxAt)
  | retransmitTimeout (qpn : Nat)
  | creditWaitTimeout (qpn : Nat)
  | connectResendTimer (qpn : Nat)
  | connectWaitTimeout (qpn : Nat)
  | ackDelayTimer (qpn : Nat)
  | creditUpdateTimer (qpn : Nat)
  | ethFrameReceive (p q : Nat) (bytes : List Byte) (phase : Nat) (parts : Option Bool)
  | ethRxBufferRelease (p q prio : Nat)
  | xoffRepeatTimer (p q prio : Nat)
  | pfcFrameReceive (p q : Nat) (quanta : List (Nat × Nat))
  | pauseExpiry (p q prio : Nat)
  | stormDetect (p q prio : Nat)
  | ethTransmitSelect (p q : Nat)
  | ethLinkUp (p q : Nat)
  | ethLinkDown (p q : Nat)
  | ethAnRetry (p q : Nat)
  | verifyRestart (src p q : Nat)
  | verifyAttemptEnd (p q : Nat) (ok : Bool)
  | tmapCommit (src p : Nat)
  | tmapValidTimeout (p : Nat)
  | ppsOutSecond
  | ppsInEdge (pin : Nat)
  | gateChange (src p q : Nat)
  | gateAdmissionComplete (p q : Nat)
  | gateListSwap (p q : Nat)
  | gateEntryAdvance (p q : Nat)
  | shaperApply (src p : Nat)
  | keySelWrite (src kind slot : Nat)
  | keyDataWrite (src word v : Nat)
  | keyTweakWrite (src : Nat) (high : Bool) (v : Nat)
  | keyCommit (src : Nat)
  | zeroise (src : Nat)
  | cipherTest (src : Nat)
  | cipherTestResult (result : Nat)
  | bar4Access (off len : Nat) (data : Option (List (Option Byte))) (errs : List MemErr)
  | cxlMemAccess (addr len : Nat) (data : Option (List (Option Byte))) (errs : List MemErr)
  | apertureAccess (ins off len : Nat) (data : Option (List (Option Byte))) (errs : List MemErr)
  | windowBaseWrite (src v : Nat)
  | atomicopRequest (fn addr : Nat)
  | configRequest (w : CfgWrite)
  | hostLinkUp (speed width : Nat)
  | perstAssert
  | perstDeassert
  | pfFlr
  | vfFlr (ins : Nat)
  | hostReadError (addr len kind : Nat)
  | p2pProbe (src : Nat)
  | p2pProbeResult (window cpl : Nat)
  | fenceConditionMet (ctx idx : Nat)
  | mbH2rProdWrite (src v : Nat)
  | mbHostConsWrite (src v : Nat)
  | hello (owner : Nat)
  | ping (owner : Nat)
  | info (owner : Nat)
  | mailboxMalformed (owner : Nat)
  | relaySend
  | relayFrameReceive (k : Nat)
  | relayAckReceive (k : Nat)
  | relayResendTimer
  | insEnable (src ins : Nat) (v : Bool)
  | insReset (src ins : Nat)
  | vfEnableChange (n : Nat)
  | qpDrainEnd (qpn : Nat)
  | resetSquash (ins : Nat)
  | instanceQuotaWrite (src ins reg v : Nat)
  | watchdogCore0Expiry
  | watchdogExpiry (core : Nat)
  | coreRestartComplete (core : Nat)
  | coreReset (src : Nat)
  | moduleReset (src : Nat)
  | auxPowerGood
  | mainPowerLoss (main aux : Bool)
  | mainPowerReturn
  | bootRomChecksDone
  | imageVerifyDone
  | settingsRecordRead (bad : Bool)
  | mainRailsSequenced
  | dieResetsReleased
  | bootComplete
  | kaAck (src v : Nat)
  | stage (src : Nat)
  | stageComplete (fail : Nat)
  | verify (src : Nat)
  | activateLive (src : Nat)
  | liveLoadComplete
  | handoffBell
  | coreResumeReport (core : Nat)
  | handoffTimeout
  | activateNext (src : Nat)
  | abandon (src : Nat)
  | setWrite (src : Nat)
  | setWriteComplete (bad : Bool)
  | programPage (src : Nat)
  | raiseSvn (src : Nat)
  | governorPowerLimit
  | governorSkipEnd (n : Nat)
  | overcurrent
  | junctionTempLimit (max : Bool)
  | cribTempLimit
  | railOutOfLimit
  | faultInterrupt
  | forceWrite (src source : Nat) (v : Bool)
  | srcCfgWrite (src cls n w : Nat)
  | heartbeat (h : Vc7) (b : Heartbeat)
  | heartbeatMissing
  | substitutionAnnounce (k : Nat)
  | switchBell (reissue : List Nat)
  | mirrorWriteReceive (k : Nat)
  | twinCtrlWrite (src v : Nat)
  | lift (src : Nat)
  | attach (src : Nat)
  | cancel (src : Nat)
  | recovered (src : Nat)
  | twinCopyComplete
  | liftDrainComplete
  | kaSenseSample (leak lid : Bool)
  | kaCapacitorLost
  | leakSense
  | lidOpen
  | leakInSample (pin : Nat) (low : Bool)
  | gpFuncWrite (src pin f : Nat)
  | gpHoldEnd (pin : Nat)
  | spiWrite (addr : Nat) (words : List Nat)
  | spiRead (addr n : Nat)
  | spiStatus
  | spiCsRelease (cmd edges : Nat)
  | smbBlockWrite (count addr v : Nat) (pecBad : Bool)
  | smbProcessCall (count addr : Nat) (pecBad : Bool)
  | smbReadByte
  | smbTimeout
  | hostLinkDown
  | prefetchPoolTimeout (space : Nat)
  | faultCauseGone (source : Nat)
  deriving DecidableEq, Repr

end Sys2Proof
end

