-- ==== Sys2Proof/Decode.lean ====
section
/-!
DEFINITION. Decode.lean: the command that a word of the opcode table's bits spells. No row of spec/opcode_table.json gives bits, so no
word spells a command.
-/
namespace Sys2Proof

/-- The command that the low `nbits` bits of `w` spell by the table's bits: none, since no row of the table gives any. -/
def decodeTableWord (_nbits _w : Nat) : Option Instr := none

end Sys2Proof
end

