-- ==== Sys2Proof/Machine/Operands.lean ====
section
/-!
DEFINITION. Machine/Operands.lean: bit fields, byte orders and small exact arithmetic on numbers (R7, R8). Registers and message fields are
held field by field as numbers; words and byte strings are put together and taken apart here, once.
-/
namespace Sys2Proof.Machine

/-- Bits [lo + width - 1 : lo] of `v` (R7). -/
def field (v lo width : Nat) : Nat := v / 2 ^ lo % 2 ^ width

/-- Bit `i` of `v`. -/
def bit (v i : Nat) : Bool := v / 2 ^ i % 2 == 1

/-- 0 or 1. -/
def b2n (b : Bool) : Nat := if b then 1 else 0

/-- `v` with bit `i` set, cleared or left alone. -/
def setBit (v i : Nat) (b : Bool) : Nat := v - (b2n (bit v i)) * 2 ^ i + b2n b * 2 ^ i

/-- `v` with bits [lo + width - 1 : lo] replaced by the low bits of `x`. -/
def putField (v lo width x : Nat) : Nat := v - field v lo width * 2 ^ lo + x % 2 ^ width * 2 ^ lo

/-- The number of set bits among the low `n` bits of `v`. -/
def popCount (v : Nat) : Nat → Nat
  | 0 => 0
  | n + 1 => b2n (bit v n) + popCount v n

/-- The set bits among the low `n` bits of `v`, lowest first. -/
def bitsOf (v n : Nat) : List Nat := (List.range n).filter (bit v)

/-- `a` rounded up to a whole number of `b`, counted in `b`. -/
def ceilDiv (a b : Nat) : Nat := (a + b - 1) / b

/-- The smallest k with 2^k ≥ v, at most `fuel`. -/
def log2Ceil (v : Nat) : Nat → Nat
  | 0 => 0
  | k + 1 => if v ≤ 1 then 0 else 1 + log2Ceil ((v + 1) / 2) k

/-- The little-endian number of a byte string (R8). -/
def ofLE : List Byte → Nat
  | [] => 0
  | b :: t => b.toNat + 256 * ofLE t

/-- `n` bytes of `v`, little-endian (R8). -/
def toLE : Nat → Nat → List Byte
  | 0, _ => []
  | n + 1, v => BitVec.ofNat 8 v :: toLE n (v / 256)

/-- The big-endian number of a byte string (R8, network order). -/
def ofBE (l : List Byte) : Nat := ofLE l.reverse

/-- `n` bytes of `v`, big-endian (R8, network order). -/
def toBE (n v : Nat) : List Byte := (toLE n v).reverse

/-- The words of a byte string, 32 bits each, little-endian; a short last word is filled with zeros. -/
def wordsOf : Nat → List Byte → List Nat
  | 0, _ => []
  | k + 1, l => ofLE (l.take 4) :: wordsOf k (l.drop 4)

/-- The bytes of 32-bit words, little-endian. -/
def bytesOf (ws : List Nat) : List Byte := ws.flatMap (toLE 4)

/-- The signed number of the low `n` bits of `v` (two's complement). -/
def sext (n v : Nat) : Int := let x := v % 2 ^ n; if x < 2 ^ (n - 1) then x else (x : Int) - 2 ^ n

/-- The low `n` bits of an integer (two's complement). -/
def wrap (n : Nat) (i : Int) : Nat := (i % (2 ^ n : Int)).toNat

/-- The little-endian number of `n` bytes from offset `o`. -/
def leAt (b : List Byte) (o n : Nat) : Nat := ofLE ((b.drop o).take n)

/-- The distance a − b modulo 2^n. -/
def subMod (n a b : Nat) : Nat := (a + 2 ^ n - b % 2 ^ n) % 2 ^ n

/-- `l` with element `i` replaced; unchanged where there is none. -/
def setAt {α : Type} (l : List α) (i : Nat) (v : α) : List α := l.set i v

/-- CRC-32 of one byte on a running remainder (R4, reflected polynomial 0xEDB8_8320). -/
def crcByte (r : Nat) (b : Byte) : Nat :=
  (List.range 8).foldl (fun r _ => if r % 2 == 1 then Nat.xor (r / 2) 0xEDB88320 else r / 2) (Nat.xor r b.toNat)

/-- CRC-32 of R4: polynomial 0x04C1_1DB7 reflected, initial value and final exclusive-or 0xFFFF_FFFF. -/
def crc32 (l : List Byte) : Nat := Nat.xor (l.foldl crcByte 0xFFFFFFFF) 0xFFFFFFFF

end Sys2Proof.Machine
end

