-- ==== Sys2Proof/Machine/Digest.lean ====
section
/-!
DEFINITION. Machine/Digest.lean: SHA-384 (FIPS 180-4) and ECDSA over P-384 (FIPS 186-5), by which an image is verified (R386).
-/
namespace Sys2Proof.Machine

/-! ### SHA-384 -/

namespace Sha

/-- The first 80 primes. -/
def primes : List Nat := (List.range 410).filter (fun n => 2 ≤ n && (List.range n).all (fun d => d < 2 || n % d != 0))

/-- The integer cube root, by bisection over `n` bits. -/
def cbrtGo (x : Nat) : Nat → Nat → Nat
  | 0, r => r
  | n + 1, r => let s := r + 2 ^ n; cbrtGo x n (if s ^ 3 ≤ x then s else r)

/-- The integer square root, by bisection over `n` bits. -/
def sqrtGo (x : Nat) : Nat → Nat → Nat
  | 0, r => r
  | n + 1, r => let s := r + 2 ^ n; sqrtGo x n (if s ^ 2 ≤ x then s else r)

/-- Round constants: the first 64 bits of the fractional parts of the cube roots of the primes. -/
def k64 (p : Nat) : Nat := cbrtGo (p * 2 ^ 192) 70 0 % 2 ^ 64

/-- Initial value of SHA-384: of the square roots of the 9th to the 16th prime. -/
def init : List Nat := ((primes.drop 8).take 8).map (fun p => sqrtGo (p * 2 ^ 128) 70 0 % 2 ^ 64)

def rotr (x n : Nat) : Nat := x / 2 ^ n + x % 2 ^ n * 2 ^ (64 - n)
def inv (x : Nat) : Nat := 2 ^ 64 - 1 - x
def xor3 (a b c : Nat) : Nat := Nat.xor (Nat.xor a b) c

/-- The next word of the message schedule, from the last sixteen. -/
def sched (w : List Nat) : Nat :=
  let s0 := w.getD 1 0
  let s1 := w.getD 14 0
  (xor3 (rotr s1 19) (rotr s1 61) (s1 / 2 ^ 6) + w.getD 9 0 + xor3 (rotr s0 1) (rotr s0 8) (s0 / 2 ^ 7) + w.getD 0 0) % 2 ^ 64

/-- One round on the eight working variables. -/
def round (v : List Nat) (k w : Nat) : List Nat :=
  match v with
  | [a, b, c, d, e, f, g, h] =>
    let t1 := h + xor3 (rotr e 14) (rotr e 18) (rotr e 41) + Nat.xor (Nat.land e f) (Nat.land (inv e) g) + k + w
    let t2 := xor3 (rotr a 28) (rotr a 34) (rotr a 39) + xor3 (Nat.land a b) (Nat.land a c) (Nat.land b c)
    [(t1 + t2) % 2 ^ 64, a, b, c, (d + t1) % 2 ^ 64, e, f, g]
  | _ => v

/-- Rounds over the constants; the schedule moves on with each. -/
def rounds : List Nat → List Nat → List Nat → List Nat
  | [], _, v => v
  | k :: ks, w, v => rounds ks (w.drop 1 ++ [sched w]) (round v k (w.getD 0 0))

/-- One 128-byte block. -/
def block (ks : List Nat) (h : List Nat) (b : List Byte) : List Nat :=
  let w := (List.range 16).map (fun i => ofBE ((b.drop (8 * i)).take 8))
  (h.zip (rounds ks w h)).map (fun (x, y) => (x + y) % 2 ^ 64)

/-- The blocks of a padded message. -/
def blocks (ks : List Nat) : Nat → List Nat → List Byte → List Nat
  | 0, h, _ => h
  | n + 1, h, m => blocks ks n (block ks h (m.take 128)) (m.drop 128)

/-- SHA-384 of a byte string, as a number of 384 bits. -/
def sha384 (m : List Byte) : Nat :=
  let zeros := (239 - m.length % 128) % 128
  let p := m ++ [0x80] ++ List.replicate zeros 0 ++ toBE 16 (8 * m.length)
  let h := blocks (primes.map k64) (p.length / 128) init p
  (h.take 6).foldl (fun a x => a * 2 ^ 64 + x) 0

end Sha

/-! ### ECDSA P-384 -/

namespace P384

def p : Nat := 2 ^ 384 - 2 ^ 128 - 2 ^ 96 + 2 ^ 32 - 1
def n : Nat := 0xFFFFFFFFFFFFFFFFFFFFFFFFFFFFFFFFFFFFFFFFFFFFFFFFC7634D81F4372DDF581A0DB248B0A77AECEC196ACCC52973
def b : Nat := 0xB3312FA7E23EE7E4988E056BE3F82D19181D9C6EFE8141120314088F5013875AC656398D8A2ED19D2A85C8EDD3EC2AEF
def gx : Nat := 0xAA87CA22BE8B05378EB1C71EF320AD746E1D3B628BA79B9859F741E082542A385502F25DBF55296C3A545E3872760AB7
def gy : Nat := 0x3617DE4A96262C6F5D9E98BF9292DC29F8F41DBD289A147CE9DA3113B5F0B8C00A60B1CE1D7E819D7A431D7C90EA0E5F

/-- a to the power e modulo m, over `k` bits of e. -/
def pow (m a e : Nat) : Nat → Nat
  | 0 => 1 % m
  | k + 1 =>
    let r := pow m a e k
    let r := r * r % m
    if e / 2 ^ (383 - k) % 2 = 1 then r * a % m else r

/-- The inverse modulo a prime. -/
def inv (m a : Nat) : Nat := pow m a (m - 2) 384

def sub (x y : Nat) : Nat := (x + p - y % p) % p

/-- The sum of two points; none is the point at infinity. -/
def add (u v : Option (Nat × Nat)) : Option (Nat × Nat) :=
  match u, v with
  | none, v => v
  | u, none => u
  | some (x1, y1), some (x2, y2) =>
    if x1 = x2 ∧ (y1 + y2) % p = 0 then none
    else
      let l := if x1 = x2 then (3 * x1 * x1 + p - 3) % p * inv p (2 * y1 % p) % p else sub y2 y1 * inv p (sub x2 x1) % p
      let x := sub (l * l) (x1 + x2)
      some (x, sub (l * sub x1 x) y1)

/-- A multiple of a point, over `k` bits of the factor. -/
def mul (e : Nat) (q : Option (Nat × Nat)) : Nat → Option (Nat × Nat)
  | 0 => none
  | k + 1 =>
    let r := mul e q k
    let r := add r r
    if e / 2 ^ (383 - k) % 2 = 1 then add r q else r

/-- A public key is a point of the curve. -/
def onCurve (x y : Nat) : Bool := decide (x < p) && decide (y < p) && y * y % p == (x * x % p * x + (p - 3) * x + b) % p

/-- A signature (r, s) of the digest `e` verifies under the key (x, y). -/
def verify (x y r s e : Nat) : Bool :=
  if decide (0 < r) && decide (r < n) && decide (0 < s) && decide (s < n) && onCurve x y then
    let w := inv n s
    match add (mul (e * w % n) (some (gx, gy)) 384) (mul (r * w % n) (some (x, y)) 384) with
    | some (vx, _) => vx % n == r
    | none => false
  else false

end P384

end Sys2Proof.Machine
end

