-- ==== Sys2Proof/Config.lean ====
section
/-!
DEFINITION. Config.lean: the values the spec leaves open, as constants without a body. Nothing in Lean can evaluate one or prove a
value of it, so a statement that holds in the model holds whatever they are. Each is named in the assumption log.
-/
namespace Sys2Proof.Config

/-- A byte of memory whose content the spec calls undefined: tag of the undefined range, then the address (log entry 5). -/
opaque undefByte : Nat → Nat → Byte

/-- A fresh value the spec leaves open, applied to the counter `freeCtr` of the state (log entry 10). -/
opaque freeNat : Nat → Nat

/-- The SHA-384 digest of the vendor key fused in the die (R386), as a number (log entry 18). -/
opaque vendorDigest : Nat

/-- The training-algorithm revision (R141) of the firmware of a GLB_FW_VER (log entry 209). -/
opaque trainRevision : Nat → Nat
/-- The fields of IP headers and tags that the spec leaves open: 0 ECN, 1 flow label or identification and DF, 2 hop limit, 3 DEI; for one frame
(log entry 232). -/
opaque ipField : Nat → Nat → Nat

end Sys2Proof.Config
end

