-- ==== Sys2Proof/Machine/RegMap.lean ====
section
/-!
DEFINITION. Machine/RegMap.lean: the register map. One field constant per field of the register tables of spec/ (R34, R51 and the
register map of every chapter), with its page, offset, bit position, access type and reset value, and one row per register.
A field whose reset the spec gives no number for has reset 0 (log entry 3); a field whose value is another part of the state, or
follows the variant, is a `view` and is computed where the register is read.
-/
namespace Sys2Proof.Machine

/-- Access types of register fields (R9); RSV fields have no constant: they read zero and ignore writes. -/
inductive Acc | rw | ro | wo | w1c | w1s | rc
  deriving DecidableEq, Repr

/-- How a field's reset value is given: a number, a rule over its index (AGL_VC_CFG, ETH_DSCP_MAP, AGL_EXPECT), or a computed view. -/
inductive Rst | n (v : Nat) | vcWeight | vcBuf | dscp | aglExpect | view
  deriving DecidableEq, Repr

/-- One register field: BAR0 page number of its block's first page, offset, stride of an array register, low bit, width, access, reset. -/
structure Fld where
  page : Nat
  off : Nat
  stride : Nat
  lo : Nat
  width : Nat
  acc : Acc
  rst : Rst
  deriving DecidableEq, Repr

/-- What selects the copy of a banked register (the selector registers of the chapters). -/
inductive Bank
  | none | almCtx | thrInst | thrPwr | ariScope | lftInst | xltSpace | xltPool | clkLink | clkDomain | aglVc | cmbXs | cmbTgrp
  | ortPort | ortQp | ethShp | p2p | fltSrc | fltInst | fwcCore
  deriving DecidableEq, Repr

/-- The registers of the module, by the names of the chapters' register maps. -/
inductive Reg
  | PAGE_ID | PAGE_VER | PAGE_CAP | PAGE_STATUS | VIOL_ADDR | VIOL_INFO | PAGE_CTRL | PAGE_TAG | GLB_DEVICE | GLB_FW_VER
  | GLB_SERIAL | GLB_CAP | GLB_CAP_LINKS | GLB_CAP_GRN | GLB_CAP_CRB | GLB_SVC_LINKS | GLB_SVC_GRN | GLB_SVC_CRB | GLB_FW_IF
  | GLB_STATE | GLB_CMD | GLB_MODE | GLB_SETTINGS | GLB_POSITION | GLB_SET_CHECK | GLB_SET_CALC | GLB_SET_TAG | GLB_MODE_AT
  | ALM_CTX | ALM_CMD | ALM_STATE | ALM_FAIL_IDX | ALM_BASE | ALM_DESC | ALM_DESC_COUNT | ALM_GROUP | ALM_START | ALM_PC
  | ALM_STEP | ALM_HELD | THR_STATUS | THR_BUSY | THR_SWITCH | THR_SHIFT_SEL | THR_SHIFT_CFG | THR_SHIFT_STAGE | THR_SHIFT_CMD
  | THR_PWR_SEL | THR_PWR_COEF | ARI_SEL | ARI_FLAGS | ARI_NAN_IN | ARI_NAN_OUT | ARI_INF_OUT | ARI_SAT | ARI_UFL | ARI_SCALE_CLAMP
  | ARI_TALLY_NF | ARI_CHAFF_NF | ARI_CHAFF_DESC | ARI_CHAFF_CMD | ARI_CHAFF_STATUS | ARI_GEN_SEED | ARI_GEN_STEP | ARI_GEN_DESC
  | ARI_GEN_I0 | ARI_GEN_I1 | ARI_GEN_I2 | ARI_GEN_I3 | ARI_GEN_OUT | LFT_STATUS | LFT_SEL | LFT_QUOTA | LFT_SPILL | LFT_RESIDENT
  | LFT_SPILLS | LFT_ECC_CORR | LFT_ECC_UNCORR | CRB_STATUS | CRB_CTRL | CRB_ECC_CORR | CRB_ECC_UNCORR | CRB_ERR_ADDR | GRN_CH_STATUS
  | GRN_CTRL | GRN_ECC_CORR | GRN_ECC_UNCORR | GRN_ERR_ADDR | XLT_SEL | XLT_SPACE_CTRL | XLT_ROOT | XLT_FQ_BASE | XLT_FQ_SIZE
  | XLT_FQ_PROD | XLT_FQ_CONS | XLT_FQ_TIMEOUT | XLT_FQ_REPLY | XLT_FQ_STATUS | XLT_INV_VA | XLT_INV_SIZE | XLT_INV_CMD | XLT_INV_DONE
  | XLT_MISSES | XLT_WALK_ERR | XLT_FQ_DROP | XLT_POOL_SEL | XLT_POOL_BASE | XLT_POOL_SIZE | XLT_POOL_PROD | XLT_POOL_CONS
  | XLT_POOL_LOW | CLK_STATUS | CLK_CTRL | CLK_BEAT | CLK_UPSTREAM | CLK_TK_ORDER0 | CLK_TK_ORDER1 | CLK_HOLDOVER | CLK_SURVEY
  | CLK_STEAD_SIZE | CLK_LINK_SEL | CLK_LINK_DELAY | CLK_LINK_ASYM | CLK_ALIGN | CLK_HOLD_BELL | CLK_RESUME_BELL | CLK_LATE
  | CLK_DOMAIN_SEL | CLK_DOMAIN_STATUS | AGL_STATUS | AGL_CTRL | AGL_EXPECT | AGL_PEER | AGL_LANES | AGL_SEQ | AGL_REPLAY
  | AGL_TRAIN_TIME | AGL_VC_SEL | AGL_VC_CFG | AGL_VC_CREDIT | AGL_CRC_ERR | AGL_RETRY | AGL_FEC_UNCORR | AGL_SHEDS | AGL_FEC_CORR
  | AGL_TX_FLITS | AGL_RX_FLITS | AGL_DROP_ROUTE | AGL_DROP_CTRL | CMB_STATUS | CMB_STEAD | CMB_XS_SEL | CMB_XS_QP | CMB_SUBST
  | CMB_TGRP_SEL | CMB_TGRP | CMB_TWAIT | CMB_SHEAVES_OUT | CMB_SHEAVES_IN | CMB_DROP | CMB_TRIG_PEAK | CMB_RING_WAIT | RME_STATUS
  | RME_CTRL | RME_CTX_BASE | RME_ADMQ_BASE | RME_ADMQ_CFG | RME_ADMCQ_BASE | RME_ADMCQ_SHADOW | RME_CACHE | RME_LAST_ERR
  | RME_OPS | RME_CTX_MISS | RME_CTX_WB | RME_QERR | RME_CQ_STALL | ORT_CTRL | ORT_UDP_PORT | ORT_QP_TIMEOUT | ORT_CONN_WAIT
  | ORT_PORT_SEL | ORT_ADDR | ORT_ADDR_V4 | ORT_ADDR_CFG | ORT_QP_SEL | ORT_QP_STATE | ORT_QP_RTT | ORT_TX_PKTS | ORT_RX_PKTS
  | ORT_RETX | ORT_TIMEOUTS | ORT_NAK_TX | ORT_DROP | ORT_TAG_FAIL | ORT_CONN_REJ | ETH_STATUS | ETH_CTRL | ETH_MAC | ETH_PFC_CFG
  | ETH_PFC_STATUS | ETH_PREEMPT | ETH_DSCP_MAP | ETH_GATE_CTRL | ETH_GATE_STATUS | ETH_GATE_BASE | ETH_GATE_CYCLE | ETH_GATE_LEN
  | ETH_TMAP_BEAT | ETH_TMAP_TIME | ETH_TMAP_RATE | ETH_TMAP_CTRL | ETH_SHP_SEL | ETH_SHP_RATE | ETH_SHP_DEPTH | ETH_SHP_CMD
  | ETH_SHP_LEVEL | ETH_PPS_CTRL | ETH_PPS_IN | ETH_CNT_OVF | ETH_TX_OCTETS | ETH_RX_OCTETS | ETH_TX_FRAMES | ETH_RX_FRAMES
  | ETH_RX_FCS_ERR | ETH_RX_OVERSIZE | ETH_RX_RUNT | ETH_RX_OTHER | ETH_RX_DROP_BUF | ETH_TX_PFC | ETH_RX_PFC | ETH_TX_FRAGMENTS
  | ETH_RX_ASSY_OK | ETH_RX_ASSY_ERR | ETH_TX_ABORTED | ETH_GATE_ADMIN | ETH_GATE_OPER | CPH_STATUS | CPH_TEST | CPH_GCM_TX_SEG
  | CPH_GCM_RX_SEG | CPH_XTS_SECT | CPH_HOLD_PEAK | KEY_SEL | KEY_CMD | KEY_STATUS | KEY_INFO | KEY_TWEAK | KEY_SECTOR | KEY_DATA
  | HST_STATUS | HST_WIN_BASE | HST_P2P_SEL | HST_P2P_BASE | HST_P2P_CTRL | HST_P2P_STATUS | HST_MB_H2R | HST_MB_R2H | HST_MB_CTRL
  | HST_CPL_TIMEOUT | HST_CPL_ERR | HST_POISON_RX | HST_P2P_DROP | HST_FLR | INS_STATUS | INS_CTRL | INS_QUOTA_Q | INS_QUOTA_QP
  | INS_QUOTA_KEY | INS_USE | INS_USE_QP | INS_ADMQ_BASE | INS_ADMQ_CFG | INS_ADMCQ_BASE | INS_ADMCQ_SHADOW | INS_ADMQ_CTRL
  | INS_APT | INS_MB_H2R | INS_MB_R2H | INS_MB_CTRL | INS_RESET_STAT | FWC_STATUS | FWC_CMD | FWC_RESULT | FWC_SRC | FWC_LEN
  | FWC_FLASH_ADDR | FWC_BANK_A_VER | FWC_BANK_B_VER | FWC_BOOT | FWC_HANDOFF_BELL | FWC_GAP | FWC_CORE_SEL | FWC_CORE | FWC_GOV
  | FWC_POWER | FWC_GOV_SKIP | FWC_SET_BUF | FWC_PAGE | FLT_SUMMARY | FLT_SEVERE_SUM | FLT_CTRL | FLT_SRC_SEL | FLT_SRC_CFG
  | FLT_SRC_COUNT | FLT_SRC_WINDOW | FLT_INST_SEL | FLT_INST_CAUSE | FLT_TWIN_CTRL | FLT_TWIN_CMD | FLT_TWIN_STATUS | FLT_TWIN_BELL
  | FLT_TWIN_OFS | FLT_TWIN_COPY | FLT_HB_MISSED | FLT_SNAP_INFO | FLT_SNAP_TIME | FLT_STATUS | FLT_SEVERE | FLT_FORCE | FLT_ENABLE
  | FLT_SNAP | MGT_STATUS | MGT_GP_FUNC0 | MGT_GP_FUNC1 | MGT_GP_PULL | MGT_GP_OE | MGT_GP_OUT | MGT_GP_IN | MGT_COOLANT_T
  | MGT_COOLANT_F | MGT_INPUT | MGT_RTC | MGT_KA_ALARM | MGT_KA_TIME | MGT_KA_ACK | RST_CMD | RST_CAUSE | RST_CORE_SEL | RST_CORE
  | HST_MB_SLOT | INS_MB_SLOT
  deriving DecidableEq, Repr

/-- One register: its offset in the page, whether it is a 64-bit pair, the number of words (or pairs) and their stride, its bank. -/
structure RegDef where
  reg : Reg
  off : Nat
  pair : Bool
  count : Nat
  stride : Nat
  bank : Bank
  fields : List Fld
  deriving DecidableEq, Repr

def F.PAGE_ID_BLOCK : Fld := ⟨0x0, 0x0, 4, 16, 16, .ro, .view⟩
def F.PAGE_ID_INDEX : Fld := ⟨0x0, 0x0, 4, 0, 16, .ro, .view⟩
def F.PAGE_VER_MAJOR : Fld := ⟨0x0, 0x4, 4, 16, 8, .ro, (.n 1)⟩
def F.PAGE_VER_MINOR : Fld := ⟨0x0, 0x4, 4, 8, 8, .ro, (.n 0)⟩
def F.PAGE_VER_PATCH : Fld := ⟨0x0, 0x4, 4, 0, 8, .ro, (.n 0)⟩
def F.PAGE_CAP_BLOCK_CAP : Fld := ⟨0x0, 0x8, 4, 16, 16, .ro, (.n 0)⟩
def F.PAGE_CAP_PRESENT : Fld := ⟨0x0, 0x8, 4, 0, 1, .ro, .view⟩
def F.PAGE_STATUS_BLOCK_STATUS : Fld := ⟨0x0, 0xc, 4, 16, 16, .ro, (.n 0)⟩
def F.PAGE_STATUS_CNT_SAT : Fld := ⟨0x0, 0xc, 4, 4, 1, .w1c, (.n 0)⟩
def F.PAGE_STATUS_FAULT : Fld := ⟨0x0, 0xc, 4, 3, 1, .ro, (.n 0)⟩
def F.PAGE_STATUS_IN_SERVICE : Fld := ⟨0x0, 0xc, 4, 2, 1, .ro, .view⟩
def F.PAGE_STATUS_LATCH_MISS : Fld := ⟨0x0, 0xc, 4, 1, 1, .w1c, (.n 0)⟩
def F.PAGE_STATUS_VIOL : Fld := ⟨0x0, 0xc, 4, 0, 1, .w1c, (.n 0)⟩
def F.VIOL_ADDR_ADDR : Fld := ⟨0x0, 0x10, 4, 0, 64, .ro, (.n 0)⟩
def F.VIOL_INFO_COUNT : Fld := ⟨0x0, 0x18, 4, 24, 8, .ro, (.n 0)⟩
def F.VIOL_INFO_BAR : Fld := ⟨0x0, 0x18, 4, 16, 2, .ro, (.n 0)⟩
def F.VIOL_INFO_REASON : Fld := ⟨0x0, 0x18, 4, 12, 4, .ro, (.n 0)⟩
def F.VIOL_INFO_ACCESS : Fld := ⟨0x0, 0x18, 4, 10, 2, .ro, (.n 0)⟩
def F.VIOL_INFO_SOURCE : Fld := ⟨0x0, 0x18, 4, 0, 10, .ro, (.n 0)⟩
def F.PAGE_CTRL_VIOL_NOTE_EN : Fld := ⟨0x0, 0x1c, 4, 0, 1, .rw, (.n 1)⟩
def F.PAGE_TAG_TAG : Fld := ⟨0x0, 0x20, 4, 0, 32, .rw, (.n 0)⟩
def F.GLB_DEVICE_DEVICE : Fld := ⟨0x0, 0x80, 4, 16, 16, .ro, (.n 19286)⟩
def F.GLB_DEVICE_STEP_MAJOR : Fld := ⟨0x0, 0x80, 4, 8, 8, .ro, (.n 0)⟩
def F.GLB_DEVICE_STEP_MINOR : Fld := ⟨0x0, 0x80, 4, 0, 8, .ro, (.n 0)⟩
def F.GLB_FW_VER_MAJOR : Fld := ⟨0x0, 0x84, 4, 24, 8, .ro, (.n 0)⟩
def F.GLB_FW_VER_MINOR : Fld := ⟨0x0, 0x84, 4, 16, 8, .ro, (.n 0)⟩
def F.GLB_FW_VER_BUILD : Fld := ⟨0x0, 0x84, 4, 0, 16, .ro, (.n 0)⟩
def F.GLB_SERIAL_SERIAL : Fld := ⟨0x0, 0x88, 4, 0, 64, .ro, (.n 0)⟩
def F.GLB_CAP_SRIOV : Fld := ⟨0x0, 0x90, 4, 7, 1, .ro, (.n 1)⟩
def F.GLB_CAP_CXL_MEM : Fld := ⟨0x0, 0x90, 4, 6, 1, .ro, (.n 1)⟩
def F.GLB_CAP_ORT : Fld := ⟨0x0, 0x90, 4, 5, 1, .ro, .view⟩
def F.GLB_CAP_CIPHER : Fld := ⟨0x0, 0x90, 4, 4, 1, .ro, .view⟩
def F.GLB_CAP_ETH_PORTS : Fld := ⟨0x0, 0x90, 4, 0, 4, .ro, .view⟩
def F.GLB_CAP_LINKS_LINKS : Fld := ⟨0x0, 0x94, 4, 0, 32, .ro, .view⟩
def F.GLB_CAP_GRN_CHANNELS : Fld := ⟨0x0, 0x98, 4, 0, 32, .ro, .view⟩
def F.GLB_CAP_CRB_STACKS : Fld := ⟨0x0, 0x9c, 4, 0, 12, .ro, (.n 4095)⟩
def F.GLB_SVC_LINKS_LINKS : Fld := ⟨0x0, 0xa0, 4, 0, 32, .ro, (.n 0)⟩
def F.GLB_SVC_GRN_CHANNELS : Fld := ⟨0x0, 0xa4, 4, 0, 32, .ro, (.n 0)⟩
def F.GLB_SVC_CRB_STACKS : Fld := ⟨0x0, 0xa8, 4, 0, 12, .ro, (.n 0)⟩
def F.GLB_FW_IF_IF_MAX : Fld := ⟨0x0, 0xac, 4, 16, 16, .ro, (.n 0)⟩
def F.GLB_FW_IF_IF_MIN : Fld := ⟨0x0, 0xac, 4, 0, 16, .ro, (.n 0)⟩
def F.GLB_STATE_SAFE_CAUSE : Fld := ⟨0x0, 0xb0, 4, 16, 1, .ro, (.n 0)⟩
def F.GLB_STATE_CMD_RESULT : Fld := ⟨0x0, 0xb0, 4, 8, 4, .ro, (.n 0)⟩
def F.GLB_STATE_SERVICE_LEVEL : Fld := ⟨0x0, 0xb0, 4, 4, 3, .ro, (.n 0)⟩
def F.GLB_STATE_MODULE_STATE : Fld := ⟨0x0, 0xb0, 4, 0, 3, .ro, (.n 2)⟩
def F.GLB_CMD_CMD : Fld := ⟨0x0, 0xb4, 4, 0, 4, .wo, (.n 0)⟩
def F.GLB_MODE_REFUSE_REASON : Fld := ⟨0x0, 0xb8, 4, 12, 4, .ro, (.n 0)⟩
def F.GLB_MODE_FORCED : Fld := ⟨0x0, 0xb8, 4, 10, 1, .w1c, (.n 0)⟩
def F.GLB_MODE_REFUSED : Fld := ⟨0x0, 0xb8, 4, 9, 1, .w1c, (.n 0)⟩
def F.GLB_MODE_PENDING : Fld := ⟨0x0, 0xb8, 4, 8, 1, .ro, (.n 0)⟩
def F.GLB_MODE_REQUEST : Fld := ⟨0x0, 0xb8, 4, 4, 2, .rw, (.n 1)⟩
def F.GLB_MODE_MODE : Fld := ⟨0x0, 0xb8, 4, 0, 2, .ro, (.n 1)⟩
def F.GLB_SETTINGS_RECORD_VER : Fld := ⟨0x0, 0xc0, 4, 8, 8, .ro, (.n 0)⟩
def F.GLB_SETTINGS_CAUSE : Fld := ⟨0x0, 0xc0, 4, 1, 2, .ro, (.n 0)⟩
def F.GLB_SETTINGS_DEFAULTS_USED : Fld := ⟨0x0, 0xc0, 4, 0, 1, .ro, (.n 0)⟩
def F.GLB_POSITION_POSITION_VALID : Fld := ⟨0x0, 0xc4, 4, 25, 1, .ro, (.n 0)⟩
def F.GLB_POSITION_TWIN_VALID : Fld := ⟨0x0, 0xc4, 4, 24, 1, .ro, (.n 0)⟩
def F.GLB_POSITION_TWIN_ID : Fld := ⟨0x0, 0xc4, 4, 16, 8, .ro, (.n 0)⟩
def F.GLB_POSITION_MODULE_ID : Fld := ⟨0x0, 0xc4, 4, 8, 8, .ro, (.n 0)⟩
def F.GLB_POSITION_RICK : Fld := ⟨0x0, 0xc4, 4, 4, 4, .ro, (.n 0)⟩
def F.GLB_POSITION_SEAT : Fld := ⟨0x0, 0xc4, 4, 0, 4, .ro, (.n 0)⟩
def F.GLB_SET_CHECK_STORED : Fld := ⟨0x0, 0xc8, 4, 0, 32, .ro, (.n 0)⟩
def F.GLB_SET_CALC_COMPUTED : Fld := ⟨0x0, 0xcc, 4, 0, 32, .ro, (.n 0)⟩
def F.GLB_SET_TAG_TAG : Fld := ⟨0x0, 0xd0, 4, 0, 32, .ro, (.n 0)⟩
def F.GLB_MODE_AT_BELL : Fld := ⟨0x0, 0xe0, 4, 0, 44, .ro, (.n 0)⟩
def F.ALM_CTX_CTX : Fld := ⟨0x8, 0x80, 4, 0, 10, .rw, (.n 0)⟩
def F.ALM_CMD_CMD : Fld := ⟨0x8, 0x84, 4, 0, 4, .wo, (.n 0)⟩
def F.ALM_STATE_CMD_ERR : Fld := ⟨0x8, 0x88, 4, 24, 3, .ro, (.n 0)⟩
def F.ALM_STATE_REASON : Fld := ⟨0x8, 0x88, 4, 16, 8, .ro, (.n 0)⟩
def F.ALM_STATE_BUSY : Fld := ⟨0x8, 0x88, 4, 4, 1, .ro, (.n 0)⟩
def F.ALM_STATE_STATE : Fld := ⟨0x8, 0x88, 4, 0, 3, .ro, (.n 0)⟩
def F.ALM_FAIL_IDX_INDEX : Fld := ⟨0x8, 0x8c, 4, 0, 25, .ro, (.n 0)⟩
def F.ALM_BASE_VA : Fld := ⟨0x8, 0x90, 4, 0, 57, .rw, (.n 0)⟩
def F.ALM_DESC_VA : Fld := ⟨0x8, 0x98, 4, 0, 57, .rw, (.n 0)⟩
def F.ALM_DESC_COUNT_COUNT : Fld := ⟨0x8, 0xa0, 4, 0, 25, .rw, (.n 0)⟩
def F.ALM_GROUP_VA : Fld := ⟨0x8, 0xa8, 4, 0, 57, .rw, (.n 0)⟩
def F.ALM_START_BELL : Fld := ⟨0x8, 0xb0, 4, 0, 44, .rw, (.n 0)⟩
def F.ALM_PC_INDEX : Fld := ⟨0x8, 0xb8, 4, 0, 25, .ro, (.n 0)⟩
def F.ALM_STEP_STEP : Fld := ⟨0x8, 0xc0, 4, 0, 64, .ro, (.n 0)⟩
def F.ALM_HELD_BELLS : Fld := ⟨0x8, 0xc8, 4, 0, 32, .ro, (.n 0)⟩
def F.THR_STATUS_OPEN : Fld := ⟨0x9, 0x80, 4, 31, 1, .ro, (.n 0)⟩
def F.THR_STATUS_INSTANCE : Fld := ⟨0x9, 0x80, 4, 16, 9, .ro, (.n 0)⟩
def F.THR_STATUS_OWNER : Fld := ⟨0x9, 0x80, 4, 0, 2, .ro, (.n 0)⟩
def F.THR_BUSY_CYCLES : Fld := ⟨0x9, 0x88, 4, 0, 64, .ro, (.n 0)⟩
def F.THR_SWITCH_COUNT : Fld := ⟨0x9, 0x90, 4, 0, 64, .ro, (.n 0)⟩
def F.THR_SHIFT_SEL_INSTANCE : Fld := ⟨0x9, 0xa0, 4, 0, 9, .rw, (.n 0)⟩
def F.THR_SHIFT_CFG_QUANTUM : Fld := ⟨0x9, 0xa4, 4, 16, 16, .rw, (.n 50)⟩
def F.THR_SHIFT_CFG_PRIORITY : Fld := ⟨0x9, 0xa4, 4, 12, 3, .rw, (.n 0)⟩
def F.THR_SHIFT_CFG_SHARE : Fld := ⟨0x9, 0xa4, 4, 0, 11, .rw, (.n 0)⟩
def F.THR_SHIFT_STAGE_STAGE : Fld := ⟨0x9, 0xa8, 4, 0, 16, .rw, (.n 20)⟩
def F.THR_SHIFT_CMD_FIRST : Fld := ⟨0x9, 0xac, 4, 17, 9, .ro, (.n 0)⟩
def F.THR_SHIFT_CMD_RESULT : Fld := ⟨0x9, 0xac, 4, 1, 1, .ro, (.n 0)⟩
def F.THR_SHIFT_CMD_APPLY : Fld := ⟨0x9, 0xac, 4, 0, 1, .w1s, (.n 0)⟩
def F.THR_PWR_SEL_INDEX : Fld := ⟨0x9, 0xb0, 4, 0, 5, .rw, (.n 0)⟩
def F.THR_PWR_COEF_VALUE : Fld := ⟨0x9, 0xb4, 4, 0, 32, .ro, (.n 0)⟩
def F.ARI_SEL_SCOPE : Fld := ⟨0xa, 0x80, 4, 9, 1, .rw, (.n 0)⟩
def F.ARI_SEL_INSTANCE : Fld := ⟨0xa, 0x80, 4, 0, 9, .rw, (.n 0)⟩
def F.ARI_FLAGS_CHAFF_NF : Fld := ⟨0xa, 0x84, 4, 7, 1, .w1c, (.n 0)⟩
def F.ARI_FLAGS_TALLY_NF : Fld := ⟨0xa, 0x84, 4, 6, 1, .w1c, (.n 0)⟩
def F.ARI_FLAGS_SCALE_CLAMP : Fld := ⟨0xa, 0x84, 4, 5, 1, .w1c, (.n 0)⟩
def F.ARI_FLAGS_UFL : Fld := ⟨0xa, 0x84, 4, 4, 1, .w1c, (.n 0)⟩
def F.ARI_FLAGS_SAT : Fld := ⟨0xa, 0x84, 4, 3, 1, .w1c, (.n 0)⟩
def F.ARI_FLAGS_INF_OUT : Fld := ⟨0xa, 0x84, 4, 2, 1, .w1c, (.n 0)⟩
def F.ARI_FLAGS_NAN_OUT : Fld := ⟨0xa, 0x84, 4, 1, 1, .w1c, (.n 0)⟩
def F.ARI_FLAGS_NAN_IN : Fld := ⟨0xa, 0x84, 4, 0, 1, .w1c, (.n 0)⟩
def F.ARI_NAN_IN_COUNT : Fld := ⟨0xa, 0x88, 4, 0, 32, .rc, (.n 0)⟩
def F.ARI_NAN_OUT_COUNT : Fld := ⟨0xa, 0x8c, 4, 0, 32, .rc, (.n 0)⟩
def F.ARI_INF_OUT_COUNT : Fld := ⟨0xa, 0x90, 4, 0, 32, .rc, (.n 0)⟩
def F.ARI_SAT_COUNT : Fld := ⟨0xa, 0x94, 4, 0, 32, .rc, (.n 0)⟩
def F.ARI_UFL_COUNT : Fld := ⟨0xa, 0x98, 4, 0, 32, .rc, (.n 0)⟩
def F.ARI_SCALE_CLAMP_COUNT : Fld := ⟨0xa, 0x9c, 4, 0, 32, .rc, (.n 0)⟩
def F.ARI_TALLY_NF_COUNT : Fld := ⟨0xa, 0xa0, 4, 0, 32, .rc, (.n 0)⟩
def F.ARI_CHAFF_NF_COUNT : Fld := ⟨0xa, 0xa4, 4, 0, 32, .rc, (.n 0)⟩
def F.ARI_CHAFF_DESC_ALL : Fld := ⟨0xa, 0xb0, 4, 31, 1, .rw, (.n 0)⟩
def F.ARI_CHAFF_DESC_DESC : Fld := ⟨0xa, 0xb0, 4, 0, 25, .rw, (.n 0)⟩
def F.ARI_CHAFF_CMD_CLEAR : Fld := ⟨0xa, 0xb4, 4, 0, 1, .w1s, (.n 0)⟩
def F.ARI_CHAFF_STATUS_RESULT : Fld := ⟨0xa, 0xb8, 4, 1, 2, .ro, (.n 0)⟩
def F.ARI_CHAFF_STATUS_BUSY : Fld := ⟨0xa, 0xb8, 4, 0, 1, .ro, (.n 0)⟩
def F.ARI_GEN_SEED_VALUE : Fld := ⟨0xa, 0xc0, 4, 0, 64, .rw, (.n 0)⟩
def F.ARI_GEN_STEP_VALUE : Fld := ⟨0xa, 0xc8, 4, 0, 64, .rw, (.n 0)⟩
def F.ARI_GEN_DESC_DESC : Fld := ⟨0xa, 0xd0, 4, 0, 25, .rw, (.n 0)⟩
def F.ARI_GEN_I0_VALUE : Fld := ⟨0xa, 0xd4, 4, 0, 32, .rw, (.n 0)⟩
def F.ARI_GEN_I1_VALUE : Fld := ⟨0xa, 0xd8, 4, 0, 32, .rw, (.n 0)⟩
def F.ARI_GEN_I2_VALUE : Fld := ⟨0xa, 0xdc, 4, 0, 32, .rw, (.n 0)⟩
def F.ARI_GEN_I3_VALUE : Fld := ⟨0xa, 0xe0, 4, 0, 32, .rw, (.n 0)⟩
def F.ARI_GEN_OUT_RBITS : Fld := ⟨0xa, 0xe8, 4, 0, 64, .ro, (.n 0)⟩
def F.LFT_STATUS_STEAD : Fld := ⟨0xb, 0x80, 4, 16, 9, .ro, (.n 0)⟩
def F.LFT_STATUS_FREE : Fld := ⟨0xb, 0x80, 4, 0, 9, .ro, (.n 384)⟩
def F.LFT_SEL_INSTANCE : Fld := ⟨0xb, 0x84, 4, 0, 9, .rw, (.n 0)⟩
def F.LFT_QUOTA_CFG_ERR : Fld := ⟨0xb, 0x88, 4, 31, 1, .w1c, (.n 0)⟩
def F.LFT_QUOTA_QUOTA : Fld := ⟨0xb, 0x88, 4, 0, 9, .rw, (.n 0)⟩
def F.LFT_SPILL_BASE : Fld := ⟨0xb, 0x90, 4, 22, 18, .rw, (.n 0)⟩
def F.LFT_RESIDENT_SPILLED : Fld := ⟨0xb, 0x98, 4, 16, 9, .ro, (.n 0)⟩
def F.LFT_RESIDENT_RESIDENT : Fld := ⟨0xb, 0x98, 4, 0, 9, .ro, (.n 0)⟩
def F.LFT_SPILLS_COUNT : Fld := ⟨0xb, 0x9c, 4, 0, 32, .rc, (.n 0)⟩
def F.LFT_ECC_CORR_COUNT : Fld := ⟨0xb, 0xa0, 4, 0, 32, .rc, (.n 0)⟩
def F.LFT_ECC_UNCORR_COUNT : Fld := ⟨0xb, 0xa4, 4, 0, 32, .rc, (.n 0)⟩
def F.CRB_STATUS_TRAIN_TIME : Fld := ⟨0x10, 0x80, 4, 16, 16, .ro, (.n 0)⟩
def F.CRB_STATUS_TEMP : Fld := ⟨0x10, 0x80, 4, 8, 8, .ro, (.n 0)⟩
def F.CRB_STATUS_TRAIN_KIND : Fld := ⟨0x10, 0x80, 4, 2, 2, .ro, (.n 0)⟩
def F.CRB_STATUS_TRAINING : Fld := ⟨0x10, 0x80, 4, 1, 1, .ro, (.n 0)⟩
def F.CRB_CTRL_FORCE_FULL : Fld := ⟨0x10, 0x84, 4, 2, 1, .rw, (.n 0)⟩
def F.CRB_CTRL_RETURN : Fld := ⟨0x10, 0x84, 4, 1, 1, .w1s, (.n 0)⟩
def F.CRB_CTRL_OUT : Fld := ⟨0x10, 0x84, 4, 0, 1, .w1s, (.n 0)⟩
def F.CRB_ECC_CORR_COUNT : Fld := ⟨0x10, 0x88, 4, 0, 32, .rc, (.n 0)⟩
def F.CRB_ECC_UNCORR_COUNT : Fld := ⟨0x10, 0x8c, 4, 0, 32, .rc, (.n 0)⟩
def F.CRB_ERR_ADDR_VALID : Fld := ⟨0x10, 0x90, 4, 63, 1, .w1c, (.n 0)⟩
def F.CRB_ERR_ADDR_ADDR : Fld := ⟨0x10, 0x90, 4, 0, 40, .ro, (.n 0)⟩
def F.GRN_CH_STATUS_TRAIN_TIME : Fld := ⟨0x20, 0x80, 4, 16, 16, .ro, (.n 0)⟩
def F.GRN_CH_STATUS_TEMP : Fld := ⟨0x20, 0x80, 4, 8, 8, .ro, (.n 0)⟩
def F.GRN_CH_STATUS_TRAIN_KIND : Fld := ⟨0x20, 0x80, 4, 2, 2, .ro, (.n 0)⟩
def F.GRN_CH_STATUS_TRAINING : Fld := ⟨0x20, 0x80, 4, 1, 1, .ro, (.n 0)⟩
def F.GRN_CTRL_FORCE_FULL : Fld := ⟨0x20, 0x90, 4, 2, 1, .rw, (.n 0)⟩
def F.GRN_CTRL_RETURN : Fld := ⟨0x20, 0x90, 4, 1, 1, .w1s, (.n 0)⟩
def F.GRN_CTRL_OUT : Fld := ⟨0x20, 0x90, 4, 0, 1, .w1s, (.n 0)⟩
def F.GRN_ECC_CORR_COUNT : Fld := ⟨0x20, 0x94, 4, 0, 32, .rc, (.n 0)⟩
def F.GRN_ECC_UNCORR_COUNT : Fld := ⟨0x20, 0x98, 4, 0, 32, .rc, (.n 0)⟩
def F.GRN_ERR_ADDR_VALID : Fld := ⟨0x20, 0xa0, 4, 63, 1, .w1c, (.n 0)⟩
def F.GRN_ERR_ADDR_ADDR : Fld := ⟨0x20, 0xa0, 4, 0, 41, .ro, (.n 0)⟩
def F.XLT_SEL_SPACE : Fld := ⟨0x30, 0x80, 4, 0, 10, .rw, (.n 0)⟩
def F.XLT_SPACE_CTRL_FQ_EN : Fld := ⟨0x30, 0x84, 4, 1, 1, .rw, (.n 0)⟩
def F.XLT_SPACE_CTRL_ENABLE : Fld := ⟨0x30, 0x84, 4, 0, 1, .rw, (.n 0)⟩
def F.XLT_ROOT_BASE : Fld := ⟨0x30, 0x88, 4, 21, 36, .rw, (.n 0)⟩
def F.XLT_FQ_BASE_BASE : Fld := ⟨0x30, 0x90, 4, 12, 45, .rw, (.n 0)⟩
def F.XLT_FQ_SIZE_LOG2 : Fld := ⟨0x30, 0x98, 4, 0, 5, .rw, (.n 4)⟩
def F.XLT_FQ_PROD_INDEX : Fld := ⟨0x30, 0x9c, 4, 0, 32, .ro, (.n 0)⟩
def F.XLT_FQ_CONS_INDEX : Fld := ⟨0x30, 0xa0, 4, 0, 32, .rw, (.n 0)⟩
def F.XLT_FQ_TIMEOUT_MS : Fld := ⟨0x30, 0xa4, 4, 0, 16, .rw, (.n 100)⟩
def F.XLT_FQ_REPLY_ACTION : Fld := ⟨0x30, 0xa8, 4, 30, 2, .wo, (.n 0)⟩
def F.XLT_FQ_REPLY_SPACE : Fld := ⟨0x30, 0xa8, 4, 16, 10, .wo, (.n 0)⟩
def F.XLT_FQ_REPLY_FAULT_ID : Fld := ⟨0x30, 0xa8, 4, 0, 16, .wo, (.n 0)⟩
def F.XLT_FQ_STATUS_CONS_ERR : Fld := ⟨0x30, 0xac, 4, 17, 1, .w1c, (.n 0)⟩
def F.XLT_FQ_STATUS_REPLY_ERR : Fld := ⟨0x30, 0xac, 4, 16, 1, .w1c, (.n 0)⟩
def F.XLT_FQ_STATUS_PENDING : Fld := ⟨0x30, 0xac, 4, 0, 7, .ro, (.n 0)⟩
def F.XLT_INV_VA_VA : Fld := ⟨0x30, 0xb0, 4, 16, 41, .rw, (.n 0)⟩
def F.XLT_INV_SIZE_PAGES : Fld := ⟨0x30, 0xb8, 4, 0, 32, .rw, (.n 0)⟩
def F.XLT_INV_CMD_SEQ : Fld := ⟨0x30, 0xbc, 4, 16, 16, .ro, (.n 0)⟩
def F.XLT_INV_CMD_FULL : Fld := ⟨0x30, 0xbc, 4, 3, 1, .w1c, (.n 0)⟩
def F.XLT_INV_CMD_ALL : Fld := ⟨0x30, 0xbc, 4, 1, 1, .rw, (.n 0)⟩
def F.XLT_INV_CMD_GO : Fld := ⟨0x30, 0xbc, 4, 0, 1, .w1s, (.n 0)⟩
def F.XLT_INV_DONE_SEQ : Fld := ⟨0x30, 0xc0, 4, 0, 16, .ro, (.n 0)⟩
def F.XLT_MISSES_COUNT : Fld := ⟨0x30, 0xc4, 4, 0, 32, .rc, (.n 0)⟩
def F.XLT_WALK_ERR_COUNT : Fld := ⟨0x30, 0xc8, 4, 0, 32, .rc, (.n 0)⟩
def F.XLT_FQ_DROP_COUNT : Fld := ⟨0x30, 0xcc, 4, 0, 32, .rc, (.n 0)⟩
def F.XLT_POOL_SEL_POOL : Fld := ⟨0x30, 0xd0, 4, 0, 2, .rw, (.n 0)⟩
def F.XLT_POOL_BASE_BASE : Fld := ⟨0x30, 0xd8, 4, 12, 45, .rw, (.n 0)⟩
def F.XLT_POOL_SIZE_LOG2 : Fld := ⟨0x30, 0xe0, 4, 0, 5, .rw, (.n 0)⟩
def F.XLT_POOL_PROD_INDEX : Fld := ⟨0x30, 0xe4, 4, 0, 32, .rw, (.n 0)⟩
def F.XLT_POOL_CONS_INDEX : Fld := ⟨0x30, 0xe8, 4, 0, 32, .ro, (.n 0)⟩
def F.XLT_POOL_LOW_FRAMES : Fld := ⟨0x30, 0xec, 4, 0, 16, .rw, (.n 16)⟩
def F.CLK_STATUS_HOLD : Fld := ⟨0x1, 0x80, 4, 30, 2, .ro, (.n 0)⟩
def F.CLK_STATUS_DEPTH : Fld := ⟨0x1, 0x80, 4, 27, 3, .ro, (.n 0)⟩
def F.CLK_STATUS_TK_RANK : Fld := ⟨0x1, 0x80, 4, 24, 3, .ro, (.n 0)⟩
def F.CLK_STATUS_TK_ID : Fld := ⟨0x1, 0x80, 4, 16, 8, .ro, (.n 0)⟩
def F.CLK_STATUS_UPSTREAM : Fld := ⟨0x1, 0x80, 4, 11, 5, .ro, (.n 0)⟩
def F.CLK_STATUS_UP_VALID : Fld := ⟨0x1, 0x80, 4, 10, 1, .ro, (.n 0)⟩
def F.CLK_STATUS_SURVEY_CURRENT : Fld := ⟨0x1, 0x80, 4, 9, 1, .ro, (.n 0)⟩
def F.CLK_STATUS_PROVISIONAL : Fld := ⟨0x1, 0x80, 4, 8, 1, .ro, (.n 0)⟩
def F.CLK_STATUS_STEPPED : Fld := ⟨0x1, 0x80, 4, 7, 1, .ro, (.n 0)⟩
def F.CLK_STATUS_ALIGNED : Fld := ⟨0x1, 0x80, 4, 6, 1, .ro, (.n 0)⟩
def F.CLK_STATUS_LOCK : Fld := ⟨0x1, 0x80, 4, 0, 3, .ro, (.n 0)⟩
def F.CLK_CTRL_TK_COUNT : Fld := ⟨0x1, 0x84, 4, 4, 4, .rw, (.n 1)⟩
def F.CLK_CTRL_RESURVEY : Fld := ⟨0x1, 0x84, 4, 1, 1, .w1s, (.n 0)⟩
def F.CLK_CTRL_SURVEY_GO : Fld := ⟨0x1, 0x84, 4, 0, 1, .w1s, (.n 0)⟩
def F.CLK_BEAT_BEAT : Fld := ⟨0x1, 0x88, 4, 0, 64, .ro, (.n 0)⟩
def F.CLK_UPSTREAM_VALID0 : Fld := ⟨0x1, 0x90, 4, 7, 1, .rw, (.n 0)⟩
def F.CLK_UPSTREAM_VALID1 : Fld := ⟨0x1, 0x90, 4, 15, 1, .rw, (.n 0)⟩
def F.CLK_UPSTREAM_VALID2 : Fld := ⟨0x1, 0x90, 4, 23, 1, .rw, (.n 0)⟩
def F.CLK_UPSTREAM_VALID3 : Fld := ⟨0x1, 0x90, 4, 31, 1, .rw, (.n 0)⟩
def F.CLK_UPSTREAM_LINK0 : Fld := ⟨0x1, 0x90, 4, 0, 5, .rw, (.n 0)⟩
def F.CLK_UPSTREAM_LINK1 : Fld := ⟨0x1, 0x90, 4, 8, 5, .rw, (.n 0)⟩
def F.CLK_UPSTREAM_LINK2 : Fld := ⟨0x1, 0x90, 4, 16, 5, .rw, (.n 0)⟩
def F.CLK_UPSTREAM_LINK3 : Fld := ⟨0x1, 0x90, 4, 24, 5, .rw, (.n 0)⟩
def F.CLK_TK_ORDER0_MODULE0 : Fld := ⟨0x1, 0x94, 4, 0, 8, .rw, (.n 0)⟩
def F.CLK_TK_ORDER0_MODULE1 : Fld := ⟨0x1, 0x94, 4, 8, 8, .rw, (.n 0)⟩
def F.CLK_TK_ORDER0_MODULE2 : Fld := ⟨0x1, 0x94, 4, 16, 8, .rw, (.n 0)⟩
def F.CLK_TK_ORDER0_MODULE3 : Fld := ⟨0x1, 0x94, 4, 24, 8, .rw, (.n 0)⟩
def F.CLK_TK_ORDER1_MODULE0 : Fld := ⟨0x1, 0x98, 4, 0, 8, .rw, (.n 0)⟩
def F.CLK_TK_ORDER1_MODULE1 : Fld := ⟨0x1, 0x98, 4, 8, 8, .rw, (.n 0)⟩
def F.CLK_TK_ORDER1_MODULE2 : Fld := ⟨0x1, 0x98, 4, 16, 8, .rw, (.n 0)⟩
def F.CLK_TK_ORDER1_MODULE3 : Fld := ⟨0x1, 0x98, 4, 24, 8, .rw, (.n 0)⟩
def F.CLK_HOLDOVER_ENTRIES : Fld := ⟨0x1, 0x9c, 4, 16, 16, .rc, (.n 0)⟩
def F.CLK_HOLDOVER_BELLS : Fld := ⟨0x1, 0x9c, 4, 0, 16, .ro, (.n 0)⟩
def F.CLK_SURVEY_EPOCH : Fld := ⟨0x1, 0xa0, 4, 16, 16, .ro, (.n 0)⟩
def F.CLK_SURVEY_STATE : Fld := ⟨0x1, 0xa0, 4, 14, 2, .ro, (.n 0)⟩
def F.CLK_SURVEY_MODULES : Fld := ⟨0x1, 0xa0, 4, 0, 9, .ro, (.n 0)⟩
def F.CLK_STEAD_SIZE_EXPECTED : Fld := ⟨0x1, 0xa4, 4, 0, 9, .rw, (.n 1)⟩
def F.CLK_LINK_SEL_LINK : Fld := ⟨0x1, 0xa8, 4, 0, 5, .rw, (.n 0)⟩
def F.CLK_LINK_DELAY_VALID : Fld := ⟨0x1, 0xac, 4, 31, 1, .ro, (.n 0)⟩
def F.CLK_LINK_DELAY_PROVISIONAL : Fld := ⟨0x1, 0xac, 4, 30, 1, .ro, (.n 0)⟩
def F.CLK_LINK_DELAY_FAILED : Fld := ⟨0x1, 0xac, 4, 29, 1, .ro, (.n 0)⟩
def F.CLK_LINK_DELAY_DELAY : Fld := ⟨0x1, 0xac, 4, 0, 24, .ro, (.n 0)⟩
def F.CLK_LINK_ASYM_ASYM : Fld := ⟨0x1, 0xb0, 4, 0, 16, .rw, (.n 0)⟩
def F.CLK_ALIGN_MAX : Fld := ⟨0x1, 0xb4, 4, 16, 16, .rc, (.n 0)⟩
def F.CLK_ALIGN_LAST : Fld := ⟨0x1, 0xb4, 4, 0, 16, .ro, (.n 0)⟩
def F.CLK_HOLD_BELL_BELL : Fld := ⟨0x1, 0xb8, 4, 0, 44, .ro, (.n 0)⟩
def F.CLK_RESUME_BELL_BELL : Fld := ⟨0x1, 0xc0, 4, 0, 44, .ro, (.n 0)⟩
def F.CLK_LATE_COUNT : Fld := ⟨0x1, 0xc8, 4, 0, 32, .rc, (.n 0)⟩
def F.CLK_DOMAIN_SEL_DOMAIN : Fld := ⟨0x1, 0xcc, 4, 0, 8, .rw, (.n 0)⟩
def F.CLK_DOMAIN_STATUS_LOSSES : Fld := ⟨0x1, 0xd0, 4, 16, 16, .rc, (.n 0)⟩
def F.CLK_DOMAIN_STATUS_PRESENT : Fld := ⟨0x1, 0xd0, 4, 1, 1, .ro, .view⟩
def F.CLK_DOMAIN_STATUS_LOCKED : Fld := ⟨0x1, 0xd0, 4, 0, 1, .ro, (.n 0)⟩
def F.AGL_STATUS_CAUSE : Fld := ⟨0x40, 0x80, 4, 12, 4, .ro, (.n 0)⟩
def F.AGL_STATUS_RESTORE_FAIL : Fld := ⟨0x40, 0x80, 4, 11, 1, .w1c, (.n 0)⟩
def F.AGL_STATUS_RESTORING : Fld := ⟨0x40, 0x80, 4, 10, 1, .ro, (.n 0)⟩
def F.AGL_STATUS_PAIRS : Fld := ⟨0x40, 0x80, 4, 8, 2, .ro, (.n 0)⟩
def F.AGL_STATUS_QUIET_MODE : Fld := ⟨0x40, 0x80, 4, 7, 1, .ro, (.n 0)⟩
def F.AGL_STATUS_SHED : Fld := ⟨0x40, 0x80, 4, 6, 1, .ro, (.n 0)⟩
def F.AGL_STATUS_PEER_QUIET : Fld := ⟨0x40, 0x80, 4, 5, 1, .ro, (.n 0)⟩
def F.AGL_STATUS_STATE : Fld := ⟨0x40, 0x80, 4, 0, 3, .ro, (.n 0)⟩
def F.AGL_CTRL_DISABLE : Fld := ⟨0x40, 0x84, 4, 3, 1, .rw, (.n 0)⟩
def F.AGL_CTRL_RETRAIN : Fld := ⟨0x40, 0x84, 4, 2, 1, .w1s, (.n 0)⟩
def F.AGL_CTRL_RESTORE : Fld := ⟨0x40, 0x84, 4, 1, 1, .w1s, (.n 0)⟩
def F.AGL_EXPECT_ROLE : Fld := ⟨0x40, 0x88, 4, 30, 2, .rw, .aglExpect⟩
def F.AGL_EXPECT_CHECK_EN : Fld := ⟨0x40, 0x88, 4, 29, 1, .rw, .aglExpect⟩
def F.AGL_EXPECT_PEER_LINK : Fld := ⟨0x40, 0x88, 4, 8, 5, .rw, .aglExpect⟩
def F.AGL_EXPECT_PEER_MODULE : Fld := ⟨0x40, 0x88, 4, 0, 8, .rw, .aglExpect⟩
def F.AGL_PEER_VALID : Fld := ⟨0x40, 0x8c, 4, 31, 1, .ro, (.n 0)⟩
def F.AGL_PEER_POS_VALID : Fld := ⟨0x40, 0x8c, 4, 30, 1, .ro, (.n 0)⟩
def F.AGL_PEER_MODE_QUIET : Fld := ⟨0x40, 0x8c, 4, 29, 1, .ro, (.n 0)⟩
def F.AGL_PEER_LINK : Fld := ⟨0x40, 0x8c, 4, 8, 5, .ro, (.n 0)⟩
def F.AGL_PEER_MODULE : Fld := ⟨0x40, 0x8c, 4, 0, 8, .ro, (.n 0)⟩
def F.AGL_LANES_RX_LOCK0 : Fld := ⟨0x40, 0x90, 4, 0, 1, .ro, (.n 0)⟩
def F.AGL_LANES_RX_LOCK1 : Fld := ⟨0x40, 0x90, 4, 4, 1, .ro, (.n 0)⟩
def F.AGL_LANES_RX_LOCK2 : Fld := ⟨0x40, 0x90, 4, 8, 1, .ro, (.n 0)⟩
def F.AGL_LANES_RX_LOCK3 : Fld := ⟨0x40, 0x90, 4, 12, 1, .ro, (.n 0)⟩
def F.AGL_LANES_TX_ON0 : Fld := ⟨0x40, 0x90, 4, 1, 1, .ro, (.n 0)⟩
def F.AGL_LANES_TX_ON1 : Fld := ⟨0x40, 0x90, 4, 5, 1, .ro, (.n 0)⟩
def F.AGL_LANES_TX_ON2 : Fld := ⟨0x40, 0x90, 4, 9, 1, .ro, (.n 0)⟩
def F.AGL_LANES_TX_ON3 : Fld := ⟨0x40, 0x90, 4, 13, 1, .ro, (.n 0)⟩
def F.AGL_LANES_LOST0 : Fld := ⟨0x40, 0x90, 4, 3, 1, .w1c, (.n 0)⟩
def F.AGL_LANES_LOST1 : Fld := ⟨0x40, 0x90, 4, 7, 1, .w1c, (.n 0)⟩
def F.AGL_LANES_LOST2 : Fld := ⟨0x40, 0x90, 4, 11, 1, .w1c, (.n 0)⟩
def F.AGL_LANES_LOST3 : Fld := ⟨0x40, 0x90, 4, 15, 1, .w1c, (.n 0)⟩
def F.AGL_SEQ_OLDEST : Fld := ⟨0x40, 0x94, 4, 16, 16, .ro, (.n 0)⟩
def F.AGL_SEQ_NEXT : Fld := ⟨0x40, 0x94, 4, 0, 16, .ro, (.n 0)⟩
def F.AGL_REPLAY_FRAMES : Fld := ⟨0x40, 0x98, 4, 0, 10, .ro, (.n 0)⟩
def F.AGL_TRAIN_TIME_FULL : Fld := ⟨0x40, 0x9c, 4, 16, 16, .ro, (.n 0)⟩
def F.AGL_TRAIN_TIME_SHED : Fld := ⟨0x40, 0x9c, 4, 0, 16, .ro, (.n 0)⟩
def F.AGL_VC_SEL_VC : Fld := ⟨0x40, 0xa0, 4, 0, 3, .rw, (.n 0)⟩
def F.AGL_VC_CFG_WEIGHT : Fld := ⟨0x40, 0xa4, 4, 24, 8, .rw, .vcWeight⟩
def F.AGL_VC_CFG_CFG_ERR : Fld := ⟨0x40, 0xa4, 4, 15, 1, .w1c, (.n 0)⟩
def F.AGL_VC_CFG_BUF : Fld := ⟨0x40, 0xa4, 4, 0, 15, .rw, .vcBuf⟩
def F.AGL_VC_CREDIT_RX_OCC : Fld := ⟨0x40, 0xa8, 4, 16, 15, .ro, (.n 0)⟩
def F.AGL_VC_CREDIT_TX_CREDIT : Fld := ⟨0x40, 0xa8, 4, 0, 15, .ro, (.n 0)⟩
def F.AGL_CRC_ERR_COUNT : Fld := ⟨0x40, 0xb0, 4, 0, 32, .rc, (.n 0)⟩
def F.AGL_RETRY_COUNT : Fld := ⟨0x40, 0xb4, 4, 0, 32, .rc, (.n 0)⟩
def F.AGL_FEC_UNCORR_COUNT : Fld := ⟨0x40, 0xb8, 4, 0, 32, .rc, (.n 0)⟩
def F.AGL_SHEDS_TRAIN_FAIL : Fld := ⟨0x40, 0xbc, 4, 16, 16, .rc, (.n 0)⟩
def F.AGL_SHEDS_SHEDS : Fld := ⟨0x40, 0xbc, 4, 0, 16, .rc, (.n 0)⟩
def F.AGL_FEC_CORR_COUNT : Fld := ⟨0x40, 0xc0, 4, 0, 64, .rc, (.n 0)⟩
def F.AGL_TX_FLITS_COUNT : Fld := ⟨0x40, 0xc8, 4, 0, 64, .rc, (.n 0)⟩
def F.AGL_RX_FLITS_COUNT : Fld := ⟨0x40, 0xd0, 4, 0, 64, .rc, (.n 0)⟩
def F.AGL_DROP_ROUTE_COUNT : Fld := ⟨0x40, 0xd8, 4, 0, 32, .rc, (.n 0)⟩
def F.AGL_DROP_CTRL_COUNT : Fld := ⟨0x40, 0xdc, 4, 0, 32, .rc, (.n 0)⟩
def F.CMB_STATUS_STEAD_BUSY : Fld := ⟨0x31, 0x80, 4, 31, 1, .ro, (.n 0)⟩
def F.CMB_STATUS_TENANT_BUSY : Fld := ⟨0x31, 0x80, 4, 30, 1, .ro, (.n 0)⟩
def F.CMB_STATUS_GROUP : Fld := ⟨0x31, 0x80, 4, 16, 8, .ro, (.n 0)⟩
def F.CMB_STATUS_OPCODE : Fld := ⟨0x31, 0x80, 4, 8, 8, .ro, (.n 0)⟩
def F.CMB_STATUS_FLOORS : Fld := ⟨0x31, 0x80, 4, 0, 5, .ro, (.n 0)⟩
def F.CMB_STEAD_VALID : Fld := ⟨0x31, 0x84, 4, 31, 1, .rw, (.n 0)⟩
def F.CMB_STEAD_STEAD_ID : Fld := ⟨0x31, 0x84, 4, 0, 4, .rw, (.n 0)⟩
def F.CMB_XS_SEL_STEAD : Fld := ⟨0x31, 0x88, 4, 0, 4, .rw, (.n 0)⟩
def F.CMB_XS_QP_VALID : Fld := ⟨0x31, 0x8c, 4, 31, 1, .rw, (.n 0)⟩
def F.CMB_XS_QP_QPN : Fld := ⟨0x31, 0x8c, 4, 0, 24, .rw, (.n 0)⟩
def F.CMB_SUBST_ACTIVE : Fld := ⟨0x31, 0x90, 4, 31, 1, .ro, (.n 0)⟩
def F.CMB_SUBST_CARRIER : Fld := ⟨0x31, 0x90, 4, 8, 8, .ro, (.n 0)⟩
def F.CMB_SUBST_LOST : Fld := ⟨0x31, 0x90, 4, 0, 8, .ro, (.n 0)⟩
def F.CMB_TGRP_SEL_TGROUP : Fld := ⟨0x31, 0x94, 4, 0, 6, .rw, (.n 0)⟩
def F.CMB_TGRP_VALID : Fld := ⟨0x31, 0x98, 4, 31, 1, .rw, (.n 0)⟩
def F.CMB_TGRP_INSTANCE : Fld := ⟨0x31, 0x98, 4, 0, 9, .rw, (.n 0)⟩
def F.CMB_TWAIT_MS : Fld := ⟨0x31, 0x9c, 4, 0, 16, .rw, (.n 100)⟩
def F.CMB_SHEAVES_OUT_COUNT : Fld := ⟨0x31, 0xa0, 4, 0, 32, .rc, (.n 0)⟩
def F.CMB_SHEAVES_IN_COUNT : Fld := ⟨0x31, 0xa4, 4, 0, 32, .rc, (.n 0)⟩
def F.CMB_DROP_COUNT : Fld := ⟨0x31, 0xa8, 4, 0, 32, .rc, (.n 0)⟩
def F.CMB_TRIG_PEAK_PEAK : Fld := ⟨0x31, 0xb0, 4, 0, 13, .rc, (.n 0)⟩
def F.CMB_RING_WAIT_BEATS : Fld := ⟨0x31, 0xb8, 4, 0, 64, .rc, (.n 0)⟩
def F.RME_STATUS_ADMQ_ERR : Fld := ⟨0x68, 0x80, 4, 1, 1, .ro, (.n 0)⟩
def F.RME_STATUS_ENABLED : Fld := ⟨0x68, 0x80, 4, 0, 1, .ro, (.n 0)⟩
def F.RME_CTRL_ADMQ_EN : Fld := ⟨0x68, 0x84, 4, 1, 1, .rw, (.n 0)⟩
def F.RME_CTRL_ENABLE : Fld := ⟨0x68, 0x84, 4, 0, 1, .rw, (.n 0)⟩
def F.RME_CTX_BASE_BASE : Fld := ⟨0x68, 0x88, 4, 26, 15, .rw, (.n 0)⟩
def F.RME_ADMQ_BASE_VA : Fld := ⟨0x68, 0x90, 4, 0, 57, .rw, (.n 0)⟩
def F.RME_ADMQ_CFG_VECTOR : Fld := ⟨0x68, 0x98, 4, 16, 11, .rw, (.n 2047)⟩
def F.RME_ADMQ_CFG_CQ_LOG2 : Fld := ⟨0x68, 0x98, 4, 8, 5, .rw, (.n 4)⟩
def F.RME_ADMQ_CFG_Q_LOG2 : Fld := ⟨0x68, 0x98, 4, 0, 5, .rw, (.n 4)⟩
def F.RME_ADMCQ_BASE_VA : Fld := ⟨0x68, 0xa0, 4, 0, 57, .rw, (.n 0)⟩
def F.RME_ADMCQ_SHADOW_VA : Fld := ⟨0x68, 0xa8, 4, 0, 57, .rw, (.n 0)⟩
def F.RME_CACHE_PINNED : Fld := ⟨0x68, 0xb0, 4, 16, 11, .ro, (.n 0)⟩
def F.RME_CACHE_VALID : Fld := ⟨0x68, 0xb0, 4, 0, 15, .ro, (.n 0)⟩
def F.RME_LAST_ERR_CAUSE : Fld := ⟨0x68, 0xb4, 4, 24, 8, .ro, (.n 0)⟩
def F.RME_LAST_ERR_QPN : Fld := ⟨0x68, 0xb4, 4, 0, 24, .ro, (.n 0)⟩
def F.RME_OPS_COUNT : Fld := ⟨0x68, 0xb8, 4, 0, 64, .rc, (.n 0)⟩
def F.RME_CTX_MISS_COUNT : Fld := ⟨0x68, 0xc0, 4, 0, 32, .rc, (.n 0)⟩
def F.RME_CTX_WB_COUNT : Fld := ⟨0x68, 0xc4, 4, 0, 32, .rc, (.n 0)⟩
def F.RME_QERR_COUNT : Fld := ⟨0x68, 0xc8, 4, 0, 32, .rc, (.n 0)⟩
def F.RME_CQ_STALL_COUNT : Fld := ⟨0x68, 0xcc, 4, 0, 32, .rc, (.n 0)⟩
def F.ORT_CTRL_DSCP_CTRL : Fld := ⟨0x69, 0x80, 4, 16, 6, .rw, (.n 48)⟩
def F.ORT_CTRL_DSCP_DATA : Fld := ⟨0x69, 0x80, 4, 8, 6, .rw, (.n 26)⟩
def F.ORT_CTRL_ENABLE : Fld := ⟨0x69, 0x80, 4, 0, 1, .rw, (.n 0)⟩
def F.ORT_UDP_PORT_PORT : Fld := ⟨0x69, 0x84, 4, 0, 16, .rw, (.n 48879)⟩
def F.ORT_QP_TIMEOUT_CREDIT_WAIT : Fld := ⟨0x69, 0x88, 4, 8, 16, .rw, (.n 100)⟩
def F.ORT_QP_TIMEOUT_RETRY_LIMIT : Fld := ⟨0x69, 0x88, 4, 0, 4, .rw, (.n 7)⟩
def F.ORT_CONN_WAIT_MS : Fld := ⟨0x69, 0x8c, 4, 0, 16, .rw, (.n 1000)⟩
def F.ORT_PORT_SEL_PORT : Fld := ⟨0x69, 0x90, 4, 0, 2, .rw, (.n 0)⟩
def F.ORT_ADDR_ADDR : Fld := ⟨0x69, 0x94, 4, 0, 32, .rw, (.n 0)⟩
def F.ORT_ADDR_V4_ADDR : Fld := ⟨0x69, 0xa4, 4, 0, 32, .rw, (.n 0)⟩
def F.ORT_ADDR_CFG_V4_VALID : Fld := ⟨0x69, 0xa8, 4, 1, 1, .rw, (.n 0)⟩
def F.ORT_ADDR_CFG_V6_VALID : Fld := ⟨0x69, 0xa8, 4, 0, 1, .rw, (.n 0)⟩
def F.ORT_QP_SEL_QPN : Fld := ⟨0x69, 0xb0, 4, 0, 24, .rw, (.n 0)⟩
def F.ORT_QP_STATE_CAUSE : Fld := ⟨0x69, 0xb4, 4, 24, 8, .ro, (.n 0)⟩
def F.ORT_QP_STATE_COLD : Fld := ⟨0x69, 0xb4, 4, 12, 1, .ro, (.n 0)⟩
def F.ORT_QP_STATE_RETRIES : Fld := ⟨0x69, 0xb4, 4, 8, 4, .ro, (.n 0)⟩
def F.ORT_QP_STATE_STATE : Fld := ⟨0x69, 0xb4, 4, 0, 3, .ro, (.n 0)⟩
def F.ORT_QP_RTT_SRTT : Fld := ⟨0x69, 0xb8, 4, 16, 16, .ro, (.n 0)⟩
def F.ORT_QP_RTT_RTO : Fld := ⟨0x69, 0xb8, 4, 0, 16, .ro, (.n 0)⟩
def F.ORT_TX_PKTS_COUNT : Fld := ⟨0x69, 0xc0, 4, 0, 64, .rc, (.n 0)⟩
def F.ORT_RX_PKTS_COUNT : Fld := ⟨0x69, 0xc8, 4, 0, 64, .rc, (.n 0)⟩
def F.ORT_RETX_COUNT : Fld := ⟨0x69, 0xd0, 4, 0, 32, .rc, (.n 0)⟩
def F.ORT_TIMEOUTS_COUNT : Fld := ⟨0x69, 0xd4, 4, 0, 32, .rc, (.n 0)⟩
def F.ORT_NAK_TX_COUNT : Fld := ⟨0x69, 0xd8, 4, 0, 32, .rc, (.n 0)⟩
def F.ORT_DROP_COUNT : Fld := ⟨0x69, 0xdc, 4, 0, 32, .rc, (.n 0)⟩
def F.ORT_TAG_FAIL_COUNT : Fld := ⟨0x69, 0xe0, 4, 0, 32, .rc, (.n 0)⟩
def F.ORT_CONN_REJ_COUNT : Fld := ⟨0x69, 0xe4, 4, 0, 32, .rc, (.n 0)⟩
def F.ETH_STATUS_PREEMPT_ACTIVE : Fld := ⟨0x60, 0x80, 4, 7, 1, .ro, (.n 0)⟩
def F.ETH_STATUS_VERIFY : Fld := ⟨0x60, 0x80, 4, 5, 2, .ro, (.n 0)⟩
def F.ETH_STATUS_CFG_ERR : Fld := ⟨0x60, 0x80, 4, 1, 1, .w1c, (.n 0)⟩
def F.ETH_STATUS_LINK : Fld := ⟨0x60, 0x80, 4, 0, 1, .ro, (.n 0)⟩
def F.ETH_CTRL_AN_EN : Fld := ⟨0x60, 0x84, 4, 2, 1, .rw, (.n 1)⟩
def F.ETH_CTRL_BREAKOUT : Fld := ⟨0x60, 0x84, 4, 1, 1, .rw, (.n 0)⟩
def F.ETH_CTRL_ENABLE : Fld := ⟨0x60, 0x84, 4, 0, 1, .rw, (.n 0)⟩
def F.ETH_MAC_ADDR : Fld := ⟨0x60, 0x88, 4, 0, 48, .rw, (.n 0)⟩
def F.ETH_PFC_CFG_STORM : Fld := ⟨0x60, 0x90, 4, 24, 8, .rw, (.n 10)⟩
def F.ETH_PFC_CFG_HEADROOM : Fld := ⟨0x60, 0x90, 4, 8, 16, .rw, (.n 256)⟩
def F.ETH_PFC_CFG_EN : Fld := ⟨0x60, 0x90, 4, 0, 8, .rw, (.n 72)⟩
def F.ETH_PFC_STATUS_STORM : Fld := ⟨0x60, 0x94, 4, 16, 8, .w1c, (.n 0)⟩
def F.ETH_PFC_STATUS_RX_PAUSED : Fld := ⟨0x60, 0x94, 4, 8, 8, .ro, (.n 0)⟩
def F.ETH_PFC_STATUS_TX_XOFF : Fld := ⟨0x60, 0x94, 4, 0, 8, .ro, (.n 0)⟩
def F.ETH_PREEMPT_VERIFY_RESTART : Fld := ⟨0x60, 0x98, 4, 9, 1, .w1s, (.n 0)⟩
def F.ETH_PREEMPT_EN : Fld := ⟨0x60, 0x98, 4, 8, 1, .rw, (.n 1)⟩
def F.ETH_PREEMPT_EXPRESS : Fld := ⟨0x60, 0x98, 4, 0, 8, .rw, (.n 192)⟩
def F.ETH_DSCP_MAP_PRIO0 : Fld := ⟨0x60, 0xa0, 4, 0, 3, .rw, .dscp⟩
def F.ETH_DSCP_MAP_PRIO1 : Fld := ⟨0x60, 0xa0, 4, 4, 3, .rw, .dscp⟩
def F.ETH_DSCP_MAP_PRIO2 : Fld := ⟨0x60, 0xa0, 4, 8, 3, .rw, .dscp⟩
def F.ETH_DSCP_MAP_PRIO3 : Fld := ⟨0x60, 0xa0, 4, 12, 3, .rw, .dscp⟩
def F.ETH_DSCP_MAP_PRIO4 : Fld := ⟨0x60, 0xa0, 4, 16, 3, .rw, .dscp⟩
def F.ETH_DSCP_MAP_PRIO5 : Fld := ⟨0x60, 0xa0, 4, 20, 3, .rw, .dscp⟩
def F.ETH_DSCP_MAP_PRIO6 : Fld := ⟨0x60, 0xa0, 4, 24, 3, .rw, .dscp⟩
def F.ETH_DSCP_MAP_PRIO7 : Fld := ⟨0x60, 0xa0, 4, 28, 3, .rw, .dscp⟩
def F.ETH_GATE_CTRL_CHANGE : Fld := ⟨0x60, 0xc0, 4, 2, 1, .w1s, (.n 0)⟩
def F.ETH_GATE_CTRL_TIMEBASE : Fld := ⟨0x60, 0xc0, 4, 1, 1, .rw, (.n 0)⟩
def F.ETH_GATE_CTRL_ENABLE : Fld := ⟨0x60, 0xc0, 4, 0, 1, .rw, (.n 0)⟩
def F.ETH_GATE_STATUS_PENDING : Fld := ⟨0x60, 0xc4, 4, 31, 1, .ro, (.n 0)⟩
def F.ETH_GATE_STATUS_RESULT : Fld := ⟨0x60, 0xc4, 4, 30, 1, .ro, (.n 0)⟩
def F.ETH_GATE_STATUS_REEVAL_FAIL : Fld := ⟨0x60, 0xc4, 4, 29, 1, .w1c, (.n 0)⟩
def F.ETH_GATE_STATUS_BUSY : Fld := ⟨0x60, 0xc4, 4, 28, 1, .ro, (.n 0)⟩
def F.ETH_GATE_STATUS_REASON : Fld := ⟨0x60, 0xc4, 4, 24, 4, .ro, (.n 0)⟩
def F.ETH_GATE_STATUS_INDEX : Fld := ⟨0x60, 0xc4, 4, 0, 10, .ro, (.n 0)⟩
def F.ETH_GATE_BASE_BASE : Fld := ⟨0x60, 0xc8, 4, 0, 64, .rw, (.n 0)⟩
def F.ETH_GATE_CYCLE_CYCLE : Fld := ⟨0x60, 0xd0, 4, 0, 30, .rw, (.n 1000000)⟩
def F.ETH_GATE_LEN_LEN : Fld := ⟨0x60, 0xd4, 4, 0, 11, .rw, (.n 1)⟩
def F.ETH_TMAP_BEAT_BEAT : Fld := ⟨0x60, 0xe0, 4, 0, 64, .rw, (.n 0)⟩
def F.ETH_TMAP_TIME_TIME : Fld := ⟨0x60, 0xe8, 4, 0, 64, .rw, (.n 0)⟩
def F.ETH_TMAP_RATE_RATE : Fld := ⟨0x60, 0xf0, 4, 0, 32, .rw, (.n 0)⟩
def F.ETH_TMAP_CTRL_VALID : Fld := ⟨0x60, 0xf4, 4, 1, 1, .ro, (.n 0)⟩
def F.ETH_TMAP_CTRL_COMMIT : Fld := ⟨0x60, 0xf4, 4, 0, 1, .w1s, (.n 0)⟩
def F.ETH_SHP_SEL_INSTANCE : Fld := ⟨0x60, 0x100, 4, 0, 9, .rw, (.n 0)⟩
def F.ETH_SHP_RATE_MBPS : Fld := ⟨0x60, 0x104, 4, 0, 20, .rw, (.n 800000)⟩
def F.ETH_SHP_DEPTH_BYTES : Fld := ⟨0x60, 0x108, 4, 0, 24, .rw, (.n 65536)⟩
def F.ETH_SHP_CMD_RESULT : Fld := ⟨0x60, 0x10c, 4, 1, 1, .ro, (.n 0)⟩
def F.ETH_SHP_CMD_APPLY : Fld := ⟨0x60, 0x10c, 4, 0, 1, .w1s, (.n 0)⟩
def F.ETH_SHP_LEVEL_LEVEL : Fld := ⟨0x60, 0x110, 4, 0, 32, .ro, (.n 0)⟩
def F.ETH_PPS_CTRL_IN_NEW : Fld := ⟨0x60, 0x120, 4, 4, 1, .w1c, (.n 0)⟩
def F.ETH_PPS_CTRL_PORT : Fld := ⟨0x60, 0x120, 4, 2, 2, .rw, (.n 0)⟩
def F.ETH_PPS_CTRL_TIMEBASE : Fld := ⟨0x60, 0x120, 4, 1, 1, .rw, (.n 0)⟩
def F.ETH_PPS_CTRL_OUT_EN : Fld := ⟨0x60, 0x120, 4, 0, 1, .rw, (.n 0)⟩
def F.ETH_PPS_IN_BEAT : Fld := ⟨0x60, 0x128, 4, 0, 64, .ro, (.n 0)⟩
def F.ETH_CNT_OVF_OVF : Fld := ⟨0x60, 0x130, 4, 0, 15, .w1c, (.n 0)⟩
def F.ETH_TX_OCTETS_COUNT : Fld := ⟨0x60, 0x400, 8, 0, 64, .rc, (.n 0)⟩
def F.ETH_RX_OCTETS_COUNT : Fld := ⟨0x60, 0x408, 8, 0, 64, .rc, (.n 0)⟩
def F.ETH_TX_FRAMES_COUNT : Fld := ⟨0x60, 0x410, 8, 0, 48, .rc, (.n 0)⟩
def F.ETH_RX_FRAMES_COUNT : Fld := ⟨0x60, 0x418, 8, 0, 48, .rc, (.n 0)⟩
def F.ETH_RX_FCS_ERR_COUNT : Fld := ⟨0x60, 0x420, 8, 0, 48, .rc, (.n 0)⟩
def F.ETH_RX_OVERSIZE_COUNT : Fld := ⟨0x60, 0x428, 8, 0, 48, .rc, (.n 0)⟩
def F.ETH_RX_RUNT_COUNT : Fld := ⟨0x60, 0x430, 8, 0, 48, .rc, (.n 0)⟩
def F.ETH_RX_OTHER_COUNT : Fld := ⟨0x60, 0x438, 8, 0, 48, .rc, (.n 0)⟩
def F.ETH_RX_DROP_BUF_COUNT : Fld := ⟨0x60, 0x440, 8, 0, 48, .rc, (.n 0)⟩
def F.ETH_TX_PFC_COUNT : Fld := ⟨0x60, 0x448, 8, 0, 48, .rc, (.n 0)⟩
def F.ETH_RX_PFC_COUNT : Fld := ⟨0x60, 0x450, 8, 0, 48, .rc, (.n 0)⟩
def F.ETH_TX_FRAGMENTS_COUNT : Fld := ⟨0x60, 0x458, 8, 0, 48, .rc, (.n 0)⟩
def F.ETH_RX_ASSY_OK_COUNT : Fld := ⟨0x60, 0x460, 8, 0, 48, .rc, (.n 0)⟩
def F.ETH_RX_ASSY_ERR_COUNT : Fld := ⟨0x60, 0x468, 8, 0, 48, .rc, (.n 0)⟩
def F.ETH_TX_ABORTED_COUNT : Fld := ⟨0x60, 0x470, 8, 0, 48, .rc, (.n 0)⟩
def F.ETH_GATE_ADMIN_ENTRY : Fld := ⟨0x60, 0x1000, 4, 0, 32, .rw, (.n 4278190080)⟩
def F.ETH_GATE_OPER_ENTRY : Fld := ⟨0x60, 0x2000, 4, 0, 32, .ro, (.n 4278190080)⟩
def F.CPH_STATUS_HOLD_FREE : Fld := ⟨0x70, 0x80, 4, 1, 10, .ro, (.n 512)⟩
def F.CPH_STATUS_GCM_FULL : Fld := ⟨0x70, 0x80, 4, 0, 1, .ro, (.n 0)⟩
def F.CPH_TEST_RESULT : Fld := ⟨0x70, 0x84, 4, 1, 2, .ro, (.n 0)⟩
def F.CPH_TEST_RUN : Fld := ⟨0x70, 0x84, 4, 0, 1, .w1s, (.n 0)⟩
def F.CPH_GCM_TX_SEG_COUNT : Fld := ⟨0x70, 0x88, 4, 0, 32, .rc, (.n 0)⟩
def F.CPH_GCM_RX_SEG_COUNT : Fld := ⟨0x70, 0x8c, 4, 0, 32, .rc, (.n 0)⟩
def F.CPH_XTS_SECT_COUNT : Fld := ⟨0x70, 0x90, 4, 0, 32, .rc, (.n 0)⟩
def F.CPH_HOLD_PEAK_DRAWS : Fld := ⟨0x70, 0x94, 4, 0, 10, .rc, (.n 0)⟩
def F.KEY_SEL_KIND : Fld := ⟨0x71, 0x80, 4, 31, 1, .rw, (.n 0)⟩
def F.KEY_SEL_SLOT : Fld := ⟨0x71, 0x80, 4, 0, 12, .rw, (.n 0)⟩
def F.KEY_CMD_CMD : Fld := ⟨0x71, 0x84, 4, 0, 2, .wo, (.n 0)⟩
def F.KEY_STATUS_RESULT : Fld := ⟨0x71, 0x88, 4, 28, 4, .ro, (.n 0)⟩
def F.KEY_STATUS_TWEAK_HI : Fld := ⟨0x71, 0x88, 4, 17, 1, .ro, (.n 0)⟩
def F.KEY_STATUS_TWEAK_LO : Fld := ⟨0x71, 0x88, 4, 16, 1, .ro, (.n 0)⟩
def F.KEY_STATUS_WORDS : Fld := ⟨0x71, 0x88, 4, 0, 16, .ro, (.n 0)⟩
def F.KEY_INFO_STATE : Fld := ⟨0x71, 0x8c, 4, 30, 2, .ro, (.n 0)⟩
def F.KEY_INFO_TX_BOUND : Fld := ⟨0x71, 0x8c, 4, 29, 1, .ro, (.n 0)⟩
def F.KEY_INFO_BOUND : Fld := ⟨0x71, 0x8c, 4, 28, 1, .ro, (.n 0)⟩
def F.KEY_INFO_OWNER : Fld := ⟨0x71, 0x8c, 4, 0, 10, .ro, (.n 0)⟩
def F.KEY_TWEAK_TWEAK_BASE : Fld := ⟨0x71, 0x90, 4, 0, 64, .wo, (.n 0)⟩
def F.KEY_SECTOR_SIZE : Fld := ⟨0x71, 0x98, 4, 0, 1, .wo, (.n 0)⟩
def F.KEY_DATA_DATA : Fld := ⟨0x71, 0xc0, 4, 0, 32, .wo, (.n 0)⟩
def F.HST_STATUS_BAR4_FULL : Fld := ⟨0x78, 0x80, 4, 11, 1, .ro, (.n 1)⟩
def F.HST_STATUS_CXL_MEM : Fld := ⟨0x78, 0x80, 4, 10, 1, .ro, (.n 0)⟩
def F.HST_STATUS_FLIT : Fld := ⟨0x78, 0x80, 4, 9, 1, .ro, (.n 0)⟩
def F.HST_STATUS_WIDTH : Fld := ⟨0x78, 0x80, 4, 4, 5, .ro, (.n 0)⟩
def F.HST_STATUS_SPEED : Fld := ⟨0x78, 0x80, 4, 1, 3, .ro, (.n 0)⟩
def F.HST_STATUS_LINK_UP : Fld := ⟨0x78, 0x80, 4, 0, 1, .ro, (.n 0)⟩
def F.HST_WIN_BASE_BASE : Fld := ⟨0x78, 0x88, 4, 28, 14, .rw, (.n 0)⟩
def F.HST_P2P_SEL_WINDOW : Fld := ⟨0x78, 0x90, 4, 0, 4, .rw, (.n 0)⟩
def F.HST_P2P_BASE_BASE : Fld := ⟨0x78, 0x98, 4, 12, 52, .rw, (.n 0)⟩
def F.HST_P2P_CTRL_PROBE : Fld := ⟨0x78, 0xa0, 4, 9, 1, .w1s, (.n 0)⟩
def F.HST_P2P_CTRL_VALID : Fld := ⟨0x78, 0xa0, 4, 8, 1, .rw, (.n 0)⟩
def F.HST_P2P_CTRL_LOG2 : Fld := ⟨0x78, 0xa0, 4, 0, 6, .rw, (.n 12)⟩
def F.HST_P2P_STATUS_LAST_CPL : Fld := ⟨0x78, 0xa4, 4, 2, 2, .ro, (.n 0)⟩
def F.HST_P2P_STATUS_STATE : Fld := ⟨0x78, 0xa4, 4, 0, 2, .ro, (.n 0)⟩
def F.HST_MB_H2R_CONS : Fld := ⟨0x78, 0xb0, 4, 16, 16, .ro, (.n 0)⟩
def F.HST_MB_H2R_PROD : Fld := ⟨0x78, 0xb0, 4, 0, 16, .rw, (.n 0)⟩
def F.HST_MB_R2H_CONS : Fld := ⟨0x78, 0xb4, 4, 16, 16, .rw, (.n 0)⟩
def F.HST_MB_R2H_PROD : Fld := ⟨0x78, 0xb4, 4, 0, 16, .ro, (.n 0)⟩
def F.HST_MB_CTRL_MB_ERR : Fld := ⟨0x78, 0xb8, 4, 1, 1, .w1c, (.n 0)⟩
def F.HST_MB_CTRL_IRQ_EN : Fld := ⟨0x78, 0xb8, 4, 0, 1, .rw, (.n 1)⟩
def F.HST_CPL_TIMEOUT_COUNT : Fld := ⟨0x78, 0xc0, 4, 0, 32, .rc, (.n 0)⟩
def F.HST_CPL_ERR_COUNT : Fld := ⟨0x78, 0xc4, 4, 0, 32, .rc, (.n 0)⟩
def F.HST_POISON_RX_COUNT : Fld := ⟨0x78, 0xc8, 4, 0, 32, .rc, (.n 0)⟩
def F.HST_P2P_DROP_COUNT : Fld := ⟨0x78, 0xcc, 4, 0, 32, .rc, (.n 0)⟩
def F.HST_FLR_PF : Fld := ⟨0x78, 0xd0, 4, 16, 16, .rc, (.n 0)⟩
def F.HST_FLR_VF : Fld := ⟨0x78, 0xd0, 4, 0, 16, .rc, (.n 0)⟩
def F.INS_STATUS_CFG_ERR : Fld := ⟨0x100, 0x80, 4, 8, 1, .w1c, (.n 0)⟩
def F.INS_STATUS_VF_PRESENT : Fld := ⟨0x100, 0x80, 4, 2, 1, .ro, (.n 0)⟩
def F.INS_STATUS_STATE : Fld := ⟨0x100, 0x80, 4, 0, 2, .ro, (.n 0)⟩
def F.INS_CTRL_RESET : Fld := ⟨0x100, 0x84, 4, 1, 1, .w1s, (.n 0)⟩
def F.INS_CTRL_ENABLE : Fld := ⟨0x100, 0x84, 4, 0, 1, .rw, (.n 0)⟩
def F.INS_QUOTA_Q_QUEUES : Fld := ⟨0x100, 0x88, 4, 0, 13, .rw, (.n 0)⟩
def F.INS_QUOTA_QP_QPS : Fld := ⟨0x100, 0x8c, 4, 0, 19, .rw, (.n 0)⟩
def F.INS_QUOTA_KEY_XTS : Fld := ⟨0x100, 0x90, 4, 16, 7, .rw, (.n 0)⟩
def F.INS_QUOTA_KEY_GCM : Fld := ⟨0x100, 0x90, 4, 0, 13, .rw, (.n 0)⟩
def F.INS_USE_KEYS : Fld := ⟨0x100, 0x94, 4, 16, 14, .ro, (.n 0)⟩
def F.INS_USE_QUEUES : Fld := ⟨0x100, 0x94, 4, 0, 13, .ro, (.n 0)⟩
def F.INS_USE_QP_QPS : Fld := ⟨0x100, 0x98, 4, 0, 19, .ro, (.n 0)⟩
def F.INS_ADMQ_BASE_VA : Fld := ⟨0x100, 0xa0, 4, 0, 57, .rw, (.n 0)⟩
def F.INS_ADMQ_CFG_VECTOR : Fld := ⟨0x100, 0xa8, 4, 16, 11, .rw, (.n 2047)⟩
def F.INS_ADMQ_CFG_CQ_LOG2 : Fld := ⟨0x100, 0xa8, 4, 8, 5, .rw, (.n 4)⟩
def F.INS_ADMQ_CFG_Q_LOG2 : Fld := ⟨0x100, 0xa8, 4, 0, 5, .rw, (.n 4)⟩
def F.INS_ADMCQ_BASE_VA : Fld := ⟨0x100, 0xb0, 4, 0, 57, .rw, (.n 0)⟩
def F.INS_ADMCQ_SHADOW_VA : Fld := ⟨0x100, 0xb8, 4, 0, 57, .rw, (.n 0)⟩
def F.INS_ADMQ_CTRL_ADMQ_ERR : Fld := ⟨0x100, 0xc0, 4, 1, 1, .ro, (.n 0)⟩
def F.INS_ADMQ_CTRL_ADMQ_EN : Fld := ⟨0x100, 0xc0, 4, 0, 1, .rw, (.n 0)⟩
def F.INS_APT_VA : Fld := ⟨0x100, 0xc8, 4, 36, 21, .rw, (.n 0)⟩
def F.INS_MB_H2R_CONS : Fld := ⟨0x100, 0xd0, 4, 16, 16, .ro, (.n 0)⟩
def F.INS_MB_H2R_PROD : Fld := ⟨0x100, 0xd0, 4, 0, 16, .rw, (.n 0)⟩
def F.INS_MB_R2H_CONS : Fld := ⟨0x100, 0xd4, 4, 16, 16, .rw, (.n 0)⟩
def F.INS_MB_R2H_PROD : Fld := ⟨0x100, 0xd4, 4, 0, 16, .ro, (.n 0)⟩
def F.INS_MB_CTRL_MB_ERR : Fld := ⟨0x100, 0xd8, 4, 1, 1, .w1c, (.n 0)⟩
def F.INS_MB_CTRL_IRQ_EN : Fld := ⟨0x100, 0xd8, 4, 0, 1, .rw, (.n 1)⟩
def F.INS_RESET_STAT_CAUSE : Fld := ⟨0x100, 0xe0, 4, 29, 3, .ro, (.n 0)⟩
def F.INS_RESET_STAT_SQUASHED : Fld := ⟨0x100, 0xe0, 4, 28, 1, .ro, (.n 0)⟩
def F.INS_RESET_STAT_QPS_NOTICED : Fld := ⟨0x100, 0xe0, 4, 16, 12, .ro, (.n 0)⟩
def F.INS_RESET_STAT_DURATION : Fld := ⟨0x100, 0xe0, 4, 0, 16, .ro, (.n 0)⟩
def F.FWC_STATUS_PHASE : Fld := ⟨0x4, 0x80, 4, 28, 4, .ro, (.n 0)⟩
def F.FWC_STATUS_RUN_BANK : Fld := ⟨0x4, 0x80, 4, 27, 1, .ro, (.n 0)⟩
def F.FWC_STATUS_FALLBACK : Fld := ⟨0x4, 0x80, 4, 26, 1, .w1c, (.n 0)⟩
def F.FWC_STATUS_BUSY : Fld := ⟨0x4, 0x80, 4, 25, 1, .ro, (.n 0)⟩
def F.FWC_STATUS_UPDATE : Fld := ⟨0x4, 0x80, 4, 16, 4, .ro, (.n 0)⟩
def F.FWC_CMD_CMD : Fld := ⟨0x4, 0x84, 4, 0, 4, .wo, (.n 0)⟩
def F.FWC_RESULT_CODE : Fld := ⟨0x4, 0x88, 4, 0, 4, .ro, (.n 0)⟩
def F.FWC_SRC_ADDR : Fld := ⟨0x4, 0x90, 4, 12, 52, .rw, (.n 0)⟩
def F.FWC_LEN_BYTES : Fld := ⟨0x4, 0x98, 4, 0, 26, .rw, (.n 0)⟩
def F.FWC_FLASH_ADDR_PAGE : Fld := ⟨0x4, 0x9c, 4, 12, 13, .rw, (.n 0)⟩
def F.FWC_BANK_A_VER_FW_VER : Fld := ⟨0x4, 0xa0, 4, 0, 32, .ro, (.n 0)⟩
def F.FWC_BANK_B_VER_FW_VER : Fld := ⟨0x4, 0xa4, 4, 0, 32, .ro, (.n 0)⟩
def F.FWC_BOOT_SVN_MIN : Fld := ⟨0x4, 0xa8, 4, 8, 8, .ro, (.n 0)⟩
def F.FWC_BOOT_ATTEMPTS : Fld := ⟨0x4, 0xa8, 4, 2, 2, .ro, (.n 0)⟩
def F.FWC_BOOT_TRIAL : Fld := ⟨0x4, 0xa8, 4, 1, 1, .ro, (.n 0)⟩
def F.FWC_BOOT_ACTIVE : Fld := ⟨0x4, 0xa8, 4, 0, 1, .ro, (.n 0)⟩
def F.FWC_HANDOFF_BELL_BELL : Fld := ⟨0x4, 0xb0, 4, 0, 44, .ro, (.n 0)⟩
def F.FWC_GAP_HREC : Fld := ⟨0x4, 0xb8, 4, 16, 16, .ro, (.n 0)⟩
def F.FWC_GAP_DURATION : Fld := ⟨0x4, 0xb8, 4, 0, 16, .ro, (.n 0)⟩
def F.FWC_CORE_SEL_CORE : Fld := ⟨0x4, 0xc0, 4, 0, 4, .rw, (.n 0)⟩
def F.FWC_CORE_EXPIRIES : Fld := ⟨0x4, 0xc4, 4, 26, 6, .rc, (.n 0)⟩
def F.FWC_CORE_WD_MS : Fld := ⟨0x4, 0xc4, 4, 16, 10, .ro, (.n 0)⟩
def F.FWC_CORE_DUTY_LOST : Fld := ⟨0x4, 0xc4, 4, 3, 1, .w1c, (.n 0)⟩
def F.FWC_CORE_STATE : Fld := ⟨0x4, 0xc4, 4, 0, 3, .ro, (.n 0)⟩
def F.FWC_GOV_TJ_MAX : Fld := ⟨0x4, 0xd0, 4, 24, 8, .ro, (.n 0)⟩
def F.FWC_GOV_RAIL : Fld := ⟨0x4, 0xd0, 4, 4, 1, .ro, (.n 0)⟩
def F.FWC_GOV_CURRENT : Fld := ⟨0x4, 0xd0, 4, 3, 1, .ro, (.n 0)⟩
def F.FWC_GOV_THERMAL : Fld := ⟨0x4, 0xd0, 4, 2, 1, .ro, (.n 0)⟩
def F.FWC_GOV_POWER : Fld := ⟨0x4, 0xd0, 4, 1, 1, .ro, (.n 0)⟩
def F.FWC_GOV_SKIPPING : Fld := ⟨0x4, 0xd0, 4, 0, 1, .ro, (.n 0)⟩
def F.FWC_POWER_WATTS : Fld := ⟨0x4, 0xd8, 4, 0, 16, .ro, (.n 0)⟩
def F.FWC_GOV_SKIP_CYCLES : Fld := ⟨0x4, 0xe0, 4, 0, 64, .rc, (.n 0)⟩
def F.FWC_SET_BUF_WORD : Fld := ⟨0x4, 0x400, 4, 0, 32, .rw, (.n 0)⟩
def F.FWC_PAGE_DATA : Fld := ⟨0x4, 0x1000, 4, 0, 32, .rw, (.n 0)⟩
def F.FLT_SUMMARY_GROUPS : Fld := ⟨0x3, 0x80, 4, 0, 32, .ro, (.n 0)⟩
def F.FLT_SEVERE_SUM_GROUPS : Fld := ⟨0x3, 0x84, 4, 0, 32, .ro, (.n 0)⟩
def F.FLT_CTRL_IRQ_EN : Fld := ⟨0x3, 0x88, 4, 0, 1, .rw, (.n 1)⟩
def F.FLT_SRC_SEL_SOURCE : Fld := ⟨0x3, 0x8c, 4, 0, 10, .rw, (.n 0)⟩
def F.FLT_SRC_CFG_CLASS : Fld := ⟨0x3, 0x90, 4, 30, 2, .rw, .view⟩
def F.FLT_SRC_CFG_FIXED : Fld := ⟨0x3, 0x90, 4, 29, 1, .ro, .view⟩
def F.FLT_SRC_CFG_W : Fld := ⟨0x3, 0x90, 4, 8, 16, .rw, .view⟩
def F.FLT_SRC_CFG_N : Fld := ⟨0x3, 0x90, 4, 0, 8, .rw, .view⟩
def F.FLT_SRC_COUNT_COUNT : Fld := ⟨0x3, 0x94, 4, 0, 32, .rc, (.n 0)⟩
def F.FLT_SRC_WINDOW_SUM : Fld := ⟨0x3, 0x98, 4, 0, 12, .ro, (.n 0)⟩
def F.FLT_INST_SEL_INSTANCE : Fld := ⟨0x3, 0xa0, 4, 0, 9, .rw, (.n 0)⟩
def F.FLT_INST_CAUSE_CAUSE : Fld := ⟨0x3, 0xa4, 4, 0, 5, .w1c, (.n 0)⟩
def F.FLT_TWIN_CTRL_MIRROR_ERR : Fld := ⟨0x3, 0xb0, 4, 2, 1, .w1c, (.n 0)⟩
def F.FLT_TWIN_CTRL_RECOVER_HOLD : Fld := ⟨0x3, 0xb0, 4, 1, 1, .rw, (.n 0)⟩
def F.FLT_TWIN_CTRL_MIRROR : Fld := ⟨0x3, 0xb0, 4, 0, 1, .rw, (.n 0)⟩
def F.FLT_TWIN_CMD_CMD : Fld := ⟨0x3, 0xb4, 4, 0, 3, .wo, (.n 0)⟩
def F.FLT_TWIN_STATUS_RESULT : Fld := ⟨0x3, 0xb8, 4, 28, 4, .ro, (.n 0)⟩
def F.FLT_TWIN_STATUS_PARTNER : Fld := ⟨0x3, 0xb8, 4, 16, 8, .ro, (.n 0)⟩
def F.FLT_TWIN_STATUS_TWIN_READY : Fld := ⟨0x3, 0xb8, 4, 15, 1, .ro, (.n 0)⟩
def F.FLT_TWIN_STATUS_MIRROR_SYNC : Fld := ⟨0x3, 0xb8, 4, 14, 1, .ro, (.n 0)⟩
def F.FLT_TWIN_STATUS_FALLOW_PEER : Fld := ⟨0x3, 0xb8, 4, 13, 1, .ro, (.n 0)⟩
def F.FLT_TWIN_STATUS_FAILED : Fld := ⟨0x3, 0xb8, 4, 10, 3, .ro, (.n 0)⟩
def F.FLT_TWIN_STATUS_STATE : Fld := ⟨0x3, 0xb8, 4, 0, 4, .ro, (.n 0)⟩
def F.FLT_TWIN_BELL_BELL : Fld := ⟨0x3, 0xc0, 4, 0, 44, .ro, (.n 0)⟩
def F.FLT_TWIN_OFS_OFS : Fld := ⟨0x3, 0xc8, 4, 16, 41, .rw, (.n 0)⟩
def F.FLT_TWIN_COPY_MIB : Fld := ⟨0x3, 0xd0, 4, 0, 32, .ro, (.n 0)⟩
def F.FLT_HB_MISSED_COUNT : Fld := ⟨0x3, 0xd4, 4, 0, 32, .rc, (.n 0)⟩
def F.FLT_SNAP_INFO_VALID : Fld := ⟨0x3, 0xe0, 4, 31, 1, .ro, (.n 0)⟩
def F.FLT_SNAP_INFO_KA_LOST : Fld := ⟨0x3, 0xe0, 4, 30, 1, .ro, (.n 0)⟩
def F.FLT_SNAP_TIME_SECONDS : Fld := ⟨0x3, 0xe8, 4, 0, 48, .ro, (.n 0)⟩
def F.FLT_STATUS_STATUS : Fld := ⟨0x3, 0x400, 4, 0, 32, .w1c, (.n 0)⟩
def F.FLT_SEVERE_SEVERE : Fld := ⟨0x3, 0x480, 4, 0, 32, .w1c, (.n 0)⟩
def F.FLT_FORCE_FORCE : Fld := ⟨0x3, 0x500, 4, 0, 32, .rw, (.n 0)⟩
def F.FLT_ENABLE_ENABLE : Fld := ⟨0x3, 0x580, 4, 0, 32, .rw, (.n 1)⟩
def F.FLT_SNAP_STATUS : Fld := ⟨0x3, 0x600, 4, 0, 32, .ro, (.n 0)⟩
def F.MGT_STATUS_GP_CFG_ERR : Fld := ⟨0x5, 0x80, 4, 7, 1, .w1c, (.n 0)⟩
def F.MGT_STATUS_SMB_PEC : Fld := ⟨0x5, 0x80, 4, 6, 1, .w1c, (.n 0)⟩
def F.MGT_STATUS_SMB_FORMAT : Fld := ⟨0x5, 0x80, 4, 5, 1, .w1c, (.n 0)⟩
def F.MGT_STATUS_SMB_VIOL : Fld := ⟨0x5, 0x80, 4, 4, 1, .w1c, (.n 0)⟩
def F.MGT_STATUS_SPI_BADCMD : Fld := ⟨0x5, 0x80, 4, 3, 1, .w1c, (.n 0)⟩
def F.MGT_STATUS_SPI_SHORT : Fld := ⟨0x5, 0x80, 4, 2, 1, .w1c, (.n 0)⟩
def F.MGT_STATUS_SPI_PARTIAL : Fld := ⟨0x5, 0x80, 4, 1, 1, .w1c, (.n 0)⟩
def F.MGT_STATUS_SPI_VIOL : Fld := ⟨0x5, 0x80, 4, 0, 1, .w1c, (.n 0)⟩
def F.MGT_GP_FUNC0_FUNC0 : Fld := ⟨0x5, 0x84, 4, 0, 4, .rw, (.n 0)⟩
def F.MGT_GP_FUNC0_FUNC1 : Fld := ⟨0x5, 0x84, 4, 4, 4, .rw, (.n 0)⟩
def F.MGT_GP_FUNC0_FUNC2 : Fld := ⟨0x5, 0x84, 4, 8, 4, .rw, (.n 0)⟩
def F.MGT_GP_FUNC0_FUNC3 : Fld := ⟨0x5, 0x84, 4, 12, 4, .rw, (.n 0)⟩
def F.MGT_GP_FUNC0_FUNC4 : Fld := ⟨0x5, 0x84, 4, 16, 4, .rw, (.n 0)⟩
def F.MGT_GP_FUNC0_FUNC5 : Fld := ⟨0x5, 0x84, 4, 20, 4, .rw, (.n 0)⟩
def F.MGT_GP_FUNC0_FUNC6 : Fld := ⟨0x5, 0x84, 4, 24, 4, .rw, (.n 0)⟩
def F.MGT_GP_FUNC0_FUNC7 : Fld := ⟨0x5, 0x84, 4, 28, 4, .rw, (.n 0)⟩
def F.MGT_GP_FUNC1_FUNC0 : Fld := ⟨0x5, 0x88, 4, 0, 4, .rw, (.n 0)⟩
def F.MGT_GP_FUNC1_FUNC1 : Fld := ⟨0x5, 0x88, 4, 4, 4, .rw, (.n 0)⟩
def F.MGT_GP_FUNC1_FUNC2 : Fld := ⟨0x5, 0x88, 4, 8, 4, .rw, (.n 0)⟩
def F.MGT_GP_FUNC1_FUNC3 : Fld := ⟨0x5, 0x88, 4, 12, 4, .rw, (.n 0)⟩
def F.MGT_GP_FUNC1_FUNC4 : Fld := ⟨0x5, 0x88, 4, 16, 4, .rw, (.n 0)⟩
def F.MGT_GP_FUNC1_FUNC5 : Fld := ⟨0x5, 0x88, 4, 20, 4, .rw, (.n 0)⟩
def F.MGT_GP_FUNC1_FUNC6 : Fld := ⟨0x5, 0x88, 4, 24, 4, .rw, (.n 0)⟩
def F.MGT_GP_FUNC1_FUNC7 : Fld := ⟨0x5, 0x88, 4, 28, 4, .rw, (.n 0)⟩
def F.MGT_GP_PULL_PULL0 : Fld := ⟨0x5, 0x8c, 4, 0, 2, .rw, (.n 1)⟩
def F.MGT_GP_PULL_PULL1 : Fld := ⟨0x5, 0x8c, 4, 2, 2, .rw, (.n 1)⟩
def F.MGT_GP_PULL_PULL2 : Fld := ⟨0x5, 0x8c, 4, 4, 2, .rw, (.n 1)⟩
def F.MGT_GP_PULL_PULL3 : Fld := ⟨0x5, 0x8c, 4, 6, 2, .rw, (.n 1)⟩
def F.MGT_GP_PULL_PULL4 : Fld := ⟨0x5, 0x8c, 4, 8, 2, .rw, (.n 1)⟩
def F.MGT_GP_PULL_PULL5 : Fld := ⟨0x5, 0x8c, 4, 10, 2, .rw, (.n 1)⟩
def F.MGT_GP_PULL_PULL6 : Fld := ⟨0x5, 0x8c, 4, 12, 2, .rw, (.n 1)⟩
def F.MGT_GP_PULL_PULL7 : Fld := ⟨0x5, 0x8c, 4, 14, 2, .rw, (.n 1)⟩
def F.MGT_GP_PULL_PULL8 : Fld := ⟨0x5, 0x8c, 4, 16, 2, .rw, (.n 1)⟩
def F.MGT_GP_PULL_PULL9 : Fld := ⟨0x5, 0x8c, 4, 18, 2, .rw, (.n 1)⟩
def F.MGT_GP_PULL_PULL10 : Fld := ⟨0x5, 0x8c, 4, 20, 2, .rw, (.n 1)⟩
def F.MGT_GP_PULL_PULL11 : Fld := ⟨0x5, 0x8c, 4, 22, 2, .rw, (.n 1)⟩
def F.MGT_GP_PULL_PULL12 : Fld := ⟨0x5, 0x8c, 4, 24, 2, .rw, (.n 1)⟩
def F.MGT_GP_PULL_PULL13 : Fld := ⟨0x5, 0x8c, 4, 26, 2, .rw, (.n 1)⟩
def F.MGT_GP_PULL_PULL14 : Fld := ⟨0x5, 0x8c, 4, 28, 2, .rw, (.n 1)⟩
def F.MGT_GP_PULL_PULL15 : Fld := ⟨0x5, 0x8c, 4, 30, 2, .rw, (.n 1)⟩
def F.MGT_GP_OE_OE : Fld := ⟨0x5, 0x90, 4, 0, 16, .rw, (.n 0)⟩
def F.MGT_GP_OUT_OUT : Fld := ⟨0x5, 0x94, 4, 0, 16, .rw, (.n 0)⟩
def F.MGT_GP_IN_CHG : Fld := ⟨0x5, 0x98, 4, 16, 16, .ro, (.n 0)⟩
def F.MGT_GP_IN_IN : Fld := ⟨0x5, 0x98, 4, 0, 16, .ro, (.n 0)⟩
def F.MGT_COOLANT_T_OUTLET : Fld := ⟨0x5, 0xa0, 4, 16, 16, .ro, (.n 0)⟩
def F.MGT_COOLANT_T_INLET : Fld := ⟨0x5, 0xa0, 4, 0, 16, .ro, (.n 0)⟩
def F.MGT_COOLANT_F_LID : Fld := ⟨0x5, 0xa4, 4, 17, 1, .ro, (.n 0)⟩
def F.MGT_COOLANT_F_LEAK : Fld := ⟨0x5, 0xa4, 4, 16, 1, .ro, (.n 0)⟩
def F.MGT_COOLANT_F_FLOW : Fld := ⟨0x5, 0xa4, 4, 0, 16, .ro, (.n 0)⟩
def F.MGT_INPUT_CURRENT : Fld := ⟨0x5, 0xa8, 4, 16, 16, .ro, (.n 0)⟩
def F.MGT_INPUT_VOLTAGE : Fld := ⟨0x5, 0xa8, 4, 0, 16, .ro, (.n 0)⟩
def F.MGT_RTC_SECONDS : Fld := ⟨0x5, 0xb0, 4, 0, 48, .rw, (.n 0)⟩
def F.MGT_KA_ALARM_LATCHED : Fld := ⟨0x5, 0xb8, 4, 31, 1, .ro, (.n 0)⟩
def F.MGT_KA_ALARM_ACKED : Fld := ⟨0x5, 0xb8, 4, 30, 1, .ro, (.n 0)⟩
def F.MGT_KA_ALARM_CAUSE : Fld := ⟨0x5, 0xb8, 4, 28, 2, .ro, (.n 0)⟩
def F.MGT_KA_ALARM_COUNT : Fld := ⟨0x5, 0xb8, 4, 16, 8, .ro, (.n 0)⟩
def F.MGT_KA_TIME_SECONDS : Fld := ⟨0x5, 0xc0, 4, 0, 48, .ro, (.n 0)⟩
def F.MGT_KA_ACK_KEY : Fld := ⟨0x5, 0xc8, 4, 16, 16, .wo, (.n 0)⟩
def F.MGT_KA_ACK_ACK : Fld := ⟨0x5, 0xc8, 4, 0, 1, .wo, (.n 0)⟩
def F.RST_CMD_KEY : Fld := ⟨0x2, 0x80, 4, 16, 16, .wo, (.n 0)⟩
def F.RST_CMD_CMD : Fld := ⟨0x2, 0x80, 4, 0, 4, .wo, (.n 0)⟩
def F.RST_CAUSE_COUNT : Fld := ⟨0x2, 0x84, 4, 16, 16, .ro, (.n 0)⟩
def F.RST_CAUSE_CAUSE : Fld := ⟨0x2, 0x84, 4, 0, 2, .ro, (.n 0)⟩
def F.RST_CORE_SEL_CORE : Fld := ⟨0x2, 0x88, 4, 0, 4, .rw, (.n 0)⟩
def F.RST_CORE_RESET : Fld := ⟨0x2, 0x8c, 4, 0, 1, .w1s, (.n 0)⟩
def F.HST_MB_SLOT_WORD : Fld := ⟨0x78, 0x1000, 4, 0, 32, .rw, (.n 0)⟩
def F.INS_MB_SLOT_WORD : Fld := ⟨0x100, 0x1000, 4, 0, 32, .rw, (.n 0)⟩

/-- The registers of a HDR page (offsets within the page). -/
def regsHdr : List RegDef := [
  ⟨.PAGE_ID, 0x0, false, 1, 4, .none, [F.PAGE_ID_BLOCK, F.PAGE_ID_INDEX]⟩,
  ⟨.PAGE_VER, 0x4, false, 1, 4, .none, [F.PAGE_VER_MAJOR, F.PAGE_VER_MINOR, F.PAGE_VER_PATCH]⟩,
  ⟨.PAGE_CAP, 0x8, false, 1, 4, .none, [F.PAGE_CAP_BLOCK_CAP, F.PAGE_CAP_PRESENT]⟩,
  ⟨.PAGE_STATUS, 0xc, false, 1, 4, .none, [F.PAGE_STATUS_BLOCK_STATUS, F.PAGE_STATUS_CNT_SAT, F.PAGE_STATUS_FAULT, F.PAGE_STATUS_IN_SERVICE, F.PAGE_STATUS_LATCH_MISS, F.PAGE_STATUS_VIOL]⟩,
  ⟨.VIOL_ADDR, 0x10, true, 1, 4, .none, [F.VIOL_ADDR_ADDR]⟩,
  ⟨.VIOL_INFO, 0x18, false, 1, 4, .none, [F.VIOL_INFO_COUNT, F.VIOL_INFO_BAR, F.VIOL_INFO_REASON, F.VIOL_INFO_ACCESS, F.VIOL_INFO_SOURCE]⟩,
  ⟨.PAGE_CTRL, 0x1c, false, 1, 4, .none, [F.PAGE_CTRL_VIOL_NOTE_EN]⟩,
  ⟨.PAGE_TAG, 0x20, false, 8, 4, .none, [F.PAGE_TAG_TAG]⟩]

/-- The registers of a GLB page (offsets within the page). -/
def regsGlb : List RegDef := [
  ⟨.GLB_DEVICE, 0x80, false, 1, 4, .none, [F.GLB_DEVICE_DEVICE, F.GLB_DEVICE_STEP_MAJOR, F.GLB_DEVICE_STEP_MINOR]⟩,
  ⟨.GLB_FW_VER, 0x84, false, 1, 4, .none, [F.GLB_FW_VER_MAJOR, F.GLB_FW_VER_MINOR, F.GLB_FW_VER_BUILD]⟩,
  ⟨.GLB_SERIAL, 0x88, true, 1, 4, .none, [F.GLB_SERIAL_SERIAL]⟩,
  ⟨.GLB_CAP, 0x90, false, 1, 4, .none, [F.GLB_CAP_SRIOV, F.GLB_CAP_CXL_MEM, F.GLB_CAP_ORT, F.GLB_CAP_CIPHER, F.GLB_CAP_ETH_PORTS]⟩,
  ⟨.GLB_CAP_LINKS, 0x94, false, 1, 4, .none, [F.GLB_CAP_LINKS_LINKS]⟩,
  ⟨.GLB_CAP_GRN, 0x98, false, 1, 4, .none, [F.GLB_CAP_GRN_CHANNELS]⟩,
  ⟨.GLB_CAP_CRB, 0x9c, false, 1, 4, .none, [F.GLB_CAP_CRB_STACKS]⟩,
  ⟨.GLB_SVC_LINKS, 0xa0, false, 1, 4, .none, [F.GLB_SVC_LINKS_LINKS]⟩,
  ⟨.GLB_SVC_GRN, 0xa4, false, 1, 4, .none, [F.GLB_SVC_GRN_CHANNELS]⟩,
  ⟨.GLB_SVC_CRB, 0xa8, false, 1, 4, .none, [F.GLB_SVC_CRB_STACKS]⟩,
  ⟨.GLB_FW_IF, 0xac, false, 1, 4, .none, [F.GLB_FW_IF_IF_MAX, F.GLB_FW_IF_IF_MIN]⟩,
  ⟨.GLB_STATE, 0xb0, false, 1, 4, .none, [F.GLB_STATE_SAFE_CAUSE, F.GLB_STATE_CMD_RESULT, F.GLB_STATE_SERVICE_LEVEL, F.GLB_STATE_MODULE_STATE]⟩,
  ⟨.GLB_CMD, 0xb4, false, 1, 4, .none, [F.GLB_CMD_CMD]⟩,
  ⟨.GLB_MODE, 0xb8, false, 1, 4, .none, [F.GLB_MODE_REFUSE_REASON, F.GLB_MODE_FORCED, F.GLB_MODE_REFUSED, F.GLB_MODE_PENDING, F.GLB_MODE_REQUEST, F.GLB_MODE_MODE]⟩,
  ⟨.GLB_SETTINGS, 0xc0, false, 1, 4, .none, [F.GLB_SETTINGS_RECORD_VER, F.GLB_SETTINGS_CAUSE, F.GLB_SETTINGS_DEFAULTS_USED]⟩,
  ⟨.GLB_POSITION, 0xc4, false, 1, 4, .none, [F.GLB_POSITION_POSITION_VALID, F.GLB_POSITION_TWIN_VALID, F.GLB_POSITION_TWIN_ID, F.GLB_POSITION_MODULE_ID, F.GLB_POSITION_RICK, F.GLB_POSITION_SEAT]⟩,
  ⟨.GLB_SET_CHECK, 0xc8, false, 1, 4, .none, [F.GLB_SET_CHECK_STORED]⟩,
  ⟨.GLB_SET_CALC, 0xcc, false, 1, 4, .none, [F.GLB_SET_CALC_COMPUTED]⟩,
  ⟨.GLB_SET_TAG, 0xd0, false, 4, 4, .none, [F.GLB_SET_TAG_TAG]⟩,
  ⟨.GLB_MODE_AT, 0xe0, true, 1, 4, .none, [F.GLB_MODE_AT_BELL]⟩]

/-- The registers of a ALM page (offsets within the page). -/
def regsAlm : List RegDef := [
  ⟨.ALM_CTX, 0x80, false, 1, 4, .none, [F.ALM_CTX_CTX]⟩,
  ⟨.ALM_CMD, 0x84, false, 1, 4, .almCtx, [F.ALM_CMD_CMD]⟩,
  ⟨.ALM_STATE, 0x88, false, 1, 4, .almCtx, [F.ALM_STATE_CMD_ERR, F.ALM_STATE_REASON, F.ALM_STATE_BUSY, F.ALM_STATE_STATE]⟩,
  ⟨.ALM_FAIL_IDX, 0x8c, false, 1, 4, .almCtx, [F.ALM_FAIL_IDX_INDEX]⟩,
  ⟨.ALM_BASE, 0x90, true, 1, 4, .almCtx, [F.ALM_BASE_VA]⟩,
  ⟨.ALM_DESC, 0x98, true, 1, 4, .almCtx, [F.ALM_DESC_VA]⟩,
  ⟨.ALM_DESC_COUNT, 0xa0, false, 1, 4, .almCtx, [F.ALM_DESC_COUNT_COUNT]⟩,
  ⟨.ALM_GROUP, 0xa8, true, 1, 4, .almCtx, [F.ALM_GROUP_VA]⟩,
  ⟨.ALM_START, 0xb0, true, 1, 4, .almCtx, [F.ALM_START_BELL]⟩,
  ⟨.ALM_PC, 0xb8, false, 1, 4, .almCtx, [F.ALM_PC_INDEX]⟩,
  ⟨.ALM_STEP, 0xc0, true, 1, 4, .almCtx, [F.ALM_STEP_STEP]⟩,
  ⟨.ALM_HELD, 0xc8, false, 1, 4, .almCtx, [F.ALM_HELD_BELLS]⟩]

/-- The registers of a THR page (offsets within the page). -/
def regsThr : List RegDef := [
  ⟨.THR_STATUS, 0x80, false, 1, 4, .none, [F.THR_STATUS_OPEN, F.THR_STATUS_INSTANCE, F.THR_STATUS_OWNER]⟩,
  ⟨.THR_BUSY, 0x88, true, 1, 4, .none, [F.THR_BUSY_CYCLES]⟩,
  ⟨.THR_SWITCH, 0x90, true, 1, 4, .none, [F.THR_SWITCH_COUNT]⟩,
  ⟨.THR_SHIFT_SEL, 0xa0, false, 1, 4, .none, [F.THR_SHIFT_SEL_INSTANCE]⟩,
  ⟨.THR_SHIFT_CFG, 0xa4, false, 1, 4, .thrInst, [F.THR_SHIFT_CFG_QUANTUM, F.THR_SHIFT_CFG_PRIORITY, F.THR_SHIFT_CFG_SHARE]⟩,
  ⟨.THR_SHIFT_STAGE, 0xa8, false, 1, 4, .thrInst, [F.THR_SHIFT_STAGE_STAGE]⟩,
  ⟨.THR_SHIFT_CMD, 0xac, false, 1, 4, .none, [F.THR_SHIFT_CMD_FIRST, F.THR_SHIFT_CMD_RESULT, F.THR_SHIFT_CMD_APPLY]⟩,
  ⟨.THR_PWR_SEL, 0xb0, false, 1, 4, .none, [F.THR_PWR_SEL_INDEX]⟩,
  ⟨.THR_PWR_COEF, 0xb4, false, 1, 4, .thrPwr, [F.THR_PWR_COEF_VALUE]⟩]

/-- The registers of a ARI page (offsets within the page). -/
def regsAri : List RegDef := [
  ⟨.ARI_SEL, 0x80, false, 1, 4, .none, [F.ARI_SEL_SCOPE, F.ARI_SEL_INSTANCE]⟩,
  ⟨.ARI_FLAGS, 0x84, false, 1, 4, .ariScope, [F.ARI_FLAGS_CHAFF_NF, F.ARI_FLAGS_TALLY_NF, F.ARI_FLAGS_SCALE_CLAMP, F.ARI_FLAGS_UFL, F.ARI_FLAGS_SAT, F.ARI_FLAGS_INF_OUT, F.ARI_FLAGS_NAN_OUT, F.ARI_FLAGS_NAN_IN]⟩,
  ⟨.ARI_NAN_IN, 0x88, false, 1, 4, .ariScope, [F.ARI_NAN_IN_COUNT]⟩,
  ⟨.ARI_NAN_OUT, 0x8c, false, 1, 4, .ariScope, [F.ARI_NAN_OUT_COUNT]⟩,
  ⟨.ARI_INF_OUT, 0x90, false, 1, 4, .ariScope, [F.ARI_INF_OUT_COUNT]⟩,
  ⟨.ARI_SAT, 0x94, false, 1, 4, .ariScope, [F.ARI_SAT_COUNT]⟩,
  ⟨.ARI_UFL, 0x98, false, 1, 4, .ariScope, [F.ARI_UFL_COUNT]⟩,
  ⟨.ARI_SCALE_CLAMP, 0x9c, false, 1, 4, .ariScope, [F.ARI_SCALE_CLAMP_COUNT]⟩,
  ⟨.ARI_TALLY_NF, 0xa0, false, 1, 4, .ariScope, [F.ARI_TALLY_NF_COUNT]⟩,
  ⟨.ARI_CHAFF_NF, 0xa4, false, 1, 4, .ariScope, [F.ARI_CHAFF_NF_COUNT]⟩,
  ⟨.ARI_CHAFF_DESC, 0xb0, false, 1, 4, .none, [F.ARI_CHAFF_DESC_ALL, F.ARI_CHAFF_DESC_DESC]⟩,
  ⟨.ARI_CHAFF_CMD, 0xb4, false, 1, 4, .none, [F.ARI_CHAFF_CMD_CLEAR]⟩,
  ⟨.ARI_CHAFF_STATUS, 0xb8, false, 1, 4, .none, [F.ARI_CHAFF_STATUS_RESULT, F.ARI_CHAFF_STATUS_BUSY]⟩,
  ⟨.ARI_GEN_SEED, 0xc0, true, 1, 4, .none, [F.ARI_GEN_SEED_VALUE]⟩,
  ⟨.ARI_GEN_STEP, 0xc8, true, 1, 4, .none, [F.ARI_GEN_STEP_VALUE]⟩,
  ⟨.ARI_GEN_DESC, 0xd0, false, 1, 4, .none, [F.ARI_GEN_DESC_DESC]⟩,
  ⟨.ARI_GEN_I0, 0xd4, false, 1, 4, .none, [F.ARI_GEN_I0_VALUE]⟩,
  ⟨.ARI_GEN_I1, 0xd8, false, 1, 4, .none, [F.ARI_GEN_I1_VALUE]⟩,
  ⟨.ARI_GEN_I2, 0xdc, false, 1, 4, .none, [F.ARI_GEN_I2_VALUE]⟩,
  ⟨.ARI_GEN_I3, 0xe0, false, 1, 4, .none, [F.ARI_GEN_I3_VALUE]⟩,
  ⟨.ARI_GEN_OUT, 0xe8, true, 1, 4, .none, [F.ARI_GEN_OUT_RBITS]⟩]

/-- The registers of a LFT page (offsets within the page). -/
def regsLft : List RegDef := [
  ⟨.LFT_STATUS, 0x80, false, 1, 4, .none, [F.LFT_STATUS_STEAD, F.LFT_STATUS_FREE]⟩,
  ⟨.LFT_SEL, 0x84, false, 1, 4, .none, [F.LFT_SEL_INSTANCE]⟩,
  ⟨.LFT_QUOTA, 0x88, false, 1, 4, .lftInst, [F.LFT_QUOTA_CFG_ERR, F.LFT_QUOTA_QUOTA]⟩,
  ⟨.LFT_SPILL, 0x90, true, 1, 4, .lftInst, [F.LFT_SPILL_BASE]⟩,
  ⟨.LFT_RESIDENT, 0x98, false, 1, 4, .lftInst, [F.LFT_RESIDENT_SPILLED, F.LFT_RESIDENT_RESIDENT]⟩,
  ⟨.LFT_SPILLS, 0x9c, false, 1, 4, .none, [F.LFT_SPILLS_COUNT]⟩,
  ⟨.LFT_ECC_CORR, 0xa0, false, 1, 4, .none, [F.LFT_ECC_CORR_COUNT]⟩,
  ⟨.LFT_ECC_UNCORR, 0xa4, false, 1, 4, .none, [F.LFT_ECC_UNCORR_COUNT]⟩]

/-- The registers of a CRB page (offsets within the page). -/
def regsCrb : List RegDef := [
  ⟨.CRB_STATUS, 0x80, false, 1, 4, .none, [F.CRB_STATUS_TRAIN_TIME, F.CRB_STATUS_TEMP, F.CRB_STATUS_TRAIN_KIND, F.CRB_STATUS_TRAINING]⟩,
  ⟨.CRB_CTRL, 0x84, false, 1, 4, .none, [F.CRB_CTRL_FORCE_FULL, F.CRB_CTRL_RETURN, F.CRB_CTRL_OUT]⟩,
  ⟨.CRB_ECC_CORR, 0x88, false, 1, 4, .none, [F.CRB_ECC_CORR_COUNT]⟩,
  ⟨.CRB_ECC_UNCORR, 0x8c, false, 1, 4, .none, [F.CRB_ECC_UNCORR_COUNT]⟩,
  ⟨.CRB_ERR_ADDR, 0x90, true, 1, 4, .none, [F.CRB_ERR_ADDR_VALID, F.CRB_ERR_ADDR_ADDR]⟩]

/-- The registers of a GRN page (offsets within the page). -/
def regsGrn : List RegDef := [
  ⟨.GRN_CH_STATUS, 0x80, false, 4, 4, .none, [F.GRN_CH_STATUS_TRAIN_TIME, F.GRN_CH_STATUS_TEMP, F.GRN_CH_STATUS_TRAIN_KIND, F.GRN_CH_STATUS_TRAINING]⟩,
  ⟨.GRN_CTRL, 0x90, false, 1, 4, .none, [F.GRN_CTRL_FORCE_FULL, F.GRN_CTRL_RETURN, F.GRN_CTRL_OUT]⟩,
  ⟨.GRN_ECC_CORR, 0x94, false, 1, 4, .none, [F.GRN_ECC_CORR_COUNT]⟩,
  ⟨.GRN_ECC_UNCORR, 0x98, false, 1, 4, .none, [F.GRN_ECC_UNCORR_COUNT]⟩,
  ⟨.GRN_ERR_ADDR, 0xa0, true, 1, 4, .none, [F.GRN_ERR_ADDR_VALID, F.GRN_ERR_ADDR_ADDR]⟩]

/-- The registers of a XLT page (offsets within the page). -/
def regsXlt : List RegDef := [
  ⟨.XLT_SEL, 0x80, false, 1, 4, .none, [F.XLT_SEL_SPACE]⟩,
  ⟨.XLT_SPACE_CTRL, 0x84, false, 1, 4, .xltSpace, [F.XLT_SPACE_CTRL_FQ_EN, F.XLT_SPACE_CTRL_ENABLE]⟩,
  ⟨.XLT_ROOT, 0x88, true, 1, 4, .xltSpace, [F.XLT_ROOT_BASE]⟩,
  ⟨.XLT_FQ_BASE, 0x90, true, 1, 4, .xltSpace, [F.XLT_FQ_BASE_BASE]⟩,
  ⟨.XLT_FQ_SIZE, 0x98, false, 1, 4, .xltSpace, [F.XLT_FQ_SIZE_LOG2]⟩,
  ⟨.XLT_FQ_PROD, 0x9c, false, 1, 4, .xltSpace, [F.XLT_FQ_PROD_INDEX]⟩,
  ⟨.XLT_FQ_CONS, 0xa0, false, 1, 4, .xltSpace, [F.XLT_FQ_CONS_INDEX]⟩,
  ⟨.XLT_FQ_TIMEOUT, 0xa4, false, 1, 4, .xltSpace, [F.XLT_FQ_TIMEOUT_MS]⟩,
  ⟨.XLT_FQ_REPLY, 0xa8, false, 1, 4, .none, [F.XLT_FQ_REPLY_ACTION, F.XLT_FQ_REPLY_SPACE, F.XLT_FQ_REPLY_FAULT_ID]⟩,
  ⟨.XLT_FQ_STATUS, 0xac, false, 1, 4, .xltSpace, [F.XLT_FQ_STATUS_CONS_ERR, F.XLT_FQ_STATUS_REPLY_ERR, F.XLT_FQ_STATUS_PENDING]⟩,
  ⟨.XLT_INV_VA, 0xb0, true, 1, 4, .none, [F.XLT_INV_VA_VA]⟩,
  ⟨.XLT_INV_SIZE, 0xb8, false, 1, 4, .none, [F.XLT_INV_SIZE_PAGES]⟩,
  ⟨.XLT_INV_CMD, 0xbc, false, 1, 4, .none, [F.XLT_INV_CMD_SEQ, F.XLT_INV_CMD_FULL, F.XLT_INV_CMD_ALL, F.XLT_INV_CMD_GO]⟩,
  ⟨.XLT_INV_DONE, 0xc0, false, 1, 4, .none, [F.XLT_INV_DONE_SEQ]⟩,
  ⟨.XLT_MISSES, 0xc4, false, 1, 4, .none, [F.XLT_MISSES_COUNT]⟩,
  ⟨.XLT_WALK_ERR, 0xc8, false, 1, 4, .none, [F.XLT_WALK_ERR_COUNT]⟩,
  ⟨.XLT_FQ_DROP, 0xcc, false, 1, 4, .none, [F.XLT_FQ_DROP_COUNT]⟩,
  ⟨.XLT_POOL_SEL, 0xd0, false, 1, 4, .none, [F.XLT_POOL_SEL_POOL]⟩,
  ⟨.XLT_POOL_BASE, 0xd8, true, 1, 4, .xltPool, [F.XLT_POOL_BASE_BASE]⟩,
  ⟨.XLT_POOL_SIZE, 0xe0, false, 1, 4, .xltPool, [F.XLT_POOL_SIZE_LOG2]⟩,
  ⟨.XLT_POOL_PROD, 0xe4, false, 1, 4, .xltPool, [F.XLT_POOL_PROD_INDEX]⟩,
  ⟨.XLT_POOL_CONS, 0xe8, false, 1, 4, .xltPool, [F.XLT_POOL_CONS_INDEX]⟩,
  ⟨.XLT_POOL_LOW, 0xec, false, 1, 4, .xltPool, [F.XLT_POOL_LOW_FRAMES]⟩]

/-- The registers of a CLK page (offsets within the page). -/
def regsClk : List RegDef := [
  ⟨.CLK_STATUS, 0x80, false, 1, 4, .none, [F.CLK_STATUS_HOLD, F.CLK_STATUS_DEPTH, F.CLK_STATUS_TK_RANK, F.CLK_STATUS_TK_ID, F.CLK_STATUS_UPSTREAM, F.CLK_STATUS_UP_VALID, F.CLK_STATUS_SURVEY_CURRENT, F.CLK_STATUS_PROVISIONAL, F.CLK_STATUS_STEPPED, F.CLK_STATUS_ALIGNED, F.CLK_STATUS_LOCK]⟩,
  ⟨.CLK_CTRL, 0x84, false, 1, 4, .none, [F.CLK_CTRL_TK_COUNT, F.CLK_CTRL_RESURVEY, F.CLK_CTRL_SURVEY_GO]⟩,
  ⟨.CLK_BEAT, 0x88, true, 1, 4, .none, [F.CLK_BEAT_BEAT]⟩,
  ⟨.CLK_UPSTREAM, 0x90, false, 1, 4, .none, [F.CLK_UPSTREAM_VALID0, F.CLK_UPSTREAM_VALID1, F.CLK_UPSTREAM_VALID2, F.CLK_UPSTREAM_VALID3, F.CLK_UPSTREAM_LINK0, F.CLK_UPSTREAM_LINK1, F.CLK_UPSTREAM_LINK2, F.CLK_UPSTREAM_LINK3]⟩,
  ⟨.CLK_TK_ORDER0, 0x94, false, 1, 4, .none, [F.CLK_TK_ORDER0_MODULE0, F.CLK_TK_ORDER0_MODULE1, F.CLK_TK_ORDER0_MODULE2, F.CLK_TK_ORDER0_MODULE3]⟩,
  ⟨.CLK_TK_ORDER1, 0x98, false, 1, 4, .none, [F.CLK_TK_ORDER1_MODULE0, F.CLK_TK_ORDER1_MODULE1, F.CLK_TK_ORDER1_MODULE2, F.CLK_TK_ORDER1_MODULE3]⟩,
  ⟨.CLK_HOLDOVER, 0x9c, false, 1, 4, .none, [F.CLK_HOLDOVER_ENTRIES, F.CLK_HOLDOVER_BELLS]⟩,
  ⟨.CLK_SURVEY, 0xa0, false, 1, 4, .none, [F.CLK_SURVEY_EPOCH, F.CLK_SURVEY_STATE, F.CLK_SURVEY_MODULES]⟩,
  ⟨.CLK_STEAD_SIZE, 0xa4, false, 1, 4, .none, [F.CLK_STEAD_SIZE_EXPECTED]⟩,
  ⟨.CLK_LINK_SEL, 0xa8, false, 1, 4, .none, [F.CLK_LINK_SEL_LINK]⟩,
  ⟨.CLK_LINK_DELAY, 0xac, false, 1, 4, .clkLink, [F.CLK_LINK_DELAY_VALID, F.CLK_LINK_DELAY_PROVISIONAL, F.CLK_LINK_DELAY_FAILED, F.CLK_LINK_DELAY_DELAY]⟩,
  ⟨.CLK_LINK_ASYM, 0xb0, false, 1, 4, .clkLink, [F.CLK_LINK_ASYM_ASYM]⟩,
  ⟨.CLK_ALIGN, 0xb4, false, 1, 4, .none, [F.CLK_ALIGN_MAX, F.CLK_ALIGN_LAST]⟩,
  ⟨.CLK_HOLD_BELL, 0xb8, true, 1, 4, .none, [F.CLK_HOLD_BELL_BELL]⟩,
  ⟨.CLK_RESUME_BELL, 0xc0, true, 1, 4, .none, [F.CLK_RESUME_BELL_BELL]⟩,
  ⟨.CLK_LATE, 0xc8, false, 1, 4, .none, [F.CLK_LATE_COUNT]⟩,
  ⟨.CLK_DOMAIN_SEL, 0xcc, false, 1, 4, .none, [F.CLK_DOMAIN_SEL_DOMAIN]⟩,
  ⟨.CLK_DOMAIN_STATUS, 0xd0, false, 1, 4, .clkDomain, [F.CLK_DOMAIN_STATUS_LOSSES, F.CLK_DOMAIN_STATUS_PRESENT, F.CLK_DOMAIN_STATUS_LOCKED]⟩]

/-- The registers of a AGL page (offsets within the page). -/
def regsAgl : List RegDef := [
  ⟨.AGL_STATUS, 0x80, false, 1, 4, .none, [F.AGL_STATUS_CAUSE, F.AGL_STATUS_RESTORE_FAIL, F.AGL_STATUS_RESTORING, F.AGL_STATUS_PAIRS, F.AGL_STATUS_QUIET_MODE, F.AGL_STATUS_SHED, F.AGL_STATUS_PEER_QUIET, F.AGL_STATUS_STATE]⟩,
  ⟨.AGL_CTRL, 0x84, false, 1, 4, .none, [F.AGL_CTRL_DISABLE, F.AGL_CTRL_RETRAIN, F.AGL_CTRL_RESTORE]⟩,
  ⟨.AGL_EXPECT, 0x88, false, 1, 4, .none, [F.AGL_EXPECT_ROLE, F.AGL_EXPECT_CHECK_EN, F.AGL_EXPECT_PEER_LINK, F.AGL_EXPECT_PEER_MODULE]⟩,
  ⟨.AGL_PEER, 0x8c, false, 1, 4, .none, [F.AGL_PEER_VALID, F.AGL_PEER_POS_VALID, F.AGL_PEER_MODE_QUIET, F.AGL_PEER_LINK, F.AGL_PEER_MODULE]⟩,
  ⟨.AGL_LANES, 0x90, false, 1, 4, .none, [F.AGL_LANES_RX_LOCK0, F.AGL_LANES_RX_LOCK1, F.AGL_LANES_RX_LOCK2, F.AGL_LANES_RX_LOCK3, F.AGL_LANES_TX_ON0, F.AGL_LANES_TX_ON1, F.AGL_LANES_TX_ON2, F.AGL_LANES_TX_ON3, F.AGL_LANES_LOST0, F.AGL_LANES_LOST1, F.AGL_LANES_LOST2, F.AGL_LANES_LOST3]⟩,
  ⟨.AGL_SEQ, 0x94, false, 1, 4, .none, [F.AGL_SEQ_OLDEST, F.AGL_SEQ_NEXT]⟩,
  ⟨.AGL_REPLAY, 0x98, false, 1, 4, .none, [F.AGL_REPLAY_FRAMES]⟩,
  ⟨.AGL_TRAIN_TIME, 0x9c, false, 1, 4, .none, [F.AGL_TRAIN_TIME_FULL, F.AGL_TRAIN_TIME_SHED]⟩,
  ⟨.AGL_VC_SEL, 0xa0, false, 1, 4, .none, [F.AGL_VC_SEL_VC]⟩,
  ⟨.AGL_VC_CFG, 0xa4, false, 1, 4, .aglVc, [F.AGL_VC_CFG_WEIGHT, F.AGL_VC_CFG_CFG_ERR, F.AGL_VC_CFG_BUF]⟩,
  ⟨.AGL_VC_CREDIT, 0xa8, false, 1, 4, .aglVc, [F.AGL_VC_CREDIT_RX_OCC, F.AGL_VC_CREDIT_TX_CREDIT]⟩,
  ⟨.AGL_CRC_ERR, 0xb0, false, 1, 4, .none, [F.AGL_CRC_ERR_COUNT]⟩,
  ⟨.AGL_RETRY, 0xb4, false, 1, 4, .none, [F.AGL_RETRY_COUNT]⟩,
  ⟨.AGL_FEC_UNCORR, 0xb8, false, 1, 4, .none, [F.AGL_FEC_UNCORR_COUNT]⟩,
  ⟨.AGL_SHEDS, 0xbc, false, 1, 4, .none, [F.AGL_SHEDS_TRAIN_FAIL, F.AGL_SHEDS_SHEDS]⟩,
  ⟨.AGL_FEC_CORR, 0xc0, true, 1, 4, .none, [F.AGL_FEC_CORR_COUNT]⟩,
  ⟨.AGL_TX_FLITS, 0xc8, true, 1, 4, .none, [F.AGL_TX_FLITS_COUNT]⟩,
  ⟨.AGL_RX_FLITS, 0xd0, true, 1, 4, .none, [F.AGL_RX_FLITS_COUNT]⟩,
  ⟨.AGL_DROP_ROUTE, 0xd8, false, 1, 4, .none, [F.AGL_DROP_ROUTE_COUNT]⟩,
  ⟨.AGL_DROP_CTRL, 0xdc, false, 1, 4, .none, [F.AGL_DROP_CTRL_COUNT]⟩]

/-- The registers of a CMB page (offsets within the page). -/
def regsCmb : List RegDef := [
  ⟨.CMB_STATUS, 0x80, false, 1, 4, .none, [F.CMB_STATUS_STEAD_BUSY, F.CMB_STATUS_TENANT_BUSY, F.CMB_STATUS_GROUP, F.CMB_STATUS_OPCODE, F.CMB_STATUS_FLOORS]⟩,
  ⟨.CMB_STEAD, 0x84, false, 1, 4, .none, [F.CMB_STEAD_VALID, F.CMB_STEAD_STEAD_ID]⟩,
  ⟨.CMB_XS_SEL, 0x88, false, 1, 4, .none, [F.CMB_XS_SEL_STEAD]⟩,
  ⟨.CMB_XS_QP, 0x8c, false, 1, 4, .cmbXs, [F.CMB_XS_QP_VALID, F.CMB_XS_QP_QPN]⟩,
  ⟨.CMB_SUBST, 0x90, false, 1, 4, .none, [F.CMB_SUBST_ACTIVE, F.CMB_SUBST_CARRIER, F.CMB_SUBST_LOST]⟩,
  ⟨.CMB_TGRP_SEL, 0x94, false, 1, 4, .none, [F.CMB_TGRP_SEL_TGROUP]⟩,
  ⟨.CMB_TGRP, 0x98, false, 1, 4, .cmbTgrp, [F.CMB_TGRP_VALID, F.CMB_TGRP_INSTANCE]⟩,
  ⟨.CMB_TWAIT, 0x9c, false, 1, 4, .none, [F.CMB_TWAIT_MS]⟩,
  ⟨.CMB_SHEAVES_OUT, 0xa0, false, 1, 4, .none, [F.CMB_SHEAVES_OUT_COUNT]⟩,
  ⟨.CMB_SHEAVES_IN, 0xa4, false, 1, 4, .none, [F.CMB_SHEAVES_IN_COUNT]⟩,
  ⟨.CMB_DROP, 0xa8, false, 1, 4, .none, [F.CMB_DROP_COUNT]⟩,
  ⟨.CMB_TRIG_PEAK, 0xb0, false, 1, 4, .none, [F.CMB_TRIG_PEAK_PEAK]⟩,
  ⟨.CMB_RING_WAIT, 0xb8, true, 1, 4, .none, [F.CMB_RING_WAIT_BEATS]⟩]

/-- The registers of a RME page (offsets within the page). -/
def regsRme : List RegDef := [
  ⟨.RME_STATUS, 0x80, false, 1, 4, .none, [F.RME_STATUS_ADMQ_ERR, F.RME_STATUS_ENABLED]⟩,
  ⟨.RME_CTRL, 0x84, false, 1, 4, .none, [F.RME_CTRL_ADMQ_EN, F.RME_CTRL_ENABLE]⟩,
  ⟨.RME_CTX_BASE, 0x88, true, 1, 4, .none, [F.RME_CTX_BASE_BASE]⟩,
  ⟨.RME_ADMQ_BASE, 0x90, true, 1, 4, .none, [F.RME_ADMQ_BASE_VA]⟩,
  ⟨.RME_ADMQ_CFG, 0x98, false, 1, 4, .none, [F.RME_ADMQ_CFG_VECTOR, F.RME_ADMQ_CFG_CQ_LOG2, F.RME_ADMQ_CFG_Q_LOG2]⟩,
  ⟨.RME_ADMCQ_BASE, 0xa0, true, 1, 4, .none, [F.RME_ADMCQ_BASE_VA]⟩,
  ⟨.RME_ADMCQ_SHADOW, 0xa8, true, 1, 4, .none, [F.RME_ADMCQ_SHADOW_VA]⟩,
  ⟨.RME_CACHE, 0xb0, false, 1, 4, .none, [F.RME_CACHE_PINNED, F.RME_CACHE_VALID]⟩,
  ⟨.RME_LAST_ERR, 0xb4, false, 1, 4, .none, [F.RME_LAST_ERR_CAUSE, F.RME_LAST_ERR_QPN]⟩,
  ⟨.RME_OPS, 0xb8, true, 1, 4, .none, [F.RME_OPS_COUNT]⟩,
  ⟨.RME_CTX_MISS, 0xc0, false, 1, 4, .none, [F.RME_CTX_MISS_COUNT]⟩,
  ⟨.RME_CTX_WB, 0xc4, false, 1, 4, .none, [F.RME_CTX_WB_COUNT]⟩,
  ⟨.RME_QERR, 0xc8, false, 1, 4, .none, [F.RME_QERR_COUNT]⟩,
  ⟨.RME_CQ_STALL, 0xcc, false, 1, 4, .none, [F.RME_CQ_STALL_COUNT]⟩]

/-- The registers of a ORT page (offsets within the page). -/
def regsOrt : List RegDef := [
  ⟨.ORT_CTRL, 0x80, false, 1, 4, .none, [F.ORT_CTRL_DSCP_CTRL, F.ORT_CTRL_DSCP_DATA, F.ORT_CTRL_ENABLE]⟩,
  ⟨.ORT_UDP_PORT, 0x84, false, 1, 4, .none, [F.ORT_UDP_PORT_PORT]⟩,
  ⟨.ORT_QP_TIMEOUT, 0x88, false, 1, 4, .none, [F.ORT_QP_TIMEOUT_CREDIT_WAIT, F.ORT_QP_TIMEOUT_RETRY_LIMIT]⟩,
  ⟨.ORT_CONN_WAIT, 0x8c, false, 1, 4, .none, [F.ORT_CONN_WAIT_MS]⟩,
  ⟨.ORT_PORT_SEL, 0x90, false, 1, 4, .none, [F.ORT_PORT_SEL_PORT]⟩,
  ⟨.ORT_ADDR, 0x94, false, 4, 4, .ortPort, [F.ORT_ADDR_ADDR]⟩,
  ⟨.ORT_ADDR_V4, 0xa4, false, 1, 4, .ortPort, [F.ORT_ADDR_V4_ADDR]⟩,
  ⟨.ORT_ADDR_CFG, 0xa8, false, 1, 4, .ortPort, [F.ORT_ADDR_CFG_V4_VALID, F.ORT_ADDR_CFG_V6_VALID]⟩,
  ⟨.ORT_QP_SEL, 0xb0, false, 1, 4, .none, [F.ORT_QP_SEL_QPN]⟩,
  ⟨.ORT_QP_STATE, 0xb4, false, 1, 4, .ortQp, [F.ORT_QP_STATE_CAUSE, F.ORT_QP_STATE_COLD, F.ORT_QP_STATE_RETRIES, F.ORT_QP_STATE_STATE]⟩,
  ⟨.ORT_QP_RTT, 0xb8, false, 1, 4, .ortQp, [F.ORT_QP_RTT_SRTT, F.ORT_QP_RTT_RTO]⟩,
  ⟨.ORT_TX_PKTS, 0xc0, true, 1, 4, .none, [F.ORT_TX_PKTS_COUNT]⟩,
  ⟨.ORT_RX_PKTS, 0xc8, true, 1, 4, .none, [F.ORT_RX_PKTS_COUNT]⟩,
  ⟨.ORT_RETX, 0xd0, false, 1, 4, .none, [F.ORT_RETX_COUNT]⟩,
  ⟨.ORT_TIMEOUTS, 0xd4, false, 1, 4, .none, [F.ORT_TIMEOUTS_COUNT]⟩,
  ⟨.ORT_NAK_TX, 0xd8, false, 1, 4, .none, [F.ORT_NAK_TX_COUNT]⟩,
  ⟨.ORT_DROP, 0xdc, false, 1, 4, .none, [F.ORT_DROP_COUNT]⟩,
  ⟨.ORT_TAG_FAIL, 0xe0, false, 1, 4, .none, [F.ORT_TAG_FAIL_COUNT]⟩,
  ⟨.ORT_CONN_REJ, 0xe4, false, 1, 4, .none, [F.ORT_CONN_REJ_COUNT]⟩]

/-- The registers of a ETH page (offsets within the page). -/
def regsEth0 : List RegDef := [
  ⟨.ETH_STATUS, 0x80, false, 1, 4, .none, [F.ETH_STATUS_PREEMPT_ACTIVE, F.ETH_STATUS_VERIFY, F.ETH_STATUS_CFG_ERR, F.ETH_STATUS_LINK]⟩,
  ⟨.ETH_CTRL, 0x84, false, 1, 4, .none, [F.ETH_CTRL_AN_EN, F.ETH_CTRL_BREAKOUT, F.ETH_CTRL_ENABLE]⟩,
  ⟨.ETH_MAC, 0x88, true, 1, 4, .none, [F.ETH_MAC_ADDR]⟩,
  ⟨.ETH_PFC_CFG, 0x90, false, 1, 4, .none, [F.ETH_PFC_CFG_STORM, F.ETH_PFC_CFG_HEADROOM, F.ETH_PFC_CFG_EN]⟩,
  ⟨.ETH_PFC_STATUS, 0x94, false, 1, 4, .none, [F.ETH_PFC_STATUS_STORM, F.ETH_PFC_STATUS_RX_PAUSED, F.ETH_PFC_STATUS_TX_XOFF]⟩,
  ⟨.ETH_PREEMPT, 0x98, false, 1, 4, .none, [F.ETH_PREEMPT_VERIFY_RESTART, F.ETH_PREEMPT_EN, F.ETH_PREEMPT_EXPRESS]⟩,
  ⟨.ETH_DSCP_MAP, 0xa0, false, 8, 4, .none, [F.ETH_DSCP_MAP_PRIO0, F.ETH_DSCP_MAP_PRIO1, F.ETH_DSCP_MAP_PRIO2, F.ETH_DSCP_MAP_PRIO3, F.ETH_DSCP_MAP_PRIO4, F.ETH_DSCP_MAP_PRIO5, F.ETH_DSCP_MAP_PRIO6, F.ETH_DSCP_MAP_PRIO7]⟩,
  ⟨.ETH_GATE_CTRL, 0xc0, false, 1, 4, .none, [F.ETH_GATE_CTRL_CHANGE, F.ETH_GATE_CTRL_TIMEBASE, F.ETH_GATE_CTRL_ENABLE]⟩,
  ⟨.ETH_GATE_STATUS, 0xc4, false, 1, 4, .none, [F.ETH_GATE_STATUS_PENDING, F.ETH_GATE_STATUS_RESULT, F.ETH_GATE_STATUS_REEVAL_FAIL, F.ETH_GATE_STATUS_BUSY, F.ETH_GATE_STATUS_REASON, F.ETH_GATE_STATUS_INDEX]⟩,
  ⟨.ETH_GATE_BASE, 0xc8, true, 1, 4, .none, [F.ETH_GATE_BASE_BASE]⟩,
  ⟨.ETH_GATE_CYCLE, 0xd0, false, 1, 4, .none, [F.ETH_GATE_CYCLE_CYCLE]⟩,
  ⟨.ETH_GATE_LEN, 0xd4, false, 1, 4, .none, [F.ETH_GATE_LEN_LEN]⟩,
  ⟨.ETH_TMAP_BEAT, 0xe0, true, 1, 4, .none, [F.ETH_TMAP_BEAT_BEAT]⟩,
  ⟨.ETH_TMAP_TIME, 0xe8, true, 1, 4, .none, [F.ETH_TMAP_TIME_TIME]⟩,
  ⟨.ETH_TMAP_RATE, 0xf0, false, 1, 4, .none, [F.ETH_TMAP_RATE_RATE]⟩,
  ⟨.ETH_TMAP_CTRL, 0xf4, false, 1, 4, .none, [F.ETH_TMAP_CTRL_VALID, F.ETH_TMAP_CTRL_COMMIT]⟩,
  ⟨.ETH_SHP_SEL, 0x100, false, 1, 4, .none, [F.ETH_SHP_SEL_INSTANCE]⟩,
  ⟨.ETH_SHP_RATE, 0x104, false, 1, 4, .ethShp, [F.ETH_SHP_RATE_MBPS]⟩,
  ⟨.ETH_SHP_DEPTH, 0x108, false, 1, 4, .ethShp, [F.ETH_SHP_DEPTH_BYTES]⟩,
  ⟨.ETH_SHP_CMD, 0x10c, false, 1, 4, .none, [F.ETH_SHP_CMD_RESULT, F.ETH_SHP_CMD_APPLY]⟩,
  ⟨.ETH_SHP_LEVEL, 0x110, false, 1, 4, .ethShp, [F.ETH_SHP_LEVEL_LEVEL]⟩,
  ⟨.ETH_PPS_CTRL, 0x120, false, 1, 4, .none, [F.ETH_PPS_CTRL_IN_NEW, F.ETH_PPS_CTRL_PORT, F.ETH_PPS_CTRL_TIMEBASE, F.ETH_PPS_CTRL_OUT_EN]⟩,
  ⟨.ETH_PPS_IN, 0x128, true, 1, 4, .none, [F.ETH_PPS_IN_BEAT]⟩,
  ⟨.ETH_CNT_OVF, 0x130, false, 1, 4, .none, [F.ETH_CNT_OVF_OVF]⟩,
  ⟨.ETH_TX_OCTETS, 0x400, true, 1, 8, .none, [F.ETH_TX_OCTETS_COUNT]⟩,
  ⟨.ETH_RX_OCTETS, 0x408, true, 1, 8, .none, [F.ETH_RX_OCTETS_COUNT]⟩,
  ⟨.ETH_TX_FRAMES, 0x410, true, 1, 8, .none, [F.ETH_TX_FRAMES_COUNT]⟩,
  ⟨.ETH_RX_FRAMES, 0x418, true, 1, 8, .none, [F.ETH_RX_FRAMES_COUNT]⟩,
  ⟨.ETH_RX_FCS_ERR, 0x420, true, 1, 8, .none, [F.ETH_RX_FCS_ERR_COUNT]⟩,
  ⟨.ETH_RX_OVERSIZE, 0x428, true, 1, 8, .none, [F.ETH_RX_OVERSIZE_COUNT]⟩]
def regsEth1 : List RegDef := [
  ⟨.ETH_RX_RUNT, 0x430, true, 1, 8, .none, [F.ETH_RX_RUNT_COUNT]⟩,
  ⟨.ETH_RX_OTHER, 0x438, true, 1, 8, .none, [F.ETH_RX_OTHER_COUNT]⟩,
  ⟨.ETH_RX_DROP_BUF, 0x440, true, 1, 8, .none, [F.ETH_RX_DROP_BUF_COUNT]⟩,
  ⟨.ETH_TX_PFC, 0x448, true, 1, 8, .none, [F.ETH_TX_PFC_COUNT]⟩,
  ⟨.ETH_RX_PFC, 0x450, true, 1, 8, .none, [F.ETH_RX_PFC_COUNT]⟩,
  ⟨.ETH_TX_FRAGMENTS, 0x458, true, 1, 8, .none, [F.ETH_TX_FRAGMENTS_COUNT]⟩,
  ⟨.ETH_RX_ASSY_OK, 0x460, true, 1, 8, .none, [F.ETH_RX_ASSY_OK_COUNT]⟩,
  ⟨.ETH_RX_ASSY_ERR, 0x468, true, 1, 8, .none, [F.ETH_RX_ASSY_ERR_COUNT]⟩,
  ⟨.ETH_TX_ABORTED, 0x470, true, 1, 8, .none, [F.ETH_TX_ABORTED_COUNT]⟩,
  ⟨.ETH_GATE_ADMIN, 0x1000, false, 1024, 4, .none, [F.ETH_GATE_ADMIN_ENTRY]⟩,
  ⟨.ETH_GATE_OPER, 0x2000, false, 1024, 4, .none, [F.ETH_GATE_OPER_ENTRY]⟩]
def regsEth : List RegDef := regsEth0 ++ regsEth1

/-- The registers of a CPH page (offsets within the page). -/
def regsCph : List RegDef := [
  ⟨.CPH_STATUS, 0x80, false, 1, 4, .none, [F.CPH_STATUS_HOLD_FREE, F.CPH_STATUS_GCM_FULL]⟩,
  ⟨.CPH_TEST, 0x84, false, 1, 4, .none, [F.CPH_TEST_RESULT, F.CPH_TEST_RUN]⟩,
  ⟨.CPH_GCM_TX_SEG, 0x88, false, 1, 4, .none, [F.CPH_GCM_TX_SEG_COUNT]⟩,
  ⟨.CPH_GCM_RX_SEG, 0x8c, false, 1, 4, .none, [F.CPH_GCM_RX_SEG_COUNT]⟩,
  ⟨.CPH_XTS_SECT, 0x90, false, 1, 4, .none, [F.CPH_XTS_SECT_COUNT]⟩,
  ⟨.CPH_HOLD_PEAK, 0x94, false, 1, 4, .none, [F.CPH_HOLD_PEAK_DRAWS]⟩]

/-- The registers of a KEY page (offsets within the page). -/
def regsKey : List RegDef := [
  ⟨.KEY_SEL, 0x80, false, 1, 4, .none, [F.KEY_SEL_KIND, F.KEY_SEL_SLOT]⟩,
  ⟨.KEY_CMD, 0x84, false, 1, 4, .none, [F.KEY_CMD_CMD]⟩,
  ⟨.KEY_STATUS, 0x88, false, 1, 4, .none, [F.KEY_STATUS_RESULT, F.KEY_STATUS_TWEAK_HI, F.KEY_STATUS_TWEAK_LO, F.KEY_STATUS_WORDS]⟩,
  ⟨.KEY_INFO, 0x8c, false, 1, 4, .none, [F.KEY_INFO_STATE, F.KEY_INFO_TX_BOUND, F.KEY_INFO_BOUND, F.KEY_INFO_OWNER]⟩,
  ⟨.KEY_TWEAK, 0x90, true, 1, 4, .none, [F.KEY_TWEAK_TWEAK_BASE]⟩,
  ⟨.KEY_SECTOR, 0x98, false, 1, 4, .none, [F.KEY_SECTOR_SIZE]⟩,
  ⟨.KEY_DATA, 0xc0, false, 16, 4, .none, [F.KEY_DATA_DATA]⟩]

/-- The registers of a HST page (offsets within the page). -/
def regsHst : List RegDef := [
  ⟨.HST_STATUS, 0x80, false, 1, 4, .none, [F.HST_STATUS_BAR4_FULL, F.HST_STATUS_CXL_MEM, F.HST_STATUS_FLIT, F.HST_STATUS_WIDTH, F.HST_STATUS_SPEED, F.HST_STATUS_LINK_UP]⟩,
  ⟨.HST_WIN_BASE, 0x88, true, 1, 4, .none, [F.HST_WIN_BASE_BASE]⟩,
  ⟨.HST_P2P_SEL, 0x90, false, 1, 4, .none, [F.HST_P2P_SEL_WINDOW]⟩,
  ⟨.HST_P2P_BASE, 0x98, true, 1, 4, .p2p, [F.HST_P2P_BASE_BASE]⟩,
  ⟨.HST_P2P_CTRL, 0xa0, false, 1, 4, .p2p, [F.HST_P2P_CTRL_PROBE, F.HST_P2P_CTRL_VALID, F.HST_P2P_CTRL_LOG2]⟩,
  ⟨.HST_P2P_STATUS, 0xa4, false, 1, 4, .p2p, [F.HST_P2P_STATUS_LAST_CPL, F.HST_P2P_STATUS_STATE]⟩,
  ⟨.HST_MB_H2R, 0xb0, false, 1, 4, .none, [F.HST_MB_H2R_CONS, F.HST_MB_H2R_PROD]⟩,
  ⟨.HST_MB_R2H, 0xb4, false, 1, 4, .none, [F.HST_MB_R2H_CONS, F.HST_MB_R2H_PROD]⟩,
  ⟨.HST_MB_CTRL, 0xb8, false, 1, 4, .none, [F.HST_MB_CTRL_MB_ERR, F.HST_MB_CTRL_IRQ_EN]⟩,
  ⟨.HST_CPL_TIMEOUT, 0xc0, false, 1, 4, .none, [F.HST_CPL_TIMEOUT_COUNT]⟩,
  ⟨.HST_CPL_ERR, 0xc4, false, 1, 4, .none, [F.HST_CPL_ERR_COUNT]⟩,
  ⟨.HST_POISON_RX, 0xc8, false, 1, 4, .none, [F.HST_POISON_RX_COUNT]⟩,
  ⟨.HST_P2P_DROP, 0xcc, false, 1, 4, .none, [F.HST_P2P_DROP_COUNT]⟩,
  ⟨.HST_FLR, 0xd0, false, 1, 4, .none, [F.HST_FLR_PF, F.HST_FLR_VF]⟩,
  ⟨.HST_MB_SLOT, 0x1000, false, 512, 4, .none, [F.HST_MB_SLOT_WORD]⟩]

/-- The registers of a INS page (offsets within the page). -/
def regsIns : List RegDef := [
  ⟨.INS_STATUS, 0x80, false, 1, 4, .none, [F.INS_STATUS_CFG_ERR, F.INS_STATUS_VF_PRESENT, F.INS_STATUS_STATE]⟩,
  ⟨.INS_CTRL, 0x84, false, 1, 4, .none, [F.INS_CTRL_RESET, F.INS_CTRL_ENABLE]⟩,
  ⟨.INS_QUOTA_Q, 0x88, false, 1, 4, .none, [F.INS_QUOTA_Q_QUEUES]⟩,
  ⟨.INS_QUOTA_QP, 0x8c, false, 1, 4, .none, [F.INS_QUOTA_QP_QPS]⟩,
  ⟨.INS_QUOTA_KEY, 0x90, false, 1, 4, .none, [F.INS_QUOTA_KEY_XTS, F.INS_QUOTA_KEY_GCM]⟩,
  ⟨.INS_USE, 0x94, false, 1, 4, .none, [F.INS_USE_KEYS, F.INS_USE_QUEUES]⟩,
  ⟨.INS_USE_QP, 0x98, false, 1, 4, .none, [F.INS_USE_QP_QPS]⟩,
  ⟨.INS_ADMQ_BASE, 0xa0, true, 1, 4, .none, [F.INS_ADMQ_BASE_VA]⟩,
  ⟨.INS_ADMQ_CFG, 0xa8, false, 1, 4, .none, [F.INS_ADMQ_CFG_VECTOR, F.INS_ADMQ_CFG_CQ_LOG2, F.INS_ADMQ_CFG_Q_LOG2]⟩,
  ⟨.INS_ADMCQ_BASE, 0xb0, true, 1, 4, .none, [F.INS_ADMCQ_BASE_VA]⟩,
  ⟨.INS_ADMCQ_SHADOW, 0xb8, true, 1, 4, .none, [F.INS_ADMCQ_SHADOW_VA]⟩,
  ⟨.INS_ADMQ_CTRL, 0xc0, false, 1, 4, .none, [F.INS_ADMQ_CTRL_ADMQ_ERR, F.INS_ADMQ_CTRL_ADMQ_EN]⟩,
  ⟨.INS_APT, 0xc8, true, 1, 4, .none, [F.INS_APT_VA]⟩,
  ⟨.INS_MB_H2R, 0xd0, false, 1, 4, .none, [F.INS_MB_H2R_CONS, F.INS_MB_H2R_PROD]⟩,
  ⟨.INS_MB_R2H, 0xd4, false, 1, 4, .none, [F.INS_MB_R2H_CONS, F.INS_MB_R2H_PROD]⟩,
  ⟨.INS_MB_CTRL, 0xd8, false, 1, 4, .none, [F.INS_MB_CTRL_MB_ERR, F.INS_MB_CTRL_IRQ_EN]⟩,
  ⟨.INS_RESET_STAT, 0xe0, false, 1, 4, .none, [F.INS_RESET_STAT_CAUSE, F.INS_RESET_STAT_SQUASHED, F.INS_RESET_STAT_QPS_NOTICED, F.INS_RESET_STAT_DURATION]⟩,
  ⟨.INS_MB_SLOT, 0x1000, false, 512, 4, .none, [F.INS_MB_SLOT_WORD]⟩]

/-- The registers of a FWC page (offsets within the page). -/
def regsFwc : List RegDef := [
  ⟨.FWC_STATUS, 0x80, false, 1, 4, .none, [F.FWC_STATUS_PHASE, F.FWC_STATUS_RUN_BANK, F.FWC_STATUS_FALLBACK, F.FWC_STATUS_BUSY, F.FWC_STATUS_UPDATE]⟩,
  ⟨.FWC_CMD, 0x84, false, 1, 4, .none, [F.FWC_CMD_CMD]⟩,
  ⟨.FWC_RESULT, 0x88, false, 1, 4, .none, [F.FWC_RESULT_CODE]⟩,
  ⟨.FWC_SRC, 0x90, true, 1, 4, .none, [F.FWC_SRC_ADDR]⟩,
  ⟨.FWC_LEN, 0x98, false, 1, 4, .none, [F.FWC_LEN_BYTES]⟩,
  ⟨.FWC_FLASH_ADDR, 0x9c, false, 1, 4, .none, [F.FWC_FLASH_ADDR_PAGE]⟩,
  ⟨.FWC_BANK_A_VER, 0xa0, false, 1, 4, .none, [F.FWC_BANK_A_VER_FW_VER]⟩,
  ⟨.FWC_BANK_B_VER, 0xa4, false, 1, 4, .none, [F.FWC_BANK_B_VER_FW_VER]⟩,
  ⟨.FWC_BOOT, 0xa8, false, 1, 4, .none, [F.FWC_BOOT_SVN_MIN, F.FWC_BOOT_ATTEMPTS, F.FWC_BOOT_TRIAL, F.FWC_BOOT_ACTIVE]⟩,
  ⟨.FWC_HANDOFF_BELL, 0xb0, true, 1, 4, .none, [F.FWC_HANDOFF_BELL_BELL]⟩,
  ⟨.FWC_GAP, 0xb8, false, 1, 4, .none, [F.FWC_GAP_HREC, F.FWC_GAP_DURATION]⟩,
  ⟨.FWC_CORE_SEL, 0xc0, false, 1, 4, .none, [F.FWC_CORE_SEL_CORE]⟩,
  ⟨.FWC_CORE, 0xc4, false, 1, 4, .fwcCore, [F.FWC_CORE_EXPIRIES, F.FWC_CORE_WD_MS, F.FWC_CORE_DUTY_LOST, F.FWC_CORE_STATE]⟩,
  ⟨.FWC_GOV, 0xd0, false, 1, 4, .none, [F.FWC_GOV_TJ_MAX, F.FWC_GOV_RAIL, F.FWC_GOV_CURRENT, F.FWC_GOV_THERMAL, F.FWC_GOV_POWER, F.FWC_GOV_SKIPPING]⟩,
  ⟨.FWC_POWER, 0xd8, false, 1, 4, .none, [F.FWC_POWER_WATTS]⟩,
  ⟨.FWC_GOV_SKIP, 0xe0, true, 1, 4, .none, [F.FWC_GOV_SKIP_CYCLES]⟩,
  ⟨.FWC_SET_BUF, 0x400, false, 64, 4, .none, [F.FWC_SET_BUF_WORD]⟩,
  ⟨.FWC_PAGE, 0x1000, false, 1024, 4, .none, [F.FWC_PAGE_DATA]⟩]

/-- The registers of a FLT page (offsets within the page). -/
def regsFlt : List RegDef := [
  ⟨.FLT_SUMMARY, 0x80, false, 1, 4, .none, [F.FLT_SUMMARY_GROUPS]⟩,
  ⟨.FLT_SEVERE_SUM, 0x84, false, 1, 4, .none, [F.FLT_SEVERE_SUM_GROUPS]⟩,
  ⟨.FLT_CTRL, 0x88, false, 1, 4, .none, [F.FLT_CTRL_IRQ_EN]⟩,
  ⟨.FLT_SRC_SEL, 0x8c, false, 1, 4, .none, [F.FLT_SRC_SEL_SOURCE]⟩,
  ⟨.FLT_SRC_CFG, 0x90, false, 1, 4, .fltSrc, [F.FLT_SRC_CFG_CLASS, F.FLT_SRC_CFG_FIXED, F.FLT_SRC_CFG_W, F.FLT_SRC_CFG_N]⟩,
  ⟨.FLT_SRC_COUNT, 0x94, false, 1, 4, .fltSrc, [F.FLT_SRC_COUNT_COUNT]⟩,
  ⟨.FLT_SRC_WINDOW, 0x98, false, 1, 4, .fltSrc, [F.FLT_SRC_WINDOW_SUM]⟩,
  ⟨.FLT_INST_SEL, 0xa0, false, 1, 4, .none, [F.FLT_INST_SEL_INSTANCE]⟩,
  ⟨.FLT_INST_CAUSE, 0xa4, false, 1, 4, .fltInst, [F.FLT_INST_CAUSE_CAUSE]⟩,
  ⟨.FLT_TWIN_CTRL, 0xb0, false, 1, 4, .none, [F.FLT_TWIN_CTRL_MIRROR_ERR, F.FLT_TWIN_CTRL_RECOVER_HOLD, F.FLT_TWIN_CTRL_MIRROR]⟩,
  ⟨.FLT_TWIN_CMD, 0xb4, false, 1, 4, .none, [F.FLT_TWIN_CMD_CMD]⟩,
  ⟨.FLT_TWIN_STATUS, 0xb8, false, 1, 4, .none, [F.FLT_TWIN_STATUS_RESULT, F.FLT_TWIN_STATUS_PARTNER, F.FLT_TWIN_STATUS_TWIN_READY, F.FLT_TWIN_STATUS_MIRROR_SYNC, F.FLT_TWIN_STATUS_FALLOW_PEER, F.FLT_TWIN_STATUS_FAILED, F.FLT_TWIN_STATUS_STATE]⟩,
  ⟨.FLT_TWIN_BELL, 0xc0, true, 1, 4, .none, [F.FLT_TWIN_BELL_BELL]⟩,
  ⟨.FLT_TWIN_OFS, 0xc8, true, 1, 4, .none, [F.FLT_TWIN_OFS_OFS]⟩,
  ⟨.FLT_TWIN_COPY, 0xd0, false, 1, 4, .none, [F.FLT_TWIN_COPY_MIB]⟩,
  ⟨.FLT_HB_MISSED, 0xd4, false, 1, 4, .none, [F.FLT_HB_MISSED_COUNT]⟩,
  ⟨.FLT_SNAP_INFO, 0xe0, false, 1, 4, .none, [F.FLT_SNAP_INFO_VALID, F.FLT_SNAP_INFO_KA_LOST]⟩,
  ⟨.FLT_SNAP_TIME, 0xe8, true, 1, 4, .none, [F.FLT_SNAP_TIME_SECONDS]⟩,
  ⟨.FLT_STATUS, 0x400, false, 32, 4, .none, [F.FLT_STATUS_STATUS]⟩,
  ⟨.FLT_SEVERE, 0x480, false, 32, 4, .none, [F.FLT_SEVERE_SEVERE]⟩,
  ⟨.FLT_FORCE, 0x500, false, 32, 4, .none, [F.FLT_FORCE_FORCE]⟩,
  ⟨.FLT_ENABLE, 0x580, false, 32, 4, .none, [F.FLT_ENABLE_ENABLE]⟩,
  ⟨.FLT_SNAP, 0x600, false, 32, 4, .none, [F.FLT_SNAP_STATUS]⟩]

/-- The registers of a MGT page (offsets within the page). -/
def regsMgt : List RegDef := [
  ⟨.MGT_STATUS, 0x80, false, 1, 4, .none, [F.MGT_STATUS_GP_CFG_ERR, F.MGT_STATUS_SMB_PEC, F.MGT_STATUS_SMB_FORMAT, F.MGT_STATUS_SMB_VIOL, F.MGT_STATUS_SPI_BADCMD, F.MGT_STATUS_SPI_SHORT, F.MGT_STATUS_SPI_PARTIAL, F.MGT_STATUS_SPI_VIOL]⟩,
  ⟨.MGT_GP_FUNC0, 0x84, false, 1, 4, .none, [F.MGT_GP_FUNC0_FUNC0, F.MGT_GP_FUNC0_FUNC1, F.MGT_GP_FUNC0_FUNC2, F.MGT_GP_FUNC0_FUNC3, F.MGT_GP_FUNC0_FUNC4, F.MGT_GP_FUNC0_FUNC5, F.MGT_GP_FUNC0_FUNC6, F.MGT_GP_FUNC0_FUNC7]⟩,
  ⟨.MGT_GP_FUNC1, 0x88, false, 1, 4, .none, [F.MGT_GP_FUNC1_FUNC0, F.MGT_GP_FUNC1_FUNC1, F.MGT_GP_FUNC1_FUNC2, F.MGT_GP_FUNC1_FUNC3, F.MGT_GP_FUNC1_FUNC4, F.MGT_GP_FUNC1_FUNC5, F.MGT_GP_FUNC1_FUNC6, F.MGT_GP_FUNC1_FUNC7]⟩,
  ⟨.MGT_GP_PULL, 0x8c, false, 1, 4, .none, [F.MGT_GP_PULL_PULL0, F.MGT_GP_PULL_PULL1, F.MGT_GP_PULL_PULL2, F.MGT_GP_PULL_PULL3, F.MGT_GP_PULL_PULL4, F.MGT_GP_PULL_PULL5, F.MGT_GP_PULL_PULL6, F.MGT_GP_PULL_PULL7, F.MGT_GP_PULL_PULL8, F.MGT_GP_PULL_PULL9, F.MGT_GP_PULL_PULL10, F.MGT_GP_PULL_PULL11, F.MGT_GP_PULL_PULL12, F.MGT_GP_PULL_PULL13, F.MGT_GP_PULL_PULL14, F.MGT_GP_PULL_PULL15]⟩,
  ⟨.MGT_GP_OE, 0x90, false, 1, 4, .none, [F.MGT_GP_OE_OE]⟩,
  ⟨.MGT_GP_OUT, 0x94, false, 1, 4, .none, [F.MGT_GP_OUT_OUT]⟩,
  ⟨.MGT_GP_IN, 0x98, false, 1, 4, .none, [F.MGT_GP_IN_CHG, F.MGT_GP_IN_IN]⟩,
  ⟨.MGT_COOLANT_T, 0xa0, false, 1, 4, .none, [F.MGT_COOLANT_T_OUTLET, F.MGT_COOLANT_T_INLET]⟩,
  ⟨.MGT_COOLANT_F, 0xa4, false, 1, 4, .none, [F.MGT_COOLANT_F_LID, F.MGT_COOLANT_F_LEAK, F.MGT_COOLANT_F_FLOW]⟩,
  ⟨.MGT_INPUT, 0xa8, false, 1, 4, .none, [F.MGT_INPUT_CURRENT, F.MGT_INPUT_VOLTAGE]⟩,
  ⟨.MGT_RTC, 0xb0, true, 1, 4, .none, [F.MGT_RTC_SECONDS]⟩,
  ⟨.MGT_KA_ALARM, 0xb8, false, 1, 4, .none, [F.MGT_KA_ALARM_LATCHED, F.MGT_KA_ALARM_ACKED, F.MGT_KA_ALARM_CAUSE, F.MGT_KA_ALARM_COUNT]⟩,
  ⟨.MGT_KA_TIME, 0xc0, true, 1, 4, .none, [F.MGT_KA_TIME_SECONDS]⟩,
  ⟨.MGT_KA_ACK, 0xc8, false, 1, 4, .none, [F.MGT_KA_ACK_KEY, F.MGT_KA_ACK_ACK]⟩]

/-- The registers of a RST page (offsets within the page). -/
def regsRst : List RegDef := [
  ⟨.RST_CMD, 0x80, false, 1, 4, .none, [F.RST_CMD_KEY, F.RST_CMD_CMD]⟩,
  ⟨.RST_CAUSE, 0x84, false, 1, 4, .none, [F.RST_CAUSE_COUNT, F.RST_CAUSE_CAUSE]⟩,
  ⟨.RST_CORE_SEL, 0x88, false, 1, 4, .none, [F.RST_CORE_SEL_CORE]⟩,
  ⟨.RST_CORE, 0x8c, false, 1, 4, .none, [F.RST_CORE_RESET]⟩]

end Sys2Proof.Machine
end

