-- ==== Sys2Proof/Machine/State.lean ====
section
/-!
DEFINITION. Machine/State.lean: the state of the module as plain data, and the state right after reset.
-/
namespace Sys2Proof.Machine

/-- A sparse map from numbers, kept as pairs with rising keys. -/
abbrev Table (α : Type) := List (Nat × α)

/-- A range [lo, hi) of a memory whose unlisted bytes have no defined content; `tag` tells one occasion from another. -/
structure URange where
  lo : Nat
  hi : Nat
  tag : Nat
  deriving DecidableEq, Repr

/-- A byte memory: listed bytes with rising addresses, ranges of undefined content, and the poisoned 64-byte words (R137, R138). -/
structure Mem where
  cells : List Host.Cell := []
  undef : List URange := []
  poison : List Nat := []
  deriving DecidableEq, Repr

/-- The reasons a step can stop with a fault: none, since every command of the module has an effect. -/
inductive Fault
  deriving DecidableEq, Repr

/-- The reasons a step can be refused. -/
inductive Refusal
  /-- Raised by an arm of `exec` for a command that has no meaning yet. Safe: nothing is claimed of that command. -/
  | notModelled (mnemonic : String)
  deriving DecidableEq, Repr

/-- Ordering variants (R1). -/
inductive Variant | f | r | g
  deriving DecidableEq, Repr

/-- GLB_STATE.MODULE_STATE (R54); OFF never reads there. -/
inductive ModState | off | keepalive | booting | refused | ready | running | safe
  deriving DecidableEq, Repr

/-- Operating modes (R18). -/
inductive Mode | full | balanced | linkFirst | quiet
  deriving DecidableEq, Repr

/-- A requester's read or write latch (R39, R40): the pair's byte address within BAR0 and one word. -/
structure Latch where
  pair : Nat
  word : Nat
  deriving DecidableEq, Repr

/-- Fault-source classes (R411). -/
inductive FltClass | note | contain | safe
  deriving DecidableEq, Repr

/-- A fault source (R408–R412); `buckets` holds the 16 window buckets, the current one first. -/
structure Src where
  status : Bool := false
  severe : Bool := false
  force : Bool := false
  enable : Bool := true
  persist : Bool := false
  cls : FltClass := .note
  n : Nat := 1
  w : Nat := 1
  buckets : List Nat := []
  count : Nat := 0
  deriving DecidableEq, Repr

/-- The UDP checksum of a frame (R291). -/
inductive Csum | absent | good | bad
  deriving DecidableEq, Repr

/-- What a frame carries (R310): an RME packet in UDP, an IEEE 802.1AS message, a PFC frame with its quanta by priority, another MAC control
frame, or anything else. -/
inductive EBody
  | ort (v6 : Bool) (dscp sip dip sport dport : Nat) (csum : Csum) (udp : List Byte)
  | as (msg : List Byte)
  | pfc (quanta : List (Nat × Nat))
  | mac
  | other
  deriving DecidableEq, Repr

/-- An Ethernet frame: addresses, tag as (PCP, VLAN), length by the measure of R309, body. -/
structure EFrame where
  dmac : Nat
  smac : Nat
  vlan : Option (Nat × Nat) := none
  len : Nat
  body : EBody
  deriving DecidableEq, Repr

/-- What leaves the module, newest first in `Chip.out`. The field is the model's own (log entry 7): it lets a claim say what was sent. -/
inductive Out
  /-- Data returned for a register read: requester SOURCE, byte address, data. -/
  | readData (src addr data : Nat)
  /-- A PCIe read answered with Completer Abort (R44). -/
  | completerAbort (src addr : Nat)
  /-- A PCIe request answered with Unsupported Request (R350). -/
  | unsupported (src addr : Nat)
  /-- An MSI-X message: function (0 the PF, i + 1 the VF of instance i) and vector. -/
  | msix (fn vector : Nat)
  /-- A VC7 frame enters a slot of a link: COPY, its header's ACK, and message (R202). -/
  | ctl (link copy ack : Nat) (m : CtlMsg)
  /-- A frame of VC0–VC6 begins on a link with its LSEQ and ACK (R204). -/
  | frame (link lseq ack : Nat) (f : LFrame)
  /-- The data symbols of a codeword on a pair of a link (0 A, 1 B): those of its lower and of its upper lane (R194, R195). -/
  | codeword (link pair : Nat) (lower upper : List Nat)
  /-- The bytes of an Ethernet frame that starts on a port and sub-port (R328), and its beat stamp where it is an IEEE 802.1AS event message (R317). -/
  | eth (port sub : Nat) (bytes : List Byte) (stamp : Option Nat)
  /-- The frame in transmission on a port and sub-port is ended (R329). -/
  | ethAbort (port sub : Nat)
  /-- The answer to a host or aperture read of device memory: the path (0 PF BAR4, i + 1 the aperture of instance i, 0x400 CXL.mem), address, bytes
  with their poison (R138). -/
  | memData (path addr : Nat) (data : List (Byte × Bool))
  /-- A successful completion of a configuration request (R382). -/
  | configDone
  /-- A Device Readiness Status message (R382). -/
  | readiness
  /-- A read request to the host or a peer device with a function's routing ID (R363). -/
  | hostRead (fn addr len : Nat)
  /-- What a sideband target returns: SOURCE and the value (R444, R447). -/
  | sideband (src data : Nat)
  deriving DecidableEq, Repr

/-! ### Memory and translation (chapter Loft, Crib, Granary and Address Translation) -/

/-- Where a slice of an allotment is (R131–R133): of an instance not placed yet and all zero, in a physical slice, or in its spill region; of the stead
allotment without a physical slice, its content undefined under a tag. -/
inductive SliceLoc | blank | resident (p : Nat) | spilled | unheld (tag : Nat)
  deriving DecidableEq, Repr

/-- Requesters with a translation cache of their own (R152, R164): thresher unit and mover, combine engine, RME. -/
inductive Engine | thresher | combine | rme
  deriving DecidableEq, Repr

/-- A training-cache entry in flash (R141): module serial, die stepping, training-algorithm revision. -/
structure TrainEnt where
  serial : Nat
  step : Nat
  rev : Nat
  deriving DecidableEq, Repr

/-- Why a training under way must be full: RETURN (R142), or FORCE_FULL at this boot (R141). -/
inductive TrainWhy | ret | forced
  deriving DecidableEq, Repr

/-- A translation-cache entry (R148): the table entry `pte` that level `level` of `space` holds for the addresses whose bits above the
level's page equal `idx`; `pin` for READ_MOSTLY. -/
structure XEnt where
  space : Nat
  level : Nat
  idx : Nat
  pte : Nat
  pin : Bool
  deriving DecidableEq, Repr

/-- Who waits for a translation (R154): an almanac entry, a send-queue entry of a queue pair, an inbound packet of one, a ring of a queue. -/
inductive Waiter
  | entry (ctx idx : Nat)
  | sqe (qpn : Nat)
  | inbound (qpn : Nat)
  | ring (qid : Nat)
  | none
  deriving DecidableEq, Repr

/-- A walk in flight (R148): `stale` once an invalidate covering it is accepted. -/
structure Walk where
  space : Nat
  va : Nat
  acs : Acs
  requester : Nat
  stall : Bool
  waiter : Waiter
  stale : Bool := false
  deriving DecidableEq, Repr

/-- A fault request or notice (R155); `id` and `written` are set when it is written to the ring. -/
structure FReq where
  va : Nat
  acs : Acs
  cause : Nat
  stalled : Bool
  requester : Nat
  level : Nat
  count : Nat
  beat : Nat
  pages : Nat := 0
  kind : Nat := 0
  ntier : Nat := 0
  joined : List Waiter := []
  id : Nat := 0
  written : Nat := 0
  deriving DecidableEq, Repr

/-- The ADVISE hints of a range of 64 KiB pages [lo, hi) (R164). -/
structure Hint where
  lo : Nat
  hi : Nat
  readMostly : Bool := false
  pref : Option Tier := none
  by3 : Nat := 0
  wnn : Bool := false
  deriving DecidableEq, Repr

/-- What a space holds beside its registers: pending messages not yet written and requests awaiting a reply, at most 64; the messages that wait on chip
for a place among them (R157); hints, POOL_LOW notices sent (R154–R164). -/
structure Space where
  nextId : Nat := 0
  queue : List FReq := []
  opened : List FReq := []
  waiting : List FReq := []
  hints : List Hint := []
  lowSent : List Nat := []
  deriving DecidableEq, Repr

/-- An accepted invalidate (R152): the whole space, or 64 KiB pages [lo, lo + pages). -/
structure Inval where
  seq : Nat
  space : Nat
  all : Bool
  lo : Nat
  pages : Nat
  deriving DecidableEq, Repr

/-- A PREFETCH in progress (R161, R162): `dest` none is PREFERRED, `slot` its place in the owner's admin queue, `waiting` for frames. -/
structure Prefetch where
  space : Nat
  va : Nat
  pages : Nat
  next : Nat
  dest : Option Tier
  slot : Nat
  started : Nat
  waiting : Bool
  deriving DecidableEq, Repr

/-! ### Almanacs (chapter Almanacs, the Sequencer and the Thresher) -/

/-- States of an almanac context (R75). -/
inductive AlmState | empty | loaded | admitted | running | held | done | refused
  deriving DecidableEq, Repr

/-- The fields of a HEAD entry (R62). -/
structure Head where
  kind : Nat
  modes : Nat
  headland : Nat
  loftSlices : Nat
  entryCount : Nat
  seed : Nat
  modules : Nat
  id : Nat
  pairId : Nat
  deriving DecidableEq, Repr

/-- An open frame of an almanac (R64), the latest first in `Ctx.frames`: its first beat; for a LOOP body the entry, length, count, period and
iteration; `body` 0 is the top level, whose first entry follows `loopIdx`, a BELL_WAIT or HEAD. In a stead or fallow almanac `passed` lists the entries
of the frame that have issued in this iteration. -/
structure Frame where
  origin : Nat
  loopIdx : Nat := 0
  body : Nat := 0
  count : Nat := 1
  period : Nat := 0
  iter : Nat := 0
  passed : List Nat := []
  deriving DecidableEq, Repr

/-- An entry that has issued and whose work has not ended (R63–R66, R187): its words, those of the UPDX after it, its operands' descriptors as
words, ALM_STEP at issue, beats; `stall` while it waits for a fault reply, `fail` once a translation of it failed, `late` once LATE was raised;
the translations it holds pinned (R149); the wire bytes a tick that admission reserved for its slot (R19); that it works for the lost position alone
(R423); once its work is done, the mirror frames
of that work by link (R420). -/
structure Issued where
  idx : Nat
  words : List Nat
  upd : List Nat
  descs : List (List Nat)
  step : Nat
  issue : Nat
  slotEnd : Nat
  occEnd : Nat
  stall : Bool := false
  fail : Bool := false
  late : Bool := false
  pins : List XEnt := []
  wire : Nat := 0
  lone : Bool := false
  sent : Option (List (Nat × LFrame)) := none
  deriving DecidableEq, Repr

/-- Which admission runs in a context (R75, R76): an ADMIT, a re-admission of an ADMITTED almanac, the running test, or the
running test that an ADMIT of a HELD almanac asks for. -/
inductive AdmKind | first | again | running | rerun
  deriving DecidableEq, Repr

/-- An almanac context (R59) beside its registers: the HEAD it holds, progress through the table, and what is pending for it: a start bell,
the bell of a BELL_WAIT, a STOP, a failed running test, an admission with what it found (R78) and one that must follow it; entries in flight and
entries cached; XTS slots its MOVE entries name since admission (R333); the most triggered operations one of its combines needs (R242). -/
structure Ctx where
  st : AlmState := .empty
  head : Option Head := none
  next : Nat := 1
  frames : List Frame := []
  startBell : Option Nat := none
  bellWait : Option Nat := none
  stopReq : Option Nat := none
  failHold : Bool := false
  adm : Option AdmKind := none
  admAgain : Bool := false
  admWhy : Option (Nat × Nat) := none
  admHead : Option Head := none
  inFlight : List Issued := []
  cached : Table (List Nat × List XEnt) := []
  lastIssued : Nat := 0
  started : Bool := false
  ready : Nat := 0
  xts : List Nat := []
  ops : Nat := 0
  deriving DecidableEq, Repr

/-! ### The thresher (R83–R90) -/

/-- Shift settings of an instance (R84). -/
structure ShiftSet where
  share : Nat := 0
  priority : Nat := 0
  quantum : Nat := 50
  stage : Nat := 20
  deriving DecidableEq, Repr

/-- The shift in progress (R85, R86): its instance, the beat its switch began, the beat entries may issue from, the beat it ends at, and the
slices still to restore before it starts. -/
structure Shift where
  inst : Nat
  start : Nat
  go : Nat
  stop : Nat
  restore : List Nat := []
  deriving DecidableEq, Repr

/-- The thresher unit beside the THR registers: active settings, settings admitted and not yet active, the set under admission, the shift, the
end of an OPEN_SHIFT window, share credit by instance in 1/1,024 beat, end of the last shift by instance, slices awaiting their spill. -/
structure Thr where
  active : Table ShiftSet := []
  admitted : Option (Table ShiftSet) := none
  applying : Option (Table ShiftSet) := none
  shift : Option Shift := none
  window : Option Nat := none
  credit : Table Int := []
  creditAt : Nat := 0
  lastEnd : Table Nat := []
  lastInst : Option Nat := none
  spills : List (Nat × Nat) := []
  deriving DecidableEq, Repr

/-! ### Combines (chapter Combines) -/

/-- What of a sheaf the engine assembles outside the ring (R246, R250): anchor codes, or a result of AR on its way to D, by tag and the module it comes
from; frames placed as (index, bytes). -/
structure SheafIn where
  level : Nat
  who : Nat
  frames : List (Nat × List Byte) := []
  deriving DecidableEq, Repr

/-- States of a sheaf slot (R239). -/
inductive SlotSt where
  | free | filling | ready | held
  deriving DecidableEq, Repr

/-- A sheaf slot that is not FREE (R239): the position and sheaf it serves; `tag`, what it holds: 1–3 an input of that level, 0 a contribution or
partial on its way out or a block of an A2A, 8 a gathered, broadcast or staged sheaf, 16 a sheaf to relay; the module it comes from; its arrival count
as the frames placed; the sends made from it, as (module, level, down); and that only their acknowledgement is outstanding. -/
structure RingSlot where
  st : SlotSt
  pos : Nat
  g : Nat
  tag : Nat
  who : Nat
  frames : List Nat := []
  sends : List (Nat × Nat × Bool) := []
  spent : Bool := false
  deriving DecidableEq, Repr

/-- A sheaf's chain (R241) at tree position `pos`: what has fired, anchor codes by (level, module), the anchors, what arrives outside the ring, further
contribution units, the levels with a window place (R240), the level on a floor, the result (FP32 words or 64-bit integers; none a NaN), a result of AR
that goes down and the level it came from, the sends that wait for a grant or a slot, the modules to grant, and those whose blocks were relayed. -/
structure Chain where
  pos : Nat
  g : Nat
  produced : Bool := false
  anchored : Bool := false
  codes : List (Nat × Nat × List Nat) := []
  anchors : Option (List Nat) := none
  ins : List SheafIn := []
  units : List (List Byte) := []
  win : List Nat := []
  floor : Option Nat := none
  result : Option (List (Option Nat)) := none
  rooted : Bool := false
  reducedLv : List Nat := []
  down : Bool := false
  downData : List Byte := []
  downFrom : Nat := 0
  downDone : Bool := false
  waiting : List (Nat × Nat × Bool) := []
  ungranted : List (Nat × Nat) := []
  relayed : List Nat := []
  sent : Bool := false
  deriving DecidableEq, Repr

/-- A sheaf the array has consumed (R246, R247): its position and number, its elements and its scales as they were read from the ring. -/
structure Eaten where
  pos : Nat
  g : Nat
  who : Nat
  elems : List (Byte × Bool)
  scales : List (Byte × Bool)
  deriving DecidableEq, Repr

/-- A combine in progress on a channel (R229): the slots of its ring that are not FREE, ascending; the beat since which the riddle has waited for one;
that it works for the lost position alone (R423); the sheaves the array has consumed; and mirrored writes that the twin has not placed. -/
structure Combine where
  ctx : Nat
  idx : Nat
  words : List Nat
  upd : List Nat
  descs : List (List Nat)
  group : List Nat
  ring : List Nat
  chaff : List Nat
  step : Nat
  slots : List (Nat × RingSlot) := []
  chains : List Chain := []
  grants : List (Nat × Nat × Nat) := []
  waitFrom : Option Nat := none
  lone : Bool := false
  eaten : List Eaten := []
  mirror : List (Nat × LFrame) := []
  lastProgress : Nat := 0
  pins : List XEnt := []
  deriving DecidableEq, Repr

/-- A level-3 message for ORT (R245): the peer stead, the frame's TYPE, FLOW and CTX, its payload. -/
structure XsMsg where
  stead : Nat
  typ : Nat
  flow : Nat
  ctx : Nat
  payload : List Byte
  deriving DecidableEq, Repr

/-! ### Links (chapter Agarain Links) -/

/-- A control message that waits for a CONTROL slot: its copy, and the slot count before which it is not sent (R203). -/
structure CtlEnt where
  msg : CtlMsg
  copy : Nat
  notBefore : Nat
  deriving DecidableEq, Repr

/-- A frame in the replay buffer (R204, R206): its LSEQ, times replayed, beat of its latest transmission, and for a forwarded frame the
link it came in on (R208). -/
structure RFrame where
  lseq : Nat
  frame : LFrame
  origin : Option Nat
  replays : Nat
  sent : Nat
  deriving DecidableEq, Repr

/-- An accepted frame in the receive buffer (R208): `placed` once its client has taken it, `forward` while it is forwarded. -/
structure RxFrame where
  frame : LFrame
  placed : Bool
  forward : Bool
  old : Bool := false
  deriving DecidableEq, Repr

/-- A link restore in progress (R222): its start, whether this end asked, which ends have the pair locked, the join bell. -/
structure Restore where
  start : Nat
  own : Bool
  here : Bool := false
  there : Bool := false
  join : Option Nat := none
  deriving DecidableEq, Repr

/-- What a link holds beside its registers. `cur` is the flits still to send of the frame in transmission, `fill` the slots of the codeword being
filled and `nextB` whether it goes to pair B while both pairs are used, `weights` the round-robin weights of the round in progress (R211, R225),
`mirrorOut` the twin's mirror frames not known to be placed with USED after each (R420), `seenCopy` the messages whose COPY 0 has come with the beat it
came (R203), `resend` the LSEQs to replay,
`uncorr` the uncorrectable codewords as (pair, codeword number), `expectPeer` AGL_EXPECT as the last PEER_CHECK took it, `good` the pairs
locked (1 A, 2 B), `limited` that an end has no position (R217), `toldPos` and `toldQuiet` what this end's last PEER said. -/
structure Link where
  txq : List (LFrame × Option Nat) := []
  ctlq : List CtlEnt := []
  replay : List RFrame := []
  cur : List (List Byte) := []
  fill : List (Nat × List Byte) := []
  nextB : Bool := false
  weights : List Nat := [0, 8, 4, 2, 4, 1, 0]
  mirrorOut : List (LFrame × Nat) := []
  resend : List Nat := []
  expect : Nat := 0
  nakSent : Bool := false
  ackOwed : Bool := false
  ackSlot : Nat := 0
  creditOwed : Bool := false
  creditBeat : Nat := 0
  used : List Nat := [0, 0, 0, 0, 0, 0, 0]
  limit : List Nat := [0, 0, 0, 0, 0, 0, 0]
  peerBuf : List Nat := [0, 0, 0, 0, 0, 0, 0]
  freed : List Nat := [0, 0, 0, 0, 0, 0, 0]
  rx : List RxFrame := []
  deficit : List Nat := [0, 0, 0, 0, 0, 0, 0]
  turn : Nat := 1
  slot : Nat := 0
  ctlSlots : List Nat := []
  burst : Nat := 0
  seenCopy : List (CtlMsg × Nat) := []
  peerEpoch : Option Nat := none
  peerSent : Nat := 0
  uncorr : List (Nat × Nat) := []
  expectPeer : Option (Nat × Nat × Nat × Nat) := none
  good : Nat := 0
  limited : Bool := false
  toldPos : Bool := false
  toldQuiet : Bool := false
  changeBell : Option Nat := none
  restore : Option Restore := none
  trainAt : Nat := 0
  failedAt : Nat := 0
  deriving DecidableEq, Repr

/-! ### Stead time (chapter Stead Time: Clocks, Bells and Determinism) -/

/-- Why this module is an origin of a HOLD (R190); a LATE names its context and entry. -/
inductive OwnCause | late (ctx idx : Nat) | reeval (ctx : Nat) | mode | holdover | safe | lost
  deriving DecidableEq, Repr

/-- A hold as its origins and the timekeeper see it (R190): this module's causes, whether it is an origin, the CAUSE and bell of the HOLD it sent and
whether READY is sent; on the timekeeper the origins with their READY, and the beat the last READY arrived. -/
structure HoldPart where
  own : List OwnCause := []
  isOrigin : Bool := false
  cause : Nat := 0
  named : Nat := 0
  readySent : Bool := false
  origins : List (Nat × Bool) := []
  lastReady : Nat := 0
  deriving DecidableEq, Repr

/-- HOLD and RESUME (R188–R191, R454): the hold in force, the hold kept for after the resume bell with its bell, the HOLDs seen as
(ORIGIN, HOLD_BELL), with 256 for the ORIGIN of one first heard in a mark, and the RESUMEs seen as (HOLD_BELL, RESUME_BELL). -/
structure HoldSt where
  bell : Option Nat := none
  held : Bool := false
  resume : Option Nat := none
  now : HoldPart := {}
  later : Option (Nat × HoldPart) := none
  seen : List (Nat × Nat) := []
  seenResume : List (Nat × Nat) := []
  deriving DecidableEq, Repr

/-- The survey of one link in progress (R182): requests awaiting a response as (SEQ, T1), requests sent, twice the delays measured. -/
structure LinkSurvey where
  waiting : List (Nat × Nat) := []
  sent : Nat := 0
  samples : List Int := []
  deriving DecidableEq, Repr

/-- The shape of the stead recorded at a publication (R453). -/
structure Shape where
  seats : List Nat
  ricks : Nat
  ok : Bool
  deriving DecidableEq, Repr

/-- Stead time beside the CLK registers: the lists in force (R192), marks by link, the timekeeper role, surveys, the hold. -/
structure Clk where
  upstreams : List Nat := []
  order : List Nat := [0]
  marks : Table Mark := []
  markBell : Table Nat := []
  badTk : List Nat := []
  tkEpoch : Nat := 0
  freeBells : Nat := 0
  tkBells : Nat := 0
  heardTk : Bool := false
  lastErr : Int := 0
  bigErr : Nat := 0
  limitRaised : Bool := false
  asym : Table Nat := []
  surveys : Table LinkSurvey := []
  waitSurvey : List Nat := []
  seq : Nat := 0
  epoch : Nat := 0
  todo : List Nat := []
  running : Bool := false
  goBell : Nat := 0
  shape : Option Shape := none
  hold : HoldSt := {}
  deriving DecidableEq, Repr

/-! ### The cipher engine (chapter Cipher Engine) -/

/-- Key slot states (R332). -/
inductive KeySt | free | empty | valid | spent
  deriving DecidableEq, Repr

/-- A key slot (R332, R344): its owner (an instance, or 0x3FF for the manager), key words (GCM 0–7 key and 8 salt; XTS 0–7 Key1 and 8–15 Key2),
TWEAK_BASE and sector size, and the queue pair it is bound to for transmission (R337). -/
structure KeySlot where
  st : KeySt := .free
  owner : Nat := 0
  words : List Nat := []
  tweak : Nat := 0
  sector : Nat := 0
  tx : Option Nat := none
  deriving DecidableEq, Repr

/-- A requester's staging buffer (R334, R348). -/
structure KeyStage where
  words : Table Nat := []
  lo : Option Nat := none
  hi : Option Nat := none
  sector : Nat := 0
  deriving DecidableEq, Repr

/-! ### The remote memory engine (chapter Remote Memory Engine and Olutan Reliable Transport) -/

/-- What a queue is (R261). -/
inductive QKind | admin | sq | rq | cq
  deriving DecidableEq, Repr

/-- A fetched entry of an SQ, an RQ or an admin queue (R267): its ring index, its words, whether the RME has started it, the message bytes that
packets have carried, whether the last has been sent, and once it has ended its status and bytes moved. -/
structure Wqe where
  idx : Nat
  words : List Nat
  started : Bool := false
  off : Nat := 0
  allSent : Bool := false
  res : Option Nat := none
  bytes : Nat := 0
  deriving DecidableEq, Repr

/-- A completion that is due (R270, R271): its words, and the queue whose consumer index it advances, with that index; of an event, the SQ whose
consumer index it carries. -/
structure Cqe where
  words : List Nat
  wq : Option (Nat × Nat) := none
  event : Option Nat := none
  deriving DecidableEq, Repr

/-- A queue (R261–R266). `f` is the next entry to fetch, `ents` the fetched entries no completion covers yet; `faulted` while a fault of its ring
waits for a reply; of a completion ring `waiting` holds completions due and not written, `since` the beat they began to wait. -/
structure Queue where
  kind : QKind
  base : Nat := 0
  log2 : Nat := 4
  p : Nat := 0
  c : Nat := 0
  f : Nat := 0
  ents : List Wqe := []
  cq : Nat := 0
  qp : Option Nat := none
  err : Bool := false
  shadow : Nat := 0
  vector : Nat := 0x7FF
  armed : Bool := false
  waiting : List Cqe := []
  since : Option Nat := none
  faulted : Bool := false
  deriving DecidableEq, Repr

/-- States of a queue pair (R275). -/
inductive QpSt | idle | connecting | connected | error
  deriving DecidableEq, Repr

/-- An RME packet (R291, R292) beside the bytes of its extension: `ver` and `rsv` (a reserved bit is set) tell a malformed one. -/
structure OrtPkt where
  op : Nat
  dest : Nat
  psn : Nat := 0
  ack : Nat := 0
  mlim : Nat := 0
  keySlot : Nat := 0
  blim : Nat := 0
  prot : Bool := false
  segFirst : Bool := false
  segLast : Bool := false
  msgFirst : Bool := false
  msgLast : Bool := false
  ackreq : Bool := false
  src : Nat := 0
  aux : Nat := 0
  va : Nat := 0
  vlen : Nat := 0
  op1 : Nat := 0
  op2 : Nat := 0
  typ : Nat := 0
  flow : Nat := 0
  data : List Byte := []
  tag : List Byte := []
  ver : Nat := 1
  rsv : Bool := false
  deriving DecidableEq, Repr

/-- A packet sent and not acknowledged (R293–R297): its first extended PSN, PSNs, opcode, send-queue entry, and the part of its message; a combine
message carries its own bytes. -/
structure PktRec where
  psn : Nat
  n : Nat
  op : Nat
  wqe : Nat
  off : Nat
  len : Nat
  total : Nat
  xs : Option XsMsg := none
  deriving DecidableEq, Repr

/-- A READ_REQ or atomic whose responses are outstanding (R287, R294, R297): `held` are responses in tag-hold. -/
structure ReadRec where
  psn : Nat
  n : Nat
  op : Nat
  wqe : Nat
  off : Nat
  len : Nat
  got : Nat := 0
  held : List (List Byte) := []
  deriving DecidableEq, Repr

/-- Where a packet came from (R215, R290, R303): this module itself, a module of the stead, or an Ethernet port with the frame's addresses. -/
inductive PktFrom
  | self
  | module (m : Nat)
  | eth (port : Nat) (mac : Nat) (v6 : Bool) (ip myIp : Nat) (vlan : Option Nat)
  deriving DecidableEq, Repr

/-- A RESET_QP or DESTROY_QP that waits for its last completion (R277): the beat it began. -/
structure Closing where
  destroy : Bool
  since : Nat
  flushed : Bool := false
  deriving DecidableEq, Repr

/-- A queue pair (R275–R304): its creation, its CONNECT_QP words and what was copied then, the sender, the receiver, and its credits. -/
structure QPair where
  owner : Nat
  sq : Nat
  rq : Nat
  eth : Bool := false
  prot : Bool := false
  rWrite : Bool := false
  rRead : Bool := false
  rAtomic : Bool := false
  stallIn : Bool := false
  combine : Bool := false
  pin : Bool := false
  winVa : Nat := 0
  winLen : Nat := 0
  st : QpSt := .idle
  cause : Nat := 0
  flush : Nat := 2
  conn : List Nat := []
  retryLimit : Nat := 7
  creditWait : Nat := 100
  connEnd : Nat := 0
  connAt : Nat := 0
  next : Nat := 0
  una : Nat := 0
  sent : List PktRec := []
  reads : List ReadRec := []
  xsOff : Nat := 0
  mlim : Nat := 0
  blim : Nat := 0
  mused : Nat := 0
  bused : Nat := 0
  segPaid : Nat := 0
  waitM : Option Nat := none
  waitB : Option Nat := none
  retries : Nat := 0
  rtxAt : Option Nat := none
  rto : Nat := 64
  srtt : Option Nat := none
  rttvar : Nat := 0
  sample : Option (Nat × Bool × Nat) := none
  paused : Bool := false
  stalled : Bool := false
  exp : Nat := 0
  nakAt : Option (Nat × Nat) := none
  accepts : Nat := 0
  ackAt : Option Nat := none
  msgOff : Nat := 0
  msgVa : Nat := 0
  xsBuf : List Byte := []
  seg : List OrtPkt := []
  inStall : Option OrtPkt := none
  respStall : Option OrtPkt := none
  atoms : List (Nat × Nat) := []
  mgrant : Nat := 0
  bgrant : Nat := 0
  breturn : Nat := 0
  told : Nat × Nat := (0, 0)
  toldAt : Nat := 0
  closing : Option Closing := none
  draining : Bool := false
  deriving DecidableEq, Repr

/-- A context-cache entry (R288): the queue pair, dirty; the most recently used stands first in `Chip.ctxCache`. -/
structure CtxEnt where
  qpn : Nat
  dirty : Bool
  deriving DecidableEq, Repr

/-- An operation of a queue pair that waits for its context (R23, R288): a row of a received packet at a buffer, the fetch of an entry, the start of an
entry of an opcode, packets that may be sent, the expiry of a timer, a reply to a fault, an admin command. -/
inductive CtxOp
  | recv (rx : RxAt)
  | fetch (qid : Nat)
  | start (op : Nat)
  | send
  | retransmit
  | creditWait
  | connectResend
  | connectWait
  | ackDelay
  | creditUpdate
  | sqe (ok : Bool)
  | inbound (ok : Bool)
  | admin (owner op : Nat)
  deriving DecidableEq, Repr

/-- What an admin command in progress waits for (R279, R280): the end of an admission, DONE, the last completion of a queue pair, a prefetch. -/
inductive AdmWait | admission (n : Nat) | done (n : Nat) | close (qpn : Nat) | prefetch
  deriving DecidableEq, Repr

/-! ### Ethernet ports (chapter Ethernet Ports) -/

/-- A frame that waits for transmission (R312, R326): its priority, its queue pair and the owner it is charged to. -/
structure ETx where
  prio : Nat
  qpn : Nat
  owner : Nat
  frame : EFrame
  deriving DecidableEq, Repr

/-- A received frame in the port's buffer (R313); `taken` once its client has it, `reserve` while it lies in its priority's headroom; `stamp`,
in 1/64 beat, of an IEEE 802.1AS event message (R317). -/
structure ERx where
  prio : Nat
  frame : EFrame
  taken : Bool := false
  reserve : Bool := false
  stamp : Option Nat := none
  deriving DecidableEq, Repr

/-- A gate list with its parameters (R320, R321). -/
structure GateList where
  enable : Bool := false
  beats : Bool := false
  base : Nat := 0
  cycle : Nat := 1000000
  ents : List Nat := []
  deriving DecidableEq, Repr

/-- A port, or a sub-port in breakout (R307–R329): waiting frames, MAC control frames that wait, the frame in transmission with its bytes left and
end beat, the preempted frame with its bytes left, received frames, the queue pair served last by priority, pauses as (priority, end in 1/1,000 beat,
beat they began), XOFF sent as (priority, beat), priorities that R313 holds in XOFF, verify attempts; the list running with its entry and that entry's list time, HOLD, the list admitted
with its change beat and list time, the list under admission with its outcome; the time map committed and when. -/
structure EPort where
  txq : List ETx := []
  mac : List EFrame := []
  cur : Option (ETx × Nat × Nat) := none
  cut : Option (ETx × Nat) := none
  rx : List ERx := []
  lastQp : Table Nat := []
  pauses : List (Nat × Nat × Nat) := []
  xoffs : List (Nat × Nat) := []
  held : List Nat := []
  attempts : Nat := 0
  attemptAt : Nat := 0
  oper : GateList := {}
  gateIdx : Nat := 0
  gateT : Nat := 0
  hold : Bool := false
  pendingList : Option (GateList × Nat × Nat) := none
  admitting : Option (Option (Nat × Nat) × GateList) := none
  map : Nat × Nat × Nat := (0, 0, 0)
  mapAt : Nat := 0
  retryAt : Nat := 0
  deriving DecidableEq, Repr

/-- An instance's egress bucket on a port (R326, R327): active rate and depth, level in 1/65,536 byte, the beat of that level. -/
structure Shaper where
  rate : Nat := 800000
  depth : Nat := 65536
  level : Int := 0
  at_ : Nat := 0
  deriving DecidableEq, Repr

/-! ### Host port and instances (chapter Host Coupling and Instances) -/

/-- An instance reset in progress (R371): its start, its cause, the queue pairs that sent RESET_NOTICE. -/
structure InsReset where
  start : Nat
  cause : Nat
  noticed : Nat := 0
  deriving DecidableEq, Repr

/-- A RELAY that waits for its acknowledgement (R368): source SEQ, destination module, message, sends so far, beat of the last. -/
structure RelayOut where
  seq : Nat
  dest : Nat
  payload : List Byte
  sends : Nat
  at_ : Nat
  deriving DecidableEq, Repr

/-! ### Reeve cores, firmware, power (chapters Reeve Cores, Firmware and Power-Up and Module Hardware) -/

/-- A live update under way (R394): the bank of the new image, the running image's GLB_FW_VER, GLB_FW_IF and HREC fields, the watchdog periods of
the handoff record, the cores that have reported, the beat of the handoff bell. -/
structure Update where
  bank : Nat
  ver : Nat
  iface : Nat
  hrec : Nat
  wd : List Nat := []
  reported : List Nat := []
  at_ : Nat := 0
  deriving DecidableEq, Repr

/-- Main power, auxiliary power and the sideband's inputs: levels the module sees (R383, R429, R436, R441). `low` counts the samples a LEAK_IN pin
has been low, `kaSeen` the samples in a row that leak and lid were asserted on backup power. -/
structure Inputs where
  auxGood : Bool := true
  mainGood : Bool := true
  perst : Bool := true
  leak : Bool := false
  lid : Bool := false
  low : List (Nat × Nat) := []
  kaSeen : Nat × Nat := (0, 0)
  deriving DecidableEq, Repr

/-- A pin in its hold (R443): the function that follows, the beat the hold ends. -/
structure PinHold where
  pin : Nat
  func : Nat
  until_ : Nat
  deriving DecidableEq, Repr

/-! ### Twins (chapter Faults, Safe State and Twins) -/

/-- A substitution announced (R421): KIND 0 LOSS, 1 LIFT, 2 ATTACH; LOST, CARRIER and the switch bell; of an ATTACH, the index of the BELL_WAIT
and the carrier's ALM_STEP (R425). -/
structure Subst where
  kind : Nat
  lost : Nat
  carrier : Nat
  bell : Nat
  idx : Nat := 0
  step : Nat := 0
  deriving DecidableEq, Repr

/-- What the twin unit holds beside the FLT registers: heartbeats heard as (link, bell), the last bell checked for them, the substitution that awaits
its switch bell, announcements seen, that a copy is in progress or done, that a BEREFT module is to originate HOLD at its
next bell, that the fallow almanac ADMITTED when it became BEREFT is not admitted anew yet. -/
structure Twin where
  heard : List (Nat × Nat) := []
  checked : Option Nat := none
  subst : Option Subst := none
  seen : List Subst := []
  copying : Bool := false
  copied : Bool := false
  bereftDue : Bool := false
  stale : Bool := false
  deriving DecidableEq, Repr

/-- The module: everything the spec gives it. -/
structure Chip where
  variant : Variant := .f
  mst : ModState := .booting
  mode : Mode := .balanced
  beat : Nat := 0
  regs : Table Nat := []
  rdLatch : Table Latch := []
  wrLatch : Table Latch := []
  srcs : Table Src := []
  irqDue : Bool := false
  irqLast : Option Nat := none
  safeReq : Bool := false
  containReq : List Nat := []
  crib : Mem := {}
  grn : Mem := {}
  loft : Mem := {}
  host : Mem := {}
  allot : Table (List SliceLoc) := []
  xcache : List XEnt := []
  engCache : List (Engine × XEnt) := []
  walks : List Walk := []
  spaces : Table Space := []
  invals : List Inval := []
  prefetches : List Prefetch := []
  ctxs : Table Ctx := []
  readmitReq : Bool := false
  trainCache : Table TrainEnt := []
  trainWhy : Table TrainWhy := []
  trainRev : Nat := 0
  links : Table Link := []
  clk : Clk := {}
  epochTag : Nat := 0
  wireTick : Nat := 0
  wireBytes : Nat := 0
  mute : Bool := false
  consent : Bool := false
  lossCarried : Bool := false
  thr : Thr := {}
  chaffClear : List (Nat × Nat) := []
  cmb : Table Combine := []
  xsOut : List XsMsg := []
  tgrpDue : Table Nat := []
  twinHb : Option Heartbeat := none
  mirrorAll : Bool := false
  keys : Table KeySlot := []
  keyStage : Table KeyStage := []
  queues : Table Queue := []
  qps : Table QPair := []
  lastQpns : List Nat := []
  ctxCache : List CtxEnt := []
  ctxMiss : List Nat := []
  ctxOps : List (Nat × CtxOp) := []
  notices : List (PktFrom × Nat × Nat) := []
  ringFail : List Nat := []
  loopRx : List OrtPkt := []
  admWait : Table AdmWait := []
  gap : Bool := false
  ports : Table EPort := []
  shapers : Table Shaper := []
  ppsUntil : Option Nat := none
  insResets : Table InsReset := []
  again : List (Nat × Nat × QPair) := []
  mbOut : List (Nat × List Nat) := []
  relay : Option RelayOut := none
  relaySeen : Table (List Nat) := []
  hello : Option Nat := none
  hostReady : Bool := false
  plainWrites : List Nat := []
  cplTimeout : Nat := 0
  hostBad : List (Nat × Nat) := []
  probes : Table Nat := []
  restarts : Table (List Nat) := []
  flash : Mem := {}
  verified : Bool := false
  fwcBusy : Nat := 0
  update : Option Update := none
  smbAddr : Nat := 0x5A
  bootSafe : Bool := false
  safeOut : Bool := false
  skipPower : Bool := false
  skipTemp : Bool := false
  bellDone : Nat := 0
  modeBell : Nat := 0
  hotBell : Option Nat := none
  forceBell : Option Nat := none
  rtcAt : Nat := 0
  inputs : Inputs := {}
  holds : List PinHold := []
  twin : Twin := {}
  out : List Out := []
  freeCtr : Nat := 1
  deriving DecidableEq, Repr

/-- The state: the module, and the commands that wait for it, first in first out. -/
structure State where
  chip : Chip
  pending : List Instr
  deriving DecidableEq, Repr

/-- The machine right after reset: every register at its reset value, no command waiting. -/
def State.reset : State := ⟨{}, []⟩

end Sys2Proof.Machine
end

