-- ==== Sys2Proof/Machine/Ops.lean ====
section
/-!
DEFINITION. Machine/Ops.lean: the named operations over the state: sparse tables, register fields, byte memories, counters, what leaves
the module, and the passing of beats.
-/
namespace Sys2Proof.Machine

/-! ### Tables -/

/-- The entry of key `k`, if listed. -/
def Table.find? {α : Type} (k : Nat) : Table α → Option α
  | [] => none
  | (j, v) :: t => if j = k then some v else Table.find? k t

/-- The entry of key `k`, or `d`. -/
def Table.getD {α : Type} (t : Table α) (k : Nat) (d : α) : α := (Table.find? k t).getD d

/-- `t` with key `k` set to `v`, in key order. -/
def Table.insert {α : Type} (k : Nat) (v : α) : Table α → Table α
  | [] => [(k, v)]
  | (j, u) :: t => if k < j then (k, v) :: (j, u) :: t else if k = j then (k, v) :: t else (j, u) :: Table.insert k v t

/-- `t` without key `k`. -/
def Table.erase {α : Type} (k : Nat) (t : Table α) : Table α := t.filter (fun e => e.1 ≠ k)

/-- `t` with key `k` set to `v`; a value equal to the default `d` is not listed. -/
def Table.setD {α : Type} [DecidableEq α] (t : Table α) (k : Nat) (d v : α) : Table α :=
  if v = d then Table.erase k t else Table.insert k v (Table.erase k t)

/-- The listed keys. -/
def Table.keys {α : Type} (t : Table α) : List Nat := t.map (·.1)

/-! ### Register fields -/

/-- The key of a field's copy: page `idx` of its block, bank `b`, element `a` of an array register. -/
def Fld.key (f : Fld) (idx b a : Nat) : Nat :=
  (((f.page + idx) * 2 ^ 32 + b) * 2 ^ 16 + f.off + f.stride * a) * 2 ^ 8 + f.lo

/-- Reset weight of a virtual channel (R227). -/
def vcWeightReset : List Nat := [0, 8, 4, 2, 4, 1, 0]

/-- Reset receive share of a virtual channel in flits (R227). -/
def vcBufReset : List Nat := [8192, 4096, 1024, 1024, 1024, 1024, 0]

/-- AGL_EXPECT of link `l` with no position known (R212): seat 0 of rick 0, checks enabled. -/
def Rst.val (r : Rst) (f : Fld) (b a : Nat) : Nat :=
  match r with
  | .n v => v
  | .vcWeight => vcWeightReset.getD b 0
  | .vcBuf => vcBufReset.getD b 0
  | .dscp => let d := 8 * a + f.lo / 4; if d = 26 then 3 else if d = 48 then 6 else 0
  | .aglExpect => 0
  | .view => 0

/-- The reset value of a field's copy. -/
def Fld.reset (f : Fld) (b a : Nat) : Nat := f.rst.val f b a

/-- The value a field's copy holds. -/
def Chip.rd (c : Chip) (f : Fld) (idx : Nat := 0) (b : Nat := 0) (a : Nat := 0) : Nat :=
  Table.getD c.regs (f.key idx b a) (f.reset b a)

/-- `c` with a field's copy holding the low bits of `v`. -/
def Chip.wr (c : Chip) (f : Fld) (v : Nat) (idx : Nat := 0) (b : Nat := 0) (a : Nat := 0) : Chip :=
  { c with regs := Table.setD c.regs (f.key idx b a) (f.reset b a) (v % 2 ^ f.width) }

/-- A one-bit field is 1. -/
def Chip.on (c : Chip) (f : Fld) (idx : Nat := 0) (b : Nat := 0) (a : Nat := 0) : Bool := c.rd f idx b a == 1

/-- `c` with a field's copy back at its reset value. -/
def Chip.clr (c : Chip) (f : Fld) (idx : Nat := 0) (b : Nat := 0) (a : Nat := 0) : Chip :=
  { c with regs := Table.erase (f.key idx b a) c.regs }

/-- An event of an RC counter (R26): it adds `n`, saturates at the field's maximum, and a lost event sets CNT_SAT of its page. -/
def Chip.count (c : Chip) (f : Fld) (n : Nat := 1) (idx : Nat := 0) (b : Nat := 0) : Chip :=
  let v := c.rd f idx b + n
  if v < 2 ^ f.width then c.wr f v idx b
  else (c.wr f (2 ^ f.width - 1) idx b).wr F.PAGE_STATUS_CNT_SAT 1 (f.page + idx)

/-! ### What leaves the module -/

/-- `c` having sent `o`. -/
def Chip.emit (c : Chip) (o : Out) : Chip := { c with out := o :: c.out }

/-! ### Time -/

/-- Beats in a bell (R5). -/
def bellBeats : Nat := 2 ^ 20

/-- BEAT[63:20], the bell in progress (R5). -/
def Chip.bell (c : Chip) : Nat := c.beat / bellBeats

/-- The first bell boundary at least `d` beats ahead, as a bell number. -/
def Chip.bellAhead (c : Chip) (d : Nat) : Nat := ceilDiv (c.beat + d) bellBeats

/-- An event whose moment the rules fix happens at that moment: BEAT moves forward to it, never back (log entry 9). -/
def Chip.advanceTo (c : Chip) (b : Nat) : Chip := { c with beat := max c.beat b }

/-- Beats in `ns` nanoseconds at 900 MHz, rounded down. -/
def nsBeats (ns : Nat) : Nat := ns * 9 / 10

/-! ### Byte memories -/

/-- The tag of the undefined range that holds address `a`. -/
def undefTag (a : Nat) : List URange → Option Nat
  | [] => none
  | r :: t => if r.lo ≤ a ∧ a < r.hi then some r.tag else undefTag a t

/-- The byte that address `a` reads: listed, or 0, or in an undefined range a free byte (log entries 4 and 5). -/
def Mem.get (m : Mem) (a : Nat) : Byte :=
  match Table.find? a m.cells with
  | some b => b
  | none => match undefTag a m.undef with
    | some t => Config.undefByte t a
    | none => 0

/-- What address `a` is listed as when the byte `b` is stored there: nothing, where `a` reads 0 unlisted. -/
def Mem.put (m : Mem) (a : Nat) (b : Byte) : Mem :=
  if b = 0 ∧ undefTag a m.undef = none then { m with cells := Table.erase a m.cells }
  else { m with cells := Table.insert a b (Table.erase a m.cells) }

/-- The `n` bytes from address `a`. -/
def Mem.read (m : Mem) (a : Nat) : Nat → List Byte
  | 0 => []
  | n + 1 => m.get a :: m.read (a + 1) n

/-- `m` with a byte string stored from address `a`. -/
def Mem.write (m : Mem) (a : Nat) : List Byte → Mem
  | [] => m
  | b :: t => (m.put a b).write (a + 1) t

/-- What is left of an undefined range outside [lo, hi). -/
def URange.cut (lo hi : Nat) (r : URange) : List URange :=
  (if r.lo < min r.hi lo then [{ r with hi := min r.hi lo }] else []) ++
  (if max r.lo hi < r.hi then [{ r with lo := max r.lo hi }] else [])

/-- `m` with [lo, lo + n) all zero and unpoisoned. -/
def Mem.zero (m : Mem) (lo n : Nat) : Mem :=
  { cells := m.cells.filter (fun e => ¬ (lo ≤ e.1 ∧ e.1 < lo + n))
    undef := m.undef.flatMap (URange.cut lo (lo + n))
    poison := m.poison.filter (fun w => ¬ (lo ≤ w ∧ w < lo + n)) }

/-- `m` with the content of [lo, lo + n) undefined: free bytes under a tag of their own. -/
def Mem.undefine (m : Mem) (tag lo n : Nat) : Mem :=
  if n = 0 then m else
  let z := m.zero lo n
  { z with undef := z.undef.filter (fun r => r.hi ≤ lo) ++ ⟨lo, lo + n, tag⟩ :: z.undef.filter (fun r => lo < r.hi) }

/-- The 64-byte words that [a, a + n) touches. -/
def wordsTouched (a n : Nat) : List Nat :=
  if n = 0 then [] else (List.range ((a + n - 1) / 64 - a / 64 + 1)).map (fun k => (a / 64 + k) * 64)

/-- Some word of [a, a + n) is poisoned (R138). -/
def Mem.poisoned (m : Mem) (a n : Nat) : Bool := (wordsTouched a n).any (m.poison.contains ·)

/-- `m` with the words of [a, a + n) poisoned. -/
def Mem.setPoison (m : Mem) (a n : Nat) : Mem :=
  { m with poison := m.poison.filter (fun w => w < a / 64 * 64) ++ wordsTouched a n ++
      m.poison.filter (fun w => a / 64 * 64 + 64 * (wordsTouched a n).length ≤ w) }

/-- `m` with the words of [a, a + n) clean. -/
def Mem.clearPoison (m : Mem) (a n : Nat) : Mem :=
  { m with poison := m.poison.filter (fun w => ¬ (wordsTouched a n).contains w) }

/-- Numbers that rise strictly. -/
def rising : List Nat → Bool
  | a :: b :: t => a < b && rising (b :: t)
  | _ => true

/-- Ranges that hold something, rise and do not overlap. -/
def apart : List URange → Bool
  | r :: q :: t => r.lo < r.hi && r.hi ≤ q.lo && apart (q :: t)
  | [r] => r.lo < r.hi
  | [] => true

/-- The canonical form: addresses rise, no byte is listed as the 0 that its address reads unlisted, the undefined ranges rise without overlap, and
so do the poisoned words, each at a multiple of 64. -/
def Mem.wf (m : Mem) : Bool :=
  rising (m.cells.map (·.1)) && m.cells.all (fun e => e.2 ≠ 0 || (undefTag e.1 m.undef).isSome) && apart m.undef &&
  rising m.poison && m.poison.all (fun w => w % 64 = 0)

/-! ### Free values -/

/-- A fresh value the spec leaves open (log entry 10): the state's counter names it and moves on. -/
def Chip.free (c : Chip) : Nat × Chip := (Config.freeNat c.freeCtr, { c with freeCtr := c.freeCtr + 1 })

/-- MSI-X function of an owner. -/
def fnOf (owner : Nat) : Nat := if owner = 512 then 0 else owner + 1

end Sys2Proof.Machine
end

