-- ==== Sys2Proof/Machine/Flags.lean ====
section
/-!
DEFINITION. Machine/Flags.lean: the fault collector (R405–R414): sources, events, windows, severity, and the summaries that read from them.
-/
namespace Sys2Proof.Machine

/-! ### Sources (R406) -/

namespace Flt
def wdCore (k : Nat) : Nat := k
def settings : Nat := 16
def regAccess : Nat := 17
def flash : Nat := 18
def kaAlarm : Nat := 19
def twinDeclared : Nat := 20
def current : Nat := 32
def tjHigh : Nat := 33
def tjMax : Nat := 34
def cribTemp : Nat := 35
def rail : Nat := 36
def powerSkip : Nat := 37
def coolantInlet : Nat := 38
def leak : Nat := 39
def lid : Nat := 40
def clock : Nat := 64
def late : Nat := 65
def holdLate : Nat := 66
def twinLost : Nat := 67
def twinLink : Nat := 68
def substLate : Nat := 69
def combine : Nat := 70
def xltStead : Nat := 71
def loft : Nat := 96
def crib (n : Nat) : Nat := 97 + n
def grn (n : Nat) : Nat := 109 + n
def link (n : Nat) : Nat := 128 + n
def eth (n : Nat) : Nat := 160 + n
def cipher : Nat := 164
def hostLink : Nat := 165
def rme : Nat := 166
/-- The source of instance `i` (R405). -/
def inst (i : Nat) : Nat := 512 + i
end Flt

/-- Sources that R405 and R406 name; every other number is reserved. -/
def srcNamed (s : Nat) : Bool :=
  s ≤ 20 || (32 ≤ s && s ≤ 40) || (64 ≤ s && s ≤ 71) || (96 ≤ s && s ≤ 116) || (128 ≤ s && s ≤ 166) || (512 ≤ s && s < 1024)

/-- Sources whose class and ENABLE are fixed (R406). -/
def srcFixed (s : Nat) : Bool := [0, 20, 32, 33, 34, 35, 36, 39, 40].contains s

/-- A source's class, N and W at reset (R406, R407, R414). -/
def srcReset (s : Nat) : Src :=
  if 512 ≤ s then { cls := .contain, n := 64, w := 1024 }
  else if [0, 20, 32, 34, 35, 36, 39, 40].contains s then { cls := .safe }
  else if s = 68 ∨ (128 ≤ s ∧ s < 160) then { n := 16, w := 1024 }
  else {}

/-- A source as it stands. -/
def Chip.src (c : Chip) (s : Nat) : Src := Table.getD c.srcs s (srcReset s)

/-- `c` with source `s` as given. -/
def Chip.setSrc (c : Chip) (s : Nat) (x : Src) : Chip := { c with srcs := Table.setD c.srcs s (srcReset s) x }

/-! ### The window (R410) -/

/-- Bells per bucket, B = ⌈W / 16⌉. -/
def Src.bucketBells (x : Src) : Nat := ceilDiv x.w 16

/-- Buckets in the window, K = ⌈W / B⌉. -/
def Src.bucketCount (x : Src) : Nat := ceilDiv x.w x.bucketBells

/-- The window sum: the current bucket and the K − 1 before it. -/
def Src.sum (x : Src) : Nat := (x.buckets.take x.bucketCount).foldl (· + ·) 0

/-- The current bucket with one more event, saturating at 255. -/
def Src.addEvent (x : Src) : Src :=
  { x with buckets := match x.buckets with | [] => [1] | b :: t => min 255 (b + 1) :: t }

/-- The window at the boundary of bell `n`, the last boundary taken being `m`: buckets change at every multiple of B on the way. -/
def Src.atBell (m n : Nat) (x : Src) : Src :=
  if x.buckets = [] then x
  else { x with buckets := (List.replicate (min 16 (n / x.bucketBells - m / x.bucketBells)) 0 ++ x.buckets).take 16 }

/-! ### Events (R408, R409, R411, R413) -/

/-- The collector takes one event of source `s`: it counts it, sets STATUS, and on a window sum that reaches N sets SEVERE and applies the
class; a SAFE-class transition asks for the safe state, a CONTAIN-class one for an instance reset (both performed as the command ends).
`c` has FLT_SRC_COUNT already advanced. -/
def Chip.takeEvent (c : Chip) (s : Nat) : Chip :=
  let x := c.src s
  let y := x.addEvent
  let trans := decide (x.sum < x.n ∧ x.n ≤ y.sum)
  let z : Src := { y with
    status := true
    severe := x.severe || trans
    count := min (2 ^ 32 - 1) (x.count + 1) }
  let c := c.setSrc s z
  let c := if x.count = 2 ^ 32 - 1 then c.wr F.PAGE_STATUS_CNT_SAT 1 3 else c
  { c with
    irqDue := c.irqDue || (c.on F.FLT_CTRL_IRQ_EN && (!x.status || trans))
    safeReq := c.safeReq || (trans && x.cls == .safe)
    containReq := if trans && x.cls == .contain then c.containReq ++ [s - 512] else c.containReq }

/-- One event of source `s` (R408); a disabled or reserved source ignores it (R405, R409). -/
def Chip.event (c : Chip) (s : Nat) : Chip :=
  if srcNamed s && ((c.src s).enable || srcFixed s) then c.takeEvent s else c

/-- The onset of a cause that persists: one event, and the source stays asserted (R408). -/
def Chip.onset (c : Chip) (s : Nat) : Chip :=
  if (c.src s).persist || !srcNamed s then c
  else
    let c := c.event s
    if (c.src s).enable || srcFixed s then c.setSrc s { c.src s with persist := true } else c

/-- A persisting cause ends (R408). -/
def Chip.causeGone (c : Chip) (s : Nat) : Chip := c.setSrc s { c.src s with persist := false }

/-- An event of instance `i`'s source with its bit of FLT_INST_CAUSE (R407). -/
def Chip.instEvent (c : Chip) (i causeBit : Nat) : Chip :=
  if (c.src (Flt.inst i)).enable then
    (c.wr F.FLT_INST_CAUSE_CAUSE (setBit (c.rd F.FLT_INST_CAUSE_CAUSE 0 i) causeBit true) 0 i).event (Flt.inst i)
  else c

/-- Software clears STATUS: a cause that persists, or FORCE, holds it at 1 (R408, R11). -/
def Src.clearStatus (x : Src) : Src := { x with status := x.persist || x.force }

/-- FORCE of source `s` takes the value `v`: its rising edge is one event, whatever ENABLE holds (R409). -/
def Chip.setForce (c : Chip) (s : Nat) (v : Bool) : Chip :=
  if srcNamed s then
    let rise := v && !(c.src s).force
    let c := c.setSrc s { c.src s with force := v }
    if rise then c.takeEvent s else c
  else c

/-- The class, N and W of source `s` are written (R412): CONTAIN only on instance sources, fixed classes ignored, 0 stored as 1, class 3
stored as SAFE; a change of N or W clears the buckets. -/
def Chip.setSrcCfg (c : Chip) (s cls n w : Nat) : Chip :=
  if srcNamed s then
    let x := c.src s
    let n := if n = 0 then 1 else n
    let w := if w = 0 then 1 else w
    let k : FltClass := if srcFixed s then x.cls
      else if cls = 0 then .note else if cls = 1 then (if 512 ≤ s then .contain else .note) else .safe
    c.setSrc s { x with cls := k, n := n, w := w, buckets := if n = x.n ∧ w = x.w then x.buckets else [] }
  else c

/-! ### Summaries -/

/-- Some listed source that satisfies `p` (a source at its reset value has STATUS and SEVERE 0). -/
def Chip.anySrc (c : Chip) (p : Nat → Src → Bool) : Bool := c.srcs.any (fun e => p e.1 e.2)

/-- GLB_STATE.SAFE_CAUSE: a source of class SAFE has STATUS set. -/
def Chip.safeCause (c : Chip) : Bool := c.anySrc (fun _ x => x.status && x.cls == .safe)

/-- FLT_SUMMARY or FLT_SEVERE_SUM: bit g for a source of group g that satisfies `p`. -/
def Chip.groupBits (c : Chip) (p : Src → Bool) : Nat :=
  (List.range 32).foldl (fun v g => v + b2n (c.anySrc (fun s x => s / 32 == g && p x)) * 2 ^ g) 0

/-- The 32 bits of group `g` of a FLT_STATUS, FLT_SEVERE, FLT_FORCE or FLT_ENABLE word; reserved sources read 0 (R405). -/
def Chip.groupWord (c : Chip) (g : Nat) (p : Src → Bool) : Nat :=
  (List.range 32).foldl (fun v b => v + b2n (srcNamed (32 * g + b) && p (c.src (32 * g + b))) * 2 ^ b) 0

/-- The BAR0 page whose PAGE_STATUS.FAULT source `s` drives (R406, R407). -/
def srcPage (s : Nat) : Nat :=
  if s ≤ 15 ∨ s = 18 then 4
  else if s = 16 ∨ s = 17 ∨ s = 20 then 0
  else if s = 19 ∨ (38 ≤ s ∧ s ≤ 40) then 5
  else if 32 ≤ s ∧ s ≤ 37 then 4
  else if 64 ≤ s ∧ s ≤ 66 then 1
  else if 67 ≤ s ∧ s ≤ 69 then 3
  else if s = 70 then 0x31
  else if s = 71 then 0x30
  else if s = 96 then 0xb
  else if 97 ≤ s ∧ s ≤ 108 then 0x10 + (s - 97)
  else if 109 ≤ s ∧ s ≤ 116 then 0x20 + (s - 109)
  else if 128 ≤ s ∧ s ≤ 159 then 0x40 + (s - 128)
  else if 160 ≤ s ∧ s ≤ 163 then 0x60 + (s - 160)
  else if s = 164 then 0x70
  else if s = 165 then 0x78
  else if s = 166 then 0x68
  else 0x100 + (s - 512)

/-- PAGE_STATUS.FAULT of a page. -/
def Chip.pageFault (c : Chip) (page : Nat) : Bool := c.anySrc (fun s x => x.status && srcPage s == page)

/-- FAULT_INTERRUPT (R413): the message due on vector 2 of the PF, at most one in 10 µs. -/
def Chip.faultInterrupt (c : Chip) : Chip :=
  let free := match c.irqLast with | none => true | some b => decide (b + nsBeats 10000 ≤ c.beat)
  if c.irqDue && free then
    { c.emit (.msix 0 2) with irqDue := false, irqLast := some c.beat }
  else c

end Sys2Proof.Machine
end

