-- ==== Sys2Proof/Machine/Cipher.lean ====
section
/-!
DEFINITION. Machine/Cipher.lean: AES-256 (FIPS 197), GCM (NIST SP 800-38D) and XTS (IEEE 1619) as the cipher engine performs them, and the key
slots (R332, R338, R339, R344).
-/
namespace Sys2Proof.Machine

/-! ### AES-256 -/

/-- Quarter 0 of the S-box. -/
def Aes.sbox0 : List Nat := [
  0x63, 0x7c, 0x77, 0x7b, 0xf2, 0x6b, 0x6f, 0xc5, 0x30, 0x01, 0x67, 0x2b, 0xfe, 0xd7, 0xab, 0x76,
  0xca, 0x82, 0xc9, 0x7d, 0xfa, 0x59, 0x47, 0xf0, 0xad, 0xd4, 0xa2, 0xaf, 0x9c, 0xa4, 0x72, 0xc0,
  0xb7, 0xfd, 0x93, 0x26, 0x36, 0x3f, 0xf7, 0xcc, 0x34, 0xa5, 0xe5, 0xf1, 0x71, 0xd8, 0x31, 0x15,
  0x04, 0xc7, 0x23, 0xc3, 0x18, 0x96, 0x05, 0x9a, 0x07, 0x12, 0x80, 0xe2, 0xeb, 0x27, 0xb2, 0x75]
/-- Quarter 1 of the S-box. -/
def Aes.sbox1 : List Nat := [
  0x09, 0x83, 0x2c, 0x1a, 0x1b, 0x6e, 0x5a, 0xa0, 0x52, 0x3b, 0xd6, 0xb3, 0x29, 0xe3, 0x2f, 0x84,
  0x53, 0xd1, 0x00, 0xed, 0x20, 0xfc, 0xb1, 0x5b, 0x6a, 0xcb, 0xbe, 0x39, 0x4a, 0x4c, 0x58, 0xcf,
  0xd0, 0xef, 0xaa, 0xfb, 0x43, 0x4d, 0x33, 0x85, 0x45, 0xf9, 0x02, 0x7f, 0x50, 0x3c, 0x9f, 0xa8,
  0x51, 0xa3, 0x40, 0x8f, 0x92, 0x9d, 0x38, 0xf5, 0xbc, 0xb6, 0xda, 0x21, 0x10, 0xff, 0xf3, 0xd2]
/-- Quarter 2 of the S-box. -/
def Aes.sbox2 : List Nat := [
  0xcd, 0x0c, 0x13, 0xec, 0x5f, 0x97, 0x44, 0x17, 0xc4, 0xa7, 0x7e, 0x3d, 0x64, 0x5d, 0x19, 0x73,
  0x60, 0x81, 0x4f, 0xdc, 0x22, 0x2a, 0x90, 0x88, 0x46, 0xee, 0xb8, 0x14, 0xde, 0x5e, 0x0b, 0xdb,
  0xe0, 0x32, 0x3a, 0x0a, 0x49, 0x06, 0x24, 0x5c, 0xc2, 0xd3, 0xac, 0x62, 0x91, 0x95, 0xe4, 0x79,
  0xe7, 0xc8, 0x37, 0x6d, 0x8d, 0xd5, 0x4e, 0xa9, 0x6c, 0x56, 0xf4, 0xea, 0x65, 0x7a, 0xae, 0x08]
/-- Quarter 3 of the S-box. -/
def Aes.sbox3 : List Nat := [
  0xba, 0x78, 0x25, 0x2e, 0x1c, 0xa6, 0xb4, 0xc6, 0xe8, 0xdd, 0x74, 0x1f, 0x4b, 0xbd, 0x8b, 0x8a,
  0x70, 0x3e, 0xb5, 0x66, 0x48, 0x03, 0xf6, 0x0e, 0x61, 0x35, 0x57, 0xb9, 0x86, 0xc1, 0x1d, 0x9e,
  0xe1, 0xf8, 0x98, 0x11, 0x69, 0xd9, 0x8e, 0x94, 0x9b, 0x1e, 0x87, 0xe9, 0xce, 0x55, 0x28, 0xdf,
  0x8c, 0xa1, 0x89, 0x0d, 0xbf, 0xe6, 0x42, 0x68, 0x41, 0x99, 0x2d, 0x0f, 0xb0, 0x54, 0xbb, 0x16]

/-- The S-box. -/
def Aes.sbox : List Nat := Aes.sbox0 ++ Aes.sbox1 ++ Aes.sbox2 ++ Aes.sbox3

/-- SubBytes of one byte, and its inverse. -/
def Aes.sub (x : Nat) : Nat := Aes.sbox.getD x 0
def Aes.unsub (x : Nat) : Nat := Aes.sbox.idxOf x

/-- Multiplication by x in GF(2^8) with the polynomial 0x11B. -/
def Aes.dbl (a : Nat) : Nat := if a < 128 then 2 * a else Nat.xor (2 * a) 0x11B

/-- Product in GF(2^8) by the low four bits of `b`. -/
def Aes.mul (b a : Nat) : Nat :=
  let a2 := Aes.dbl a
  let a4 := Aes.dbl a2
  let a8 := Aes.dbl a4
  Nat.xor (Nat.xor (if bit b 0 then a else 0) (if bit b 1 then a2 else 0)) (Nat.xor (if bit b 2 then a4 else 0) (if bit b 3 then a8 else 0))

/-- Exclusive-or of byte lists. -/
def xorList (a b : List Nat) : List Nat := List.zipWith Nat.xor a b

/-- Key expansion: words as four bytes each, newest first, from the eight words of the key; `rcon` is the next round constant. -/
def Aes.expand : Nat → Nat → Nat → List (List Nat) → List (List Nat)
  | 0, _, _, ws => ws
  | fuel + 1, i, rcon, ws =>
    let prev := ws.getD 0 []
    let back := ws.getD 7 []
    let t := if i % 8 = 0 then xorList ((prev.drop 1 ++ prev.take 1).map Aes.sub) [rcon, 0, 0, 0]
      else if i % 8 = 4 then prev.map Aes.sub else prev
    Aes.expand fuel (i + 1) (if i % 8 = 0 then Aes.dbl rcon else rcon) (xorList back t :: ws)

/-- The words of a byte list, four bytes each. -/
def Aes.quads (l : List Nat) : Nat → List (List Nat)
  | 0 => []
  | n + 1 => l.take 4 :: Aes.quads (l.drop 4) n

/-- The fifteen round keys of a 32-byte key, 16 bytes each, in order. -/
def Aes.roundKeys (key : List Nat) : List (List Nat) :=
  let w := (Aes.expand 52 8 1 (Aes.quads key 8).reverse).reverse
  (List.range 15).map (fun r => ((w.drop (4 * r)).take 4).flatten)

/-- ShiftRows and its inverse on the column-major block. -/
def Aes.shift (s : List Nat) : List Nat := (List.range 16).map (fun i => s.getD ((i + 4 * (i % 4)) % 16) 0)
def Aes.unshift (s : List Nat) : List Nat := (List.range 16).map (fun i => s.getD ((i + 16 - 4 * (i % 4)) % 16) 0)

/-- A column times the circulant matrix of the given row. -/
def Aes.mixCol (m c : List Nat) : List Nat :=
  (List.range 4).map (fun r => (List.range 4).foldl (fun a k => Nat.xor a (Aes.mul (m.getD ((k + 4 - r) % 4) 0) (c.getD k 0))) 0)
def Aes.mix (m s : List Nat) : List Nat := (Aes.quads s 4).flatMap (Aes.mixCol m)

/-- One block encrypted with the round keys. -/
def Aes.enc (rk : List (List Nat)) (b : List Nat) : List Nat :=
  let s := (List.range 13).foldl (fun s r => xorList (Aes.mix [2, 3, 1, 1] (Aes.shift (s.map Aes.sub))) (rk.getD (r + 1) [])) (xorList b (rk.getD 0 []))
  xorList (Aes.shift (s.map Aes.sub)) (rk.getD 14 [])

/-- One block decrypted with the round keys. -/
def Aes.dec (rk : List (List Nat)) (b : List Nat) : List Nat :=
  let s := (Aes.unshift (xorList b (rk.getD 14 []))).map Aes.unsub
  (List.range 13).foldl (fun s r => (Aes.unshift (Aes.mix [14, 11, 13, 9] (xorList s (rk.getD (13 - r) [])))).map Aes.unsub) s
    |> fun s => xorList s (rk.getD 0 [])

/-- Bytes of key words: byte b in word b div 4 at bits [8(b mod 4) + 7 : 8(b mod 4)] (R334). -/
def keyBytes (ws : List Nat) : List Nat := ws.flatMap (fun w => (toLE 4 w).map (·.toNat))

/-- A number's bytes, and a byte list as a number, most significant first. -/
def natBE (n v : Nat) : List Nat := (toBE n v).map (·.toNat)
def beNat (l : List Nat) : Nat := l.foldl (fun a b => 256 * a + b) 0

/-! ### GCM -/

/-- Product in GF(2^128) in GCM's bit order: bit 127 of a number is the coefficient of x^0. -/
def Gcm.mulGo (x : Nat) : Nat → Nat → Nat → Nat
  | 0, _, z => z
  | k + 1, v, z => Gcm.mulGo x k (if v % 2 = 1 then Nat.xor (v / 2) (0xE1 * 2 ^ 120) else v / 2) (if bit x k then Nat.xor z v else z)
def Gcm.mul (x y : Nat) : Nat := Gcm.mulGo x 128 y 0

/-- The 16-byte blocks of a byte list as numbers, the last filled with zeros. -/
def Gcm.blocks (l : List Nat) : List Nat :=
  (List.range (ceilDiv l.length 16)).map (fun k => beNat (((l.drop (16 * k)).take 16) ++ List.replicate (16 - min 16 (l.length - 16 * k)) 0))

/-- GHASH over the additional data and the ciphertext. -/
def Gcm.ghash (h : Nat) (aad ct : List Nat) : Nat :=
  (Gcm.blocks aad ++ Gcm.blocks ct ++ [aad.length * 8 * 2 ^ 64 + ct.length * 8]).foldl (fun y b => Gcm.mul (Nat.xor y b) h) 0

/-- Counter mode from counter value 2 on under a 96-bit IV. -/
def Gcm.ctr (rk : List (List Nat)) (iv data : List Nat) : List Nat :=
  (List.range (ceilDiv data.length 16)).flatMap (fun k => xorList ((data.drop (16 * k)).take 16) (Aes.enc rk (iv ++ natBE 4 (k + 2))))

/-- The 128-bit tag of a ciphertext. -/
def Gcm.tag (rk : List (List Nat)) (iv aad ct : List Nat) : List Nat :=
  xorList (natBE 16 (Gcm.ghash (beNat (Aes.enc rk (List.replicate 16 0))) aad ct)) (Aes.enc rk (iv ++ natBE 4 1))

/-- Encryption: the ciphertext and the tag. -/
def Gcm.encrypt (key iv aad pt : List Nat) : List Nat × List Nat :=
  let rk := Aes.roundKeys key
  let ct := Gcm.ctr rk iv pt
  (ct, Gcm.tag rk iv aad ct)

/-- Decryption: the plaintext where the tag verifies. -/
def Gcm.decrypt (key iv aad ct tag : List Nat) : Option (List Nat) :=
  let rk := Aes.roundKeys key
  if Gcm.tag rk iv aad ct = tag then some (Gcm.ctr rk iv ct) else none

/-! ### XTS -/

/-- Multiplication of a tweak by α, as a little-endian number. -/
def Xts.alpha (t : Nat) : Nat := if t < 2 ^ 127 then 2 * t else Nat.xor (2 * t - 2 ^ 128) 0x87

/-- The blocks of a sector under their tweaks. -/
def Xts.blocks (f : List Nat → List Nat) : Nat → Nat → List Nat → List Nat
  | 0, _, _ => []
  | n + 1, t, d =>
    let tb := (toLE 16 t).map (·.toNat)
    xorList (f (xorList (d.take 16) tb)) tb ++ Xts.blocks f n (Xts.alpha t) (d.drop 16)

/-- One data unit (a sector, whole blocks) with its tweak value. -/
def Xts.sector (key1 key2 : List Nat) (decrypt : Bool) (tweak : Nat) (d : List Nat) : List Nat :=
  let rk := Aes.roundKeys key1
  let t := Aes.enc (Aes.roundKeys key2) ((toLE 16 tweak).map (·.toNat))
  Xts.blocks (if decrypt then Aes.dec rk else Aes.enc rk) (d.length / 16) (ofLE (t.map (fun b => BitVec.ofNat 8 b))) d

/-! ### Key slots (R332) -/

/-- The number of a slot: kind 0 GCM, 1 XTS. -/
def keyNo (kind slot : Nat) : Nat := kind * 4096 + slot
def Chip.keySlot (c : Chip) (kind slot : Nat) : KeySlot := Table.getD c.keys (keyNo kind slot) {}
def Chip.setKey (c : Chip) (kind slot : Nat) (k : KeySlot) : Chip := { c with keys := Table.setD c.keys (keyNo kind slot) {} k }

/-- The manager as an owner of key slots and as a requester of the KEY page. -/
def mgrOwner : Nat := 0x3FF

/-- Bytes of a sector of a slot. -/
def KeySlot.sectorBytes (k : KeySlot) : Nat := if k.sector = 1 then 4096 else 512

/-- Sectors of a byte string through an XTS slot (R344): sector i takes tweak TWEAK_BASE + `first` + i modulo 2^64. -/
def KeySlot.xts (k : KeySlot) (decrypt : Bool) (first : Nat) (data : List Byte) : List Byte :=
  let n := k.sectorBytes
  (List.range (data.length / n)).flatMap (fun i =>
    (Xts.sector (keyBytes (k.words.take 8)) (keyBytes (k.words.drop 8)) decrypt ((k.tweak + first + i) % 2 ^ 64)
      (((data.drop (n * i)).take n).map (·.toNat))).map (fun b => BitVec.ofNat 8 b))

end Sys2Proof.Machine
end

