-- ==== Sys2Proof/Machine/Float.lean ====
section
/-!
DEFINITION. Machine/Float.lean: exact values, rounding, FP32 arithmetic, the element encodings and the riddle's functions (R91–R109).
A finite value is sign · m · 2^e; every rounding works on the exact magnitude as a ratio of naturals.
-/
namespace Sys2Proof.Machine

/-- A number as the arithmetic sees it: NaN, an infinity, or ±m·2^e (zeros keep their sign). -/
inductive Fp
  | nan
  | inf (neg : Bool)
  | num (neg : Bool) (m : Nat) (e : Int)
  deriving DecidableEq, Repr

/-- Rounding of a narrowing (R98): to nearest even, or stochastic with the generator bits [23:0] (R105). -/
inductive Rnd
  | rne
  | stoch (u : Nat)
  deriving DecidableEq, Repr

namespace Fp

def zero (neg : Bool := false) : Fp := .num neg 0 0

def isNan : Fp → Bool | .nan => true | _ => false
def isInf : Fp → Bool | .inf _ => true | _ => false
def isZero : Fp → Bool | .num _ 0 _ => true | _ => false
def sign : Fp → Bool | .nan => false | .inf s => s | .num s _ _ => s
def neg : Fp → Fp | .nan => .nan | .inf s => .inf !s | .num s m e => .num (!s) m e
def abs : Fp → Fp | .nan => .nan | .inf _ => .inf false | .num _ m e => .num false m e

/-- m·2^e as a ratio. -/
def ratio (m : Nat) (e : Int) : Nat × Nat := if 0 ≤ e then (m * 2 ^ e.toNat, 1) else (m, 2 ^ (-e).toNat)

/-- ±m·2^e on the exponent `e0 ≤ e`. -/
def onExp (s : Bool) (m : Nat) (e e0 : Int) : Int := let v : Int := m * 2 ^ (e - e0).toNat; if s then -v else v

/-- The exact product (R97). -/
def mulX (a b : Fp) : Fp :=
  match a, b with
  | .nan, _ | _, .nan => .nan
  | .inf s, .num t m _ => if m = 0 then .nan else .inf (s != t)
  | .num t m _, .inf s => if m = 0 then .nan else .inf (s != t)
  | .inf s, .inf t => .inf (s != t)
  | .num s m e, .num t n f => .num (s != t) (m * n) (e + f)

/-- The exact sum; an exact zero sum is +0 unless both terms are −0 (R94). -/
def addX (a b : Fp) : Fp :=
  match a, b with
  | .nan, _ | _, .nan => .nan
  | .inf s, .inf t => if s = t then .inf s else .nan
  | .inf s, .num _ _ _ => .inf s
  | .num _ _ _, .inf s => .inf s
  | .num s m e, .num t n f =>
    let g := min e f
    let v := onExp s m e g + onExp t n f g
    if v = 0 then .num (s && t) 0 0 else .num (decide (v < 0)) v.natAbs g

/-- a < b for numbers that are not NaN. -/
def lt (a b : Fp) : Bool :=
  match a, b with
  | .nan, _ | _, .nan => false
  | .inf s, .inf t => s && !t
  | .inf s, .num _ _ _ => s
  | .num _ _ _, .inf t => !t
  | .num s m e, .num t n f => let g := min e f; decide (onExp s m e g < onExp t n f g)

end Fp

/-! ### Formats (R91) -/

/-- A binary floating-point format: exponent and mantissa bits, bias, largest finite value as m·2^e, whether it has infinities, and NaN. -/
structure Fmt where
  ebits : Nat
  mant : Nat
  bias : Int
  maxM : Nat
  maxE : Int
  hasInf : Bool
  hasNan : Bool
  nanCode : Nat
  deriving DecidableEq, Repr

/-- The formats 0–6 of R91. -/
def fmtOf (f : Nat) : Fmt :=
  if f = 0 then ⟨8, 23, 127, 2 ^ 24 - 1, 104, true, true, 0x7FC00000⟩
  else if f = 1 then ⟨8, 7, 127, 2 ^ 8 - 1, 120, true, true, 0x7FC0⟩
  else if f = 2 then ⟨5, 10, 15, 2 ^ 11 - 1, 5, true, true, 0x7E00⟩
  else if f = 3 then ⟨4, 3, 7, 14, 5, false, true, 0x7F⟩
  else if f = 4 then ⟨5, 2, 15, 7, 13, true, true, 0x7E⟩
  else if f = 5 then ⟨3, 2, 3, 7, 2, false, false, 0⟩
  else ⟨2, 1, 1, 3, 1, false, false, 0⟩

/-- The exponent of the smallest normal value. -/
def Fmt.emin (f : Fmt) : Int := 1 - f.bias

/-- Bits of an element (R91). -/
def elemBits (f : Nat) : Nat := if f = 0 then 32 else if f = 1 ∨ f = 2 then 16 else if f = 5 then 6 else if f = 6 then 4 else 8

/-- The value that a bit pattern of a format encodes; INT8 is two's complement (R91, R99). -/
def decodeElem (f v : Nat) : Fp :=
  if f = 7 then let i := sext 8 v; .num (decide (i < 0)) i.natAbs 0
  else
    let F := fmtOf f
    let m := field v 0 F.mant
    let e := field v F.mant F.ebits
    let s := bit v (F.ebits + F.mant)
    let top := 2 ^ F.ebits - 1
    if e = 0 then .num s m (F.emin - F.mant)
    else if e = top ∧ F.hasInf then (if m = 0 then .inf s else .nan)
    else if e = top ∧ F.hasNan ∧ m = 2 ^ F.mant - 1 then .nan
    else .num s (m + 2 ^ F.mant) ((e : Int) - F.bias - F.mant)

/-- The bit pattern of ±m·2^e, a value of the format with m < 2^(mant + 1) or a power of two just above. -/
def encodeFin (F : Fmt) (s : Bool) (m : Nat) (e : Int) : Nat :=
  let m' := if m = 2 ^ (F.mant + 1) then 2 ^ F.mant else m
  let e' := if m = 2 ^ (F.mant + 1) then e + 1 else e
  b2n s * 2 ^ (F.ebits + F.mant) +
    (if m' < 2 ^ F.mant then m' else ((e' + F.mant + F.bias).toNat) * 2 ^ F.mant + (m' - 2 ^ F.mant))

/-! ### Rounding -/

/-- n / d ≥ 2^k. -/
def geExp2 (n d : Nat) (k : Int) : Bool := if 0 ≤ k then decide (d * 2 ^ k.toNat ≤ n) else decide (d ≤ n * 2 ^ (-k).toNat)

/-- ⌊log2 (n / d)⌋ for n, d > 0. -/
def floorLog2 (n d : Nat) : Int :=
  let k : Int := (Nat.log2 n : Int) - Nat.log2 d
  if geExp2 n d k then k else k - 1

/-- n / d in units of 2^q, rounded to a natural (R98, R105). -/
def roundUnit (n d : Nat) (q : Int) (r : Rnd) : Nat :=
  let num := if 0 ≤ q then n else n * 2 ^ (-q).toNat
  let den := if 0 ≤ q then d * 2 ^ q.toNat else d
  let lo := num / den
  let rem := num % den
  match r with
  | .rne => if 2 * rem > den ∨ (2 * rem = den ∧ lo % 2 = 1) then lo + 1 else lo
  | .stoch u => if rem ≠ 0 ∧ u < rem * 2 ^ 24 / den then lo + 1 else lo

/-- The magnitude n / d rounded to a format with an unbounded exponent range above and its subnormals below, as m·2^q. -/
def roundFmt (F : Fmt) (n d : Nat) (r : Rnd) : Nat × Int :=
  let q := max (floorLog2 n d - F.mant) (F.emin - F.mant)
  (roundUnit n d q r, q)

/-- m·2^q exceeds the largest finite value (R98). -/
def Fmt.over (F : Fmt) (m : Nat) (q : Int) : Bool :=
  let g := min q F.maxE
  decide (Fp.onExp false F.maxM F.maxE g < Fp.onExp false m q g)

/-- ±n/d rounded once to FP32, to nearest even. -/
def roundRatio (s : Bool) (n d : Nat) : Fp :=
  if n = 0 then .num s 0 0
  else
    let (m, q) := roundFmt (fmtOf 0) n d .rne
    if (fmtOf 0).over m q then .inf s else .num s m q

/-- An exact value rounded once to FP32, to nearest even. -/
def Fp.to32 : Fp → Fp
  | .nan => .nan
  | .inf s => .inf s
  | .num s m e => let (n, d) := Fp.ratio m e; roundRatio s n d

/-! ### FP32 operations (R95–R97, R108, R110) -/

def Fp.mul (a b : Fp) : Fp := (a.mulX b).to32
def Fp.add (a b : Fp) : Fp := (a.addX b).to32
def Fp.sub (a b : Fp) : Fp := (a.addX b.neg).to32
/-- Exact product and sum, one rounding (R95). -/
def Fp.fma (a b c : Fp) : Fp := ((a.mulX b).addX c).to32

/-- Correctly rounded division. -/
def Fp.div (a b : Fp) : Fp :=
  match a, b with
  | .nan, _ | _, .nan => .nan
  | .inf _, .inf _ => .nan
  | .inf s, .num t _ _ => .inf (s != t)
  | .num s _ _, .inf t => .num (s != t) 0 0
  | .num s m e, .num t n f =>
    if n = 0 then (if m = 0 then .nan else .inf (s != t))
    else
      let (a1, a2) := Fp.ratio m e
      let (b1, b2) := Fp.ratio n f
      roundRatio (s != t) (a1 * b2) (a2 * b1)

/-- The maximum of table 15: NaN if either is NaN, max(+0, −0) = +0. -/
def Fp.max (a b : Fp) : Fp :=
  if a.isNan ∨ b.isNan then .nan
  else if a.isZero ∧ b.isZero then .num (a.sign && b.sign) 0 0
  else if a.lt b then b else a

/-- The integer square root, by bits from `k` − 1 down. -/
def isqrtGo (n : Nat) : Nat → Nat → Nat
  | 0, acc => acc
  | k + 1, acc => let t := acc + 2 ^ k; isqrtGo n k (if t * t ≤ n then t else acc)

/-- ⌊√n⌋. -/
def isqrt (n : Nat) : Nat := isqrtGo n (Nat.log2 n / 2 + 1) 0

/-- √(n/d) rounded once to FP32: 400 bits below the point and a sticky bit decide every case. -/
def sqrtRatio (n d : Nat) : Fp :=
  if n = 0 then .num false 0 0
  else
    let w := n * 2 ^ 800 / d
    let r := isqrt w
    let exact := decide (r * r = w ∧ n * 2 ^ 800 % d = 0)
    roundRatio false (2 * r + b2n !exact) (2 * 2 ^ 400)

/-- Table 10, √x. -/
def Fp.sqrt (x : Fp) : Fp :=
  match x with
  | .nan => .nan
  | .inf s => if s then .nan else .inf false
  | .num s m e => if m = 0 then .num s 0 0 else if s then .nan else let (n, d) := Fp.ratio m e; sqrtRatio n d

/-- Table 9, 1 / √x. -/
def Fp.rsqrt (x : Fp) : Fp :=
  match x with
  | .nan => .nan
  | .inf s => if s then .nan else .num false 0 0
  | .num s m e => if m = 0 then .inf s else if s then .nan else let (n, d) := Fp.ratio m e; sqrtRatio d n

/-- FP32 from its word. -/
def f32 (w : Nat) : Fp := decodeElem 0 w

/-! ### Elementary functions (R108, R109): intervals of fixed point, refined until both ends round alike -/

/-- An interval [lo, hi] of non-negative numbers in units of 2^−p. -/
structure Ival where
  lo : Nat
  hi : Nat
  deriving DecidableEq, Repr

/-- Product of intervals, rounded outward. -/
def Ival.mul (p : Nat) (a b : Ival) : Ival := ⟨a.lo * b.lo / 2 ^ p, ceilDiv (a.hi * b.hi) (2 ^ p)⟩
/-- Quotient of intervals, rounded outward; `b` is positive. -/
def Ival.div (p : Nat) (a b : Ival) : Ival := ⟨a.lo * 2 ^ p / b.hi, ceilDiv (a.hi * 2 ^ p) b.lo⟩
def Ival.add (a b : Ival) : Ival := ⟨a.lo + b.lo, a.hi + b.hi⟩
def Ival.one (p : Nat) : Ival := ⟨2 ^ p, 2 ^ p⟩
/-- The ratio n/d. -/
def Ival.ofRatio (p n d : Nat) : Ival := ⟨n * 2 ^ p / d, ceilDiv (n * 2 ^ p) d⟩

/-- Σ_{k<n} r^k / k! with the running term, n = fuel terms. -/
def expTerms (p : Nat) (r : Ival) : Nat → Nat → Ival → Ival → Ival
  | 0, _, term, acc => acc.add ⟨0, 2 * term.hi⟩
  | fuel + 1, k, term, acc =>
    let t := term.mul p r
    expTerms p r fuel (k + 1) ⟨t.lo / (k + 1), ceilDiv t.hi (k + 1)⟩ (acc.add term)

/-- Repeated squaring. -/
def Ival.sqs (p : Nat) : Nat → Ival → Ival
  | 0, a => a
  | k + 1, a => Ival.sqs p k (a.mul p a)

/-- e^v for an interval v of [0, 256): v / 2^16 by its series, then 16 squarings. -/
def expI (p : Nat) (v : Ival) : Ival :=
  let r : Ival := ⟨v.lo / 2 ^ 16, ceilDiv v.hi (2 ^ 16)⟩
  Ival.sqs p 16 (expTerms p r (p / 8 + 4) 0 (Ival.one p) ⟨0, 0⟩)

/-- atanh z = Σ z^(2k+1) / (2k+1) for z ≤ 1/3. -/
def atanhTerms (p : Nat) (z2 : Ival) : Nat → Nat → Ival → Ival → Ival
  | 0, _, pow, acc => acc.add ⟨0, 2 * pow.hi⟩
  | fuel + 1, k, pow, acc =>
    atanhTerms p z2 fuel (k + 2) (pow.mul p z2) (acc.add ⟨pow.lo / k, ceilDiv pow.hi k⟩)

def atanhI (p : Nat) (z : Ival) : Ival := atanhTerms p (z.mul p z) (p / 3 + 4) 1 z ⟨0, 0⟩

/-- ln 2 = 2 atanh (1/3). -/
def ln2I (p : Nat) : Ival := let a := atanhI p (Ival.ofRatio p 1 3); ⟨2 * a.lo, 2 * a.hi⟩

/-- arctan (1/n) = Σ (−1)^k / ((2k+1) n^(2k+1)), as the sums of the terms of each sign. -/
def atanSums (p n : Nat) : Nat → Nat → Nat → Bool → Ival → Ival → Ival × Ival
  | 0, _, _, _, plus, minus => (plus, minus)
  | fuel + 1, k, den, s, plus, minus =>
    let t := Ival.ofRatio p 1 (k * den)
    atanSums p n fuel (k + 2) (den * n * n) (!s) (if s then plus else plus.add t) (if s then minus.add t else minus)

/-- arctan (1/n), with the error of the series cut off. -/
def atanInv (p n : Nat) : Ival :=
  let (a, b) := atanSums p n (p / 2 + 4) 1 n false ⟨0, 0⟩ ⟨0, 0⟩
  ⟨a.lo - b.hi - 2, a.hi - b.lo + 2⟩

/-- π = 16 arctan (1/5) − 4 arctan (1/239). -/
def piI (p : Nat) : Ival := let a := atanInv p 5; let b := atanInv p 239; ⟨16 * a.lo - 4 * b.hi, 16 * a.hi - 4 * b.lo⟩

/-- √(2/π). -/
def sqrt2OverPi (p : Nat) : Ival :=
  let q := (Ival.ofRatio p 2 1).div p (piI p)
  ⟨isqrt (q.lo * 2 ^ p), isqrt (q.hi * 2 ^ p) + 1⟩

/-- FP32 of an interval of magnitudes scaled by 2^−p, where both ends round alike. -/
def Ival.round? (p : Nat) (s : Bool) (a : Ival) : Option Fp :=
  let x := roundRatio s a.lo (2 ^ p)
  if x = roundRatio s a.hi (2 ^ p) then some x else none

/-- The first precision of the ladder that decides the rounding. Every transcendental case is decided by the last one (log entry 14). -/
def refine (f : Nat → Option Fp) (g : Fp) : List Nat → Fp
  | [] => g
  | p :: t => match f p with | some x => x | none => refine f g t

/-- The ladder of precisions. -/
def ladder : List Nat := [128, 256, 512, 1024]

/-- 1 / (1 + e^−v) for v = ±w: from e^w. -/
def sigmoidI (p : Nat) (s : Bool) (w : Ival) : Ival :=
  let e := expI p w
  if s then (Ival.one p).div p ((Ival.one p).add e)
  else ⟨e.lo * 2 ^ p / (2 ^ p + e.lo), ceilDiv (e.hi * 2 ^ p) (2 ^ p + e.hi)⟩

/-- |x| ≥ k for a finite value. -/
def absGe (m : Nat) (e : Int) (k : Nat) : Bool := let (n, d) := Fp.ratio m e; decide (k * d ≤ n)

/-- Table 6, e^x. -/
def Fp.exp (x : Fp) : Fp :=
  match x with
  | .nan => .nan
  | .inf s => if s then .num false 0 0 else .inf false
  | .num s m e =>
    if m = 0 then .num false 1 0
    else if absGe m e 128 then (if s then .num false 0 0 else .inf false)
    else
      let (n, d) := Fp.ratio m e
      let at_ (p : Nat) := let y := expI p (Ival.ofRatio p n d); if s then (Ival.one p).div p y else y
      refine (fun p => (at_ p).round? p false) (roundRatio false (at_ 1024).lo (2 ^ 1024)) ladder

/-- Table 4, 1 / (1 + e^−x). -/
def Fp.sigmoid (x : Fp) : Fp :=
  match x with
  | .nan => .nan
  | .inf s => if s then .num false 0 0 else .num false 1 0
  | .num s m e =>
    if m = 0 then .num false 1 (-1)
    else if absGe m e 128 then (if s then .num false 0 0 else .num false 1 0)
    else
      let (n, d) := Fp.ratio m e
      let at_ (p : Nat) := sigmoidI p s (Ival.ofRatio p n d)
      refine (fun p => (at_ p).round? p false) (roundRatio false (at_ 1024).lo (2 ^ 1024)) ladder

/-- x times an interval of [0, 1] in units of 2^−p, rounded where both ends agree. -/
def scaled? (p : Nat) (s : Bool) (m : Nat) (e : Int) (a : Ival) : Option Fp :=
  let (n, d) := Fp.ratio m e
  let x := roundRatio s (n * a.lo) (d * 2 ^ p)
  if x = roundRatio s (n * a.hi) (d * 2 ^ p) then some x else none

/-- Table 3, x / (1 + e^−x). -/
def Fp.silu (x : Fp) : Fp :=
  match x with
  | .nan => .nan
  | .inf s => if s then .num true 0 0 else .inf false
  | .num s m e =>
    if m = 0 then .num s 0 0
    else if absGe m e 128 then (if s then .num true 0 0 else x)
    else
      let (n, d) := Fp.ratio m e
      let at_ (p : Nat) := sigmoidI p s (Ival.ofRatio p n d)
      refine (fun p => scaled? p s m e (at_ p)) (roundRatio s (n * (at_ 1024).lo) (d * 2 ^ 1024)) ladder

/-- 2√(2/π)(|x| + 0.044715 |x|³) for the magnitude n/d. -/
def geluArg (p n d : Nat) : Ival :=
  let r := Ival.ofRatio p (n * (1000000 * d * d + 44715 * n * n)) (1000000 * d * d * d)
  let y := (sqrt2OverPi p).mul p r
  ⟨2 * y.lo, 2 * y.hi⟩

/-- Table 2, x · ½(1 + tanh(√(2/π)(x + 0.044715 x³))) = x / (1 + e^−2u). -/
def Fp.gelu (x : Fp) : Fp :=
  match x with
  | .nan => .nan
  | .inf s => if s then .num true 0 0 else .inf false
  | .num s m e =>
    if m = 0 then .num s 0 0
    else if absGe m e 16 then (if s then .num true 0 0 else x)
    else
      let (n, d) := Fp.ratio m e
      let at_ (p : Nat) := let w := geluArg p n d
        if 2 ^ (p + 8) ≤ w.hi then (if s then ⟨0, 1⟩ else ⟨2 ^ p - 1, 2 ^ p⟩) else sigmoidI p s w
      refine (fun p => scaled? p s m e (at_ p)) (roundRatio s (n * (at_ 1024).lo) (d * 2 ^ 1024)) ladder

/-- Table 5, tanh x = (e^2x − 1) / (e^2x + 1). -/
def Fp.tanh (x : Fp) : Fp :=
  match x with
  | .nan => .nan
  | .inf s => .num s 1 0
  | .num s m e =>
    if m = 0 then .num s 0 0
    else if absGe m e 32 then .num s 1 0
    else
      let (n, d) := Fp.ratio m e
      let at_ (p : Nat) := let y := expI p (Ival.ofRatio p (2 * n) d)
        (⟨(y.lo - 2 ^ p) * 2 ^ p / (y.lo + 2 ^ p), ceilDiv ((y.hi - 2 ^ p) * 2 ^ p) (y.hi + 2 ^ p)⟩ : Ival)
      refine (fun p => (at_ p).round? p s) (roundRatio s (at_ 1024).lo (2 ^ 1024)) ladder

/-- Table 7, ln x. -/
def Fp.ln (x : Fp) : Fp :=
  match x with
  | .nan => .nan
  | .inf s => if s then .nan else .inf false
  | .num s m e =>
    if m = 0 then .inf true
    else if s then .nan
    else
      let (n, d) := Fp.ratio m e
      if n = d then .num false 0 0
      else
        let k := floorLog2 n d
        let a := if 0 ≤ k then n else n * 2 ^ (-k).toNat
        let b := if 0 ≤ k then d * 2 ^ k.toNat else d
        -- x = 2^k · a/b with 1 ≤ a/b < 2
        let at_ (p : Nat) : Bool × Ival :=
          let z := atanhI p (Ival.ofRatio p (a - b) (a + b))
          let l : Ival := ⟨2 * z.lo, 2 * z.hi⟩
          let t : Ival := let h := ln2I p; ⟨k.natAbs * h.lo, k.natAbs * h.hi⟩
          if 0 ≤ k then (false, l.add t) else (true, ⟨t.lo - l.hi, t.hi - l.lo⟩)
        refine (fun p => (at_ p).2.round? p (at_ p).1) (roundRatio (at_ 1024).1 (at_ 1024).2.lo (2 ^ 1024)) ladder

/-- The unary riddle functions, by table index (R108). -/
def riddle1 (t : Nat) (x : Fp) : Fp :=
  if x.isNan then .nan
  else if t = 0 then x
  else if t = 1 then (if x.isZero ∨ x.sign then .num false 0 0 else x)
  else if t = 2 then x.gelu
  else if t = 3 then x.silu
  else if t = 4 then x.sigmoid
  else if t = 5 then x.tanh
  else if t = 6 then x.exp
  else if t = 7 then x.ln
  else if t = 8 then Fp.div (.num false 1 0) x
  else if t = 9 then x.rsqrt
  else if t = 10 then x.sqrt
  else x.mul x

/-- The binary riddle functions (R108). -/
def riddle2 (t : Nat) (a b : Fp) : Fp :=
  if t = 12 then a.add b else if t = 13 then a.sub b else if t = 14 then a.mul b else a.max b

end Sys2Proof.Machine
end

