-- ==== Sys2Proof/Machine/Memory.lean ====
section
/-!
DEFINITION. Machine/Memory.lean: the tiers as byte stores: device physical addresses, loft allotments, units out of service, poison, the host
port as a memory (R127–R142, R355–R357).
-/
namespace Sys2Proof.Machine

/-- A tier's code in descriptors and page entries (R68, R145). -/
def Tier.code : Tier → Nat
  | .loft => 0 | .crib => 1 | .grn => 2 | .host => 3

/-- The tier of a code. -/
def Tier.ofCode (n : Nat) : Tier :=
  if n % 4 = 0 then .loft else if n % 4 = 1 then .crib else if n % 4 = 2 then .grn else .host

/-- A byte together with its poison mark (R137). -/
abbrev MByte := Byte × Bool

/-- Bytes without poison. -/
def clean (l : List Byte) : List MByte := l.map (fun b => (b, false))

/-- Bytes in a loft slice (R129). -/
def sliceBytes : Nat := 2 ^ 22

/-- Bytes of the crib (R135). -/
def cribBytes : Nat := 12 * 2 ^ 36

/-- Granary channels of the variant (R136). -/
def Chip.channels (c : Chip) : Nat := if c.variant = .g then 16 else 32

/-- Bytes of the granary of the variant. -/
def Chip.grnBytes (c : Chip) : Nat := c.channels * 2 ^ 36

/-! ### Units in service -/

/-- Crib stack `n` is in service (R53). -/
def Chip.stackUp (c : Chip) (n : Nat) : Bool := bit (c.rd F.GLB_SVC_CRB_STACKS) n

/-- The channel of a granary address (R136). -/
def Chip.channelOf (c : Chip) (a : Nat) : Nat := a / 4096 % c.channels

/-- Granary channel `n` is in service. -/
def Chip.channelUp (c : Chip) (n : Nat) : Bool := bit (c.rd F.GLB_SVC_GRN_CHANNELS) n

/-- A PCIe port that is up: the module can reach host memory and signal MSI-X. -/
def Chip.hostUp (c : Chip) : Bool := c.on F.HST_STATUS_LINK_UP

/-- An MSI-X message of a function; with the link down it is lost (log entry 11). -/
def Chip.msix (c : Chip) (fn vector : Nat) : Chip := if c.hostUp then c.emit (.msix fn vector) else c

/-! ### Allotments (R131) -/

/-- The slices of a space's allotment. -/
def Chip.slices (c : Chip) (space : Nat) : List SliceLoc := Table.getD c.allot space []

/-- The slice and the byte offset within it of an allotment address, for an allotment of `s` slices (R131). -/
def sliceOf (s a : Nat) : Nat × Nat := (a / 64 % s, a / 64 / s * 64 + a % 64)

/-- The spill-region address of slice `j` of instance `i` (R133). -/
def Chip.spillAddr (c : Chip) (i j : Nat) : Nat := c.rd F.LFT_SPILL_BASE 0 i * sliceBytes + j * sliceBytes

/-- A stead or fallow almanac is RUNNING or HELD. -/
def Chip.steadOwns (c : Chip) : Bool := [0, 1].any (fun n => let s := (Table.getD c.ctxs n ({} : Ctx)).st; s == .running || s == .held)

/-- Physical slices that hold no allotment, lowest first; the stead allotment holds its slices while a stead or fallow almanac is RUNNING or HELD (R88). -/
def Chip.freeSlices (c : Chip) : List Nat :=
  (List.range 384).filter (fun p => ! c.allot.any (fun e => (decide (e.1 < 512) || c.steadOwns) && e.2.contains (.resident p)))

/-- A physical slice is taken by an instance: a stead allotment that holds it no longer loses it, and its slice there has no defined content. -/
def Chip.takeSlice (c : Chip) (p : Nat) : Chip :=
  if (c.slices 512).contains (.resident p) then
    { c with freeCtr := c.freeCtr + 1
             allot := Table.insert 512 ((c.slices 512).map (fun l => if l = .resident p then .unheld c.freeCtr else l)) c.allot }
  else c

/-! ### Reading and writing a tier -/

/-- One byte at a tier-relative address, poisoned where its word is or where its unit is out of service (R139). `space` names the allotment
of a loft address; a slice not yet placed reads 0, one of a stead allotment that is not held reads free bytes. -/
def Chip.byteAt (c : Chip) (t : Tier) (space a : Nat) : MByte :=
  match t with
  | .crib => if c.stackUp (a / 2 ^ 36) then (c.crib.get a, c.crib.poisoned a 1) else (0, true)
  | .grn => if c.channelUp (c.channelOf a) then (c.grn.get a, c.grn.poisoned a 1) else (0, true)
  | .host => if c.hostUp then (c.host.get a, c.host.poisoned a 1 || c.hostBad.any (fun r => decide (r.1 ≤ a) && decide (a < r.1 + r.2))) else (0, true)
  | .loft =>
    let sl := c.slices space
    let (j, o) := sliceOf sl.length a
    match sl[j]? with
    | some (.resident p) => (c.loft.get (p * sliceBytes + o), c.loft.poisoned (p * sliceBytes + o) 1)
    | some .spilled =>
      let x := c.spillAddr space j + o
      if c.stackUp (x / 2 ^ 36) then (c.crib.get x, c.crib.poisoned x 1) else (0, true)
    | some (.unheld t) => (Config.undefByte t a, false)
    | _ => (0, false)

/-- The units out of service that an access [a, a + n) of a tier touches, as fault sources (R139); of a loft address in an allotment, the stacks of its
spilled slices. -/
def Chip.downUnits (c : Chip) (t : Tier) (a n : Nat) (space : Nat := 0) : List Nat :=
  match t with
  | .crib => ((List.range (ceilDiv (a % 2 ^ 36 + n) (2 ^ 36))).map (fun k => a / 2 ^ 36 + k)).filter (fun s => s < 12 && !c.stackUp s) |>.map Flt.crib
  | .grn =>
    let chans := ((List.range (min c.channels (ceilDiv (a % 4096 + n) 4096))).map (fun k => c.channelOf (a + k * 4096))).filter
      (fun k => !c.channelUp k)
    ((List.range 8).filter (fun p => chans.any (fun k => k / 4 == p))).map Flt.grn
  | .loft =>
    let sl := c.slices space
    let spilled := (List.range (min sl.length (ceilDiv (a % 64 + n) 64))).filterMap (fun k =>
      let j := (a / 64 + k) % sl.length
      if sl[j]? = some .spilled then some (c.spillAddr space j / 2 ^ 36) else none)
    ((List.range 12).filter (fun s => spilled.contains s && !c.stackUp s)).map Flt.crib
  | .host => []

/-- An access counts one event in the source of each out-of-service unit it touches (R139); a host access with the link down is a read
that times out (R357). -/
def Chip.touch (c : Chip) (t : Tier) (a n : Nat) (space : Nat := 0) : Chip := (c.downUnits t a n space).foldl Chip.event c

/-- A host read that fails raises the host-link source and counts in HST (R357): 1 Unsupported Request, 2 Completer Abort, 3 timeout, 4 poison. -/
def Chip.hostReadBad (c : Chip) (kind : Nat) : Chip :=
  let c := c.event Flt.hostLink
  if kind = 3 then c.count F.HST_CPL_TIMEOUT_COUNT
  else if kind = 4 then c.count F.HST_POISON_RX_COUNT
  else c.count F.HST_CPL_ERR_COUNT

/-- Read `n` bytes of a tier, with the effects the access itself has. A read of host memory takes the bad completions that met it (`hostBad`,
HOST_READ_ERROR). -/
def Chip.tierRead (c : Chip) (t : Tier) (space a n : Nat) : List MByte × Chip :=
  let data := (List.range n).map (fun k => c.byteAt t space (a + k))
  let c := c.touch t a n space
  let c := if t = .host ∧ n ≠ 0 then
      let c := if !c.hostUp then c.hostReadBad 3 else if c.host.poisoned a n then c.hostReadBad 4 else c
      { c with hostBad := c.hostBad.filter (fun r => !(decide (r.1 < a + n) && decide (a < r.1 + r.2))) }
    else c
  (data, c)

/-- Poison of the words that a write of `data` at `a` touches (R137): a poisoned byte poisons its word, a clean write of the whole word clears
it, anything else leaves the mark. -/
def Mem.poisonAfter (m : Mem) (a : Nat) (data : List MByte) : Mem :=
  (wordsTouched a data.length).foldl (fun m w =>
    let part := (data.drop (w - a)).take (if a ≤ w then 64 else w + 64 - a)
    if part.any (·.2) then m.setPoison w 64
    else if a ≤ w ∧ w + 64 ≤ a + data.length then m.clearPoison w 64
    else m) m

/-- Store marked bytes. -/
def Mem.store (m : Mem) (a : Nat) (data : List MByte) : Mem := (m.write a (data.map (·.1))).poisonAfter a data

/-- A window is in use and covers PCIe address `a` (R363). -/
def Chip.p2pWindow (c : Chip) (a : Nat) : Option Nat :=
  (List.range 16).find? (fun w => c.on F.HST_P2P_CTRL_VALID 0 w &&
    a / 2 ^ c.rd F.HST_P2P_CTRL_LOG2 0 w == c.rd F.HST_P2P_BASE_BASE 0 w * 4096 / 2 ^ c.rd F.HST_P2P_CTRL_LOG2 0 w)

/-- HST_P2P_STATUS.STATE (R363). -/
def Chip.p2pState (c : Chip) (w : Nat) : Nat := c.rd F.HST_P2P_STATUS_STATE 0 w

/-- Some valid window meets [a, a + n) and satisfies `p` of its state (R364). -/
def Chip.p2pMeets (c : Chip) (a n : Nat) (p : Nat → Bool) : Bool :=
  (List.range 16).any (fun w =>
    let size := 2 ^ c.rd F.HST_P2P_CTRL_LOG2 0 w
    let base := c.rd F.HST_P2P_BASE_BASE 0 w * 4096 / size * size
    c.on F.HST_P2P_CTRL_VALID 0 w && decide (a < base + size) && decide (base < a + n) && p (c.p2pState w))

/-- A slice of an instance that is not placed yet gets its place in the spill region, all zero (log entry 12). -/
def Chip.placeBlank (c : Chip) (space j : Nat) : Chip :=
  { c with crib := c.crib.zero (c.spillAddr space j) sliceBytes
           allot := Table.insert space ((c.slices space).set j .spilled) c.allot }

/-- Write one run of bytes that lies within one 64-byte word of an allotment (R131). -/
def Chip.loftWrite (c : Chip) (space a : Nat) (data : List MByte) : Chip :=
  let sl := c.slices space
  let (j, o) := sliceOf sl.length a
  let c := if sl[j]? = some .blank then c.placeBlank space j else c
  match (c.slices space)[j]? with
  | some (.resident p) => { c with loft := c.loft.store (p * sliceBytes + o) data }
  | some .spilled =>
    let x := c.spillAddr space j + o
    if c.stackUp (x / 2 ^ 36) then { c with crib := c.crib.store x data } else c
  | _ => c

/-- Cut a run of bytes at multiples of `u`. -/
def chunks (u a : Nat) (data : List MByte) : Nat → List (Nat × List MByte)
  | 0 => []
  | fuel + 1 =>
    if data = [] then [] else
    let n := u - a % u
    (a, data.take n) :: chunks u (a + n) (data.drop n) fuel

/-- Store bytes in a tier: dropped where the unit is out of service (R139), where the host link is down, and in a BLOCKED peer window (R364). -/
def Chip.tierPut (c : Chip) (t : Tier) (space a : Nat) (data : List MByte) : Chip :=
  match t with
  | .crib => (chunks (2 ^ 36) a data (data.length + 1)).foldl (fun c (x, d) =>
      if c.stackUp (x / 2 ^ 36) then { c with crib := c.crib.store x d } else c) c
  | .grn => (chunks 4096 a data (data.length + 1)).foldl (fun c (x, d) =>
      if c.channelUp (c.channelOf x) then { c with grn := c.grn.store x d } else c) c
  | .loft => (chunks 64 a data (data.length + 1)).foldl (fun c (x, d) => c.loftWrite space x d) c
  | .host =>
    if !c.hostUp then c
    else match c.p2pWindow a with
      | some w => if c.p2pState w = 3 then c.count F.HST_P2P_DROP_COUNT else { c with host := c.host.store a data }
      | none => { c with host := c.host.store a data }

/-- A write of a tier: one access of each unit it touches, and its bytes. -/
def Chip.tierWrite (c : Chip) (t : Tier) (space a : Nat) (data : List MByte) : Chip := (c.touch t a data.length space).tierPut t space a data

/-! ### Memory errors (R137) -/

/-- ECC_UNCORRECTABLE and corrected errors: counted; an uncorrectable one poisons the word, records the first address and raises the source. -/
def Chip.memError (c : Chip) (e : MemErr) : Chip :=
  match e.tier with
  | .loft =>
    if e.corrected then c.count F.LFT_ECC_CORR_COUNT
    else { (c.count F.LFT_ECC_UNCORR_COUNT).event Flt.loft with loft := c.loft.setPoison e.addr 1 }
  | .crib =>
    let n := e.addr / 2 ^ 36
    if e.corrected then c.count F.CRB_ECC_CORR_COUNT 1 n
    else
      let c : Chip := { c with crib := c.crib.setPoison e.addr 1 }
      let c := if c.on F.CRB_ERR_ADDR_VALID n then c
        else (c.wr F.CRB_ERR_ADDR_VALID 1 n).wr F.CRB_ERR_ADDR_ADDR e.addr n
      (c.count F.CRB_ECC_UNCORR_COUNT 1 n).event (Flt.crib n)
  | .grn =>
    let n := c.channelOf e.addr / 4
    if e.corrected then c.count F.GRN_ECC_CORR_COUNT 1 n
    else
      let c : Chip := { c with grn := c.grn.setPoison e.addr 1 }
      let c := if c.on F.GRN_ERR_ADDR_VALID n then c
        else (c.wr F.GRN_ERR_ADDR_VALID 1 n).wr F.GRN_ERR_ADDR_ADDR e.addr n
      (c.count F.GRN_ECC_UNCORR_COUNT 1 n).event (Flt.grn n)
  | .host => c

/-! ### Device physical addresses (R127) -/

/-- The tier and tier-relative address of a device physical address; a loft address is the physical slice address. -/
def Chip.dpa (c : Chip) (a : Nat) : Option (Tier × Nat) :=
  if a < cribBytes then some (.crib, a)
  else if 2 ^ 40 ≤ a ∧ a < 2 ^ 40 + 384 * sliceBytes then some (.loft, a - 2 ^ 40)
  else if 2 ^ 41 ≤ a ∧ a < 2 ^ 41 + c.grnBytes then some (.grn, a - 2 ^ 41)
  else none

/-- Read device memory at a device physical address. -/
def Chip.dpaRead (c : Chip) (t : Tier) (a n : Nat) : List MByte × Chip :=
  if t = .loft then ((List.range n).map (fun k => (c.loft.get (a + k), c.loft.poisoned (a + k) 1)), c) else c.tierRead t 0 a n

/-- Store bytes at a device physical address. -/
def Chip.dpaPut (c : Chip) (t : Tier) (a : Nat) (data : List MByte) : Chip :=
  if t = .loft then { c with loft := c.loft.store a data } else c.tierPut t 0 a data

/-- The runs of bytes that a write with byte enables stores: each with its offset (R137: a run is one write). -/
def enabledRuns : Nat → List (Option Byte) → List (Nat × List Byte)
  | _, [] => []
  | k, none :: t => enabledRuns (k + 1) t
  | k, some b :: t => match enabledRuns (k + 1) t with
    | (j, l) :: r => if j = k + 1 then (k, b :: l) :: r else (k, [b]) :: (j, l) :: r
    | [] => [(k, [b])]

end Sys2Proof.Machine
end

