-- ==== Sys2Proof/Machine/Translate.lean ====
section
/-!
DEFINITION. Machine/Translate.lean: address spaces, page-table walks, the translation cache, fault requests and their replies, invalidates
and frame pools (R143–R164, R169, R170).
-/
namespace Sys2Proof.Machine

/-- An almanac context as it stands. -/
def Chip.ctx (c : Chip) (n : Nat) : Ctx := Table.getD c.ctxs n {}

/-- `c` with context `n` as given. -/
def Chip.setCtx (c : Chip) (n : Nat) (x : Ctx) : Chip := { c with ctxs := Table.setD c.ctxs n {} x }

/-- Change a context. -/
def Chip.onCtx (c : Chip) (n : Nat) (f : Ctx → Ctx) : Chip := c.setCtx n (f (c.ctx n))

/-- A space as it stands. -/
def Chip.space (c : Chip) (s : Nat) : Space := Table.getD c.spaces s {}

/-- `c` with space `s` as given. -/
def Chip.setSpace (c : Chip) (s : Nat) (x : Space) : Chip := { c with spaces := Table.setD c.spaces s {} x }

/-- The stead address space (R143). -/
def steadSpace : Nat := 512

/-- Slices of a space's allotment as translation sees it (R131): LFT_QUOTA, or LOFT_SLICES of the HEAD in context 0. -/
def Chip.allotSize (c : Chip) (space : Nat) : Nat :=
  if space = steadSpace then match (c.ctx 0).head with | some h => h.loftSlices | none => 0
  else c.rd F.LFT_QUOTA_QUOTA 0 space

/-! ### Page entries (R145, R146) -/

def Pte.v (e : Nat) : Bool := bit e 0
def Pte.leaf (e : Nat) : Bool := bit e 1
def Pte.r (e : Nat) : Bool := bit e 2
def Pte.w (e : Nat) : Bool := bit e 3
def Pte.at (e : Nat) : Bool := bit e 4
def Pte.hr (e : Nat) : Bool := bit e 5
def Pte.tier (e : Nat) : Tier := Tier.ofCode (field e 6 2)
def Pte.addr (e : Nat) : Nat := field e 8 49 * 256

/-- The lowest address bit a level's index starts at (R144). -/
def levelShift (level : Nat) : Nat := if level = 3 then 39 else if level = 2 then 30 else if level = 1 then 21 else 16

/-- Bytes that a leaf at a level maps (R144). -/
def levelBytes (level : Nat) : Nat := 2 ^ levelShift level

/-- Entries of a table of a level (R144). -/
def levelEntries (level : Nat) : Nat := if level = 3 then 262144 else if level = 0 then 32 else 512

/-- The malformed cases of R146 for a valid entry at a level of a space. -/
def Chip.pteMalformed (c : Chip) (space level e : Nat) : Bool :=
  field e 61 3 != 0 || (level == 0 && !Pte.leaf e) ||
  (if Pte.leaf e then
    Pte.addr e % levelBytes level != 0 ||
    (match Pte.tier e with
      | .crib => decide (cribBytes < Pte.addr e + levelBytes level)
      | .grn => decide (c.grnBytes < Pte.addr e + levelBytes level)
      | .loft => decide (levelBytes level > 2 ^ 21 ∨ c.allotSize space * sliceBytes < Pte.addr e + levelBytes level)
      | .host => Pte.at e)
  else
    let size := 8 * levelEntries (level - 1)
    Pte.addr e % size != 0 || decide (cribBytes < Pte.addr e + size))

/-- How a walk ends (R145, R146). -/
inductive WalkEnd
  | leaf (level pte : Nat)
  | absent (level : Nat)
  | hostResolve (level : Nat)
  | malformed (level : Nat)
  deriving DecidableEq, Repr

/-- The walk of the device copy from a table at `tbl` of `level`, with the valid entries read on the way, newest first. -/
def Chip.walkFrom (c : Chip) (space va : Nat) : Nat → Nat → List XEnt → WalkEnd × List XEnt
  | level, tbl, path =>
    let go (e : Nat) (poisoned : Bool) (next : Unit → WalkEnd × List XEnt) : WalkEnd × List XEnt :=
      if poisoned then (.malformed level, path)
      else if !Pte.v e then (.absent level, path)
      else if c.pteMalformed space level e then (.malformed level, path)
      else if Pte.hr e then (.hostResolve level, path)
      else if Pte.leaf e then (.leaf level e, ⟨space, level, va / levelBytes level, e, false⟩ :: path)
      else next ()
    let raw := (List.range 8).map (fun k => c.byteAt .crib space (tbl + 8 * (va / levelBytes level % levelEntries level) + k))
    let e := ofLE (raw.map (·.1))
    match level with
    | 0 => go e (raw.any (·.2)) (fun _ => (.malformed 0, path))
    | l + 1 => go e (raw.any (·.2)) (fun _ => c.walkFrom space va l (Pte.addr e) (⟨space, l + 1, va / levelBytes (l + 1), e, false⟩ :: path))

/-- The walk of the device copy for an address of a space (R143, R144); none where the space translates nothing or lacks the address. -/
def Chip.walk (c : Chip) (space va : Nat) : Option (WalkEnd × List XEnt) :=
  if 2 ^ 57 ≤ va ∨ ¬ c.on F.XLT_SPACE_CTRL_ENABLE 0 space ∨ 512 < space then none
  else some (c.walkFrom space va 3 (c.rd F.XLT_ROOT_BASE 0 space * 2 ^ 21) [])

/-! ### The cache (R148) -/

/-- The stack out of service at which a walk ends, if one does: it reads no entry there (R139). -/
def Chip.walkDown (c : Chip) (va : Nat) : Nat → Nat → Option Nat
  | level, tbl =>
    let a := tbl + 8 * (va / levelBytes level % levelEntries level)
    let e := ofLE ((List.range 8).map (fun k => c.crib.get (a + k)))
    if !c.stackUp (a / 2 ^ 36) then some (a / 2 ^ 36)
    else match level with
      | 0 => none
      | l + 1 => if Pte.v e && !Pte.hr e && !Pte.leaf e then c.walkDown va l (Pte.addr e) else none

/-- A walk's accesses to a stack out of service are events of its source (R139). -/
def Chip.walkTouch (c : Chip) (space va : Nat) : Chip :=
  match c.walkDown va 3 (c.rd F.XLT_ROOT_BASE 0 space * 2 ^ 21) with
  | some n => if n < 12 then c.event (Flt.crib n) else c
  | none => c

/-- The cached leaf that covers an address. -/
def Chip.cachedLeaf (c : Chip) (space va : Nat) : Option XEnt :=
  c.xcache.find? (fun e => e.space == space && Pte.leaf e.pte && e.idx == va / levelBytes e.level)

/-- The leaf that an engine's own cache holds for an address (R164). -/
def Chip.engLeaf (c : Chip) (g : Engine) (space va : Nat) : Option XEnt :=
  (c.engCache.find? (fun e => e.1 == g && e.2.space == space && e.2.idx == va / levelBytes e.2.level)).map (·.2)

/-- The engine of a REQUESTER code (R155). -/
def engineOf (requester : Nat) : Engine := if requester ≤ 1 then .thresher else if requester = 2 then .combine else .rme

/-- The engines of an ACCESSED_BY set: bit 0 thresher unit and mover, bit 1 combine engine, bit 2 RME. -/
def enginesOf (by3 : Nat) : List Engine :=
  (if bit by3 0 then [.thresher] else []) ++ (if bit by3 1 then [.combine] else []) ++ (if bit by3 2 then [.rme] else [])

/-- An entry becomes the most recently used. -/
def Chip.cacheTouch (c : Chip) (e : XEnt) : Chip := { c with xcache := e :: c.xcache.filter (· ≠ e) }

/-- Drop the least recently used entry that is not pinned. -/
def dropLru (l : List XEnt) : List XEnt :=
  match l.reverse.find? (fun e => !e.pin) with
  | some e => l.erase e
  | none => l

/-- Load an entry after a miss: it replaces the least recently used one that is not pinned once 32,768 are held. -/
def Chip.cacheLoad (c : Chip) (e : XEnt) : Chip :=
  let l := c.xcache.filter (fun x => ¬ (x.space = e.space ∧ x.level = e.level ∧ x.idx = e.idx))
  let l := if 32768 ≤ l.length then dropLru l else l
  { c with xcache := if l.length < 32768 then e :: l else l }

/-- The hint range that covers a page of a space. -/
def Chip.hintAt (c : Chip) (space va : Nat) : Option Hint :=
  (c.space space).hints.find? (fun h => h.lo ≤ va / 2 ^ 16 && va / 2 ^ 16 < h.hi)

/-- Pins held (R148). -/
def Chip.pins (c : Chip) : Nat := (c.xcache.filter (·.pin)).length

/-- Load what a walk read; a leaf under a READ_MOSTLY hint without WILL_NOT_NEED is pinned while fewer than 4,096 pins are held (R164). -/
def Chip.loadPath (c : Chip) (path : List XEnt) : Chip :=
  path.reverse.foldl (fun c e =>
    let want := Pte.leaf e.pte && (match c.hintAt e.space (e.idx * levelBytes e.level) with | some h => h.readMostly && !h.wnn | none => false)
    c.cacheLoad { e with pin := want && decide (c.pins < 4096) }) c

/-! ### Results -/

/-- What an address translates to for one access: a place and the address where its page ends, or why not. -/
inductive XRes
  | ok (tier : Tier) (addr : Nat) (pageEnd : Nat)
  | right
  | outside
  | fault (cause level : Nat)
  deriving DecidableEq, Repr

/-- Cause codes of a fault request (R155). -/
def Cause.absent : Nat := 0
def Cause.hostResolve : Nat := 1
def Cause.malformed : Nat := 2
def Cause.notice : Nat := 3

/-- The result for a leaf (R147): atomics need AT on a crib or granary page. -/
def leafRes (level pte va : Nat) (a : Acs) : XRes :=
  let ok : Bool := match a with
    | .read => Pte.r pte
    | .write => Pte.w pte
    | .atomic => Pte.at pte && (Pte.tier pte == .crib || Pte.tier pte == .grn)
  if ok then .ok (Pte.tier pte) (Pte.addr pte + va % levelBytes level) ((va / levelBytes level + 1) * levelBytes level) else .right

/-- The result of a walk's end. -/
def WalkEnd.res (w : WalkEnd) (va : Nat) (a : Acs) : XRes :=
  match w with
  | .leaf l e => leafRes l e va a
  | .absent l => .fault Cause.absent l
  | .hostResolve l => .fault Cause.hostResolve l
  | .malformed l => .fault Cause.malformed l

/-- A translation without any effect on the cache or the counters: the cached leaf, else the device copy. -/
def Chip.look (c : Chip) (space va : Nat) (a : Acs) : XRes :=
  match (if c.on F.XLT_SPACE_CTRL_ENABLE 0 space then c.cachedLeaf space va else none) with
  | some e => leafRes e.level e.pte va a
  | none => match c.walk space va with
    | none => .outside
    | some (w, _) => w.res va a

/-- A translation by the device copy alone, as admission's proof of operand mappings makes it (R148). -/
def Chip.lookDevice (c : Chip) (space va : Nat) (a : Acs) : XRes :=
  match c.walk space va with
  | none => .outside
  | some (w, _) => w.res va a

/-- A malformed entry met by a walk is counted and raises source XLT_STEAD (R146, R406). -/
def Chip.noteMalformed (c : Chip) (r : XRes) : Chip :=
  match r with
  | .fault cause _ => if cause = Cause.malformed then (c.count F.XLT_WALK_ERR_COUNT).event Flt.xltStead else c
  | _ => c

/-- A translation by a requester: a hit in its engine's own cache or the shared one, or a walk that counts in XLT_MISSES and loads what it read
(R148, R164). The event of a malformed entry is left to the caller. -/
def Chip.xlateQuiet (c : Chip) (space va : Nat) (a : Acs) (eng : Option Engine := none) : XRes × Chip :=
  let on_ := c.on F.XLT_SPACE_CTRL_ENABLE 0 space
  match (if on_ then eng.bind (fun g => c.engLeaf g space va) else none), (if on_ then c.cachedLeaf space va else none) with
  | some e, _ => (leafRes e.level e.pte va a, c)
  | none, some e => (leafRes e.level e.pte va a, c.cacheTouch e)
  | none, none =>
    match c.walk space va with
    | none => (.outside, c)
    | some (w, path) => (w.res va a, ((c.count F.XLT_MISSES_COUNT).walkTouch space va).loadPath path)

/-- A translation by an engine, with the event of a malformed entry (R146). -/
def Chip.xlate (c : Chip) (space va : Nat) (a : Acs) (eng : Option Engine := none) : XRes × Chip :=
  let (r, c) := c.xlateQuiet space va a eng
  (r, c.noteMalformed r)

/-! ### Fault requests (R154–R157) -/

/-- Ring full (R156). -/
def Chip.fqFull (c : Chip) (s : Nat) : Bool :=
  subMod 32 (c.rd F.XLT_FQ_PROD_INDEX 0 s) (c.rd F.XLT_FQ_CONS_INDEX 0 s) == 2 ^ c.rd F.XLT_FQ_SIZE_LOG2 0 s

/-- Pending messages of a space (R157): not yet written, or written and not yet answered. -/
def Space.pend (x : Space) : Nat := x.queue.length + x.opened.length

/-- A new message finds a place (R157): the ring is not full, fewer than 64 are pending, and none waits before it. -/
def Chip.fqRoom (c : Chip) (s : Nat) : Bool := !c.fqFull s && decide ((c.space s).pend < 64) && (c.space s).waiting == []

/-- Messages that wait on chip take the places that are free, in arrival order (R157). -/
def Chip.fqRefill (c : Chip) (s : Nat) : Chip :=
  let x := c.space s
  let n := if c.fqFull s then 0 else 64 - x.pend
  c.setSpace s { x with queue := x.queue ++ x.waiting.take n, waiting := x.waiting.drop n }

/-- A message that waits for a place or takes one; it is never dropped. -/
def Chip.fqPut (c : Chip) (s : Nat) (q : FReq) : Chip :=
  let x := c.space s
  c.setSpace s (if c.fqRoom s then { x with queue := x.queue ++ [q] } else { x with waiting := x.waiting ++ [q] })

/-- The outstanding request for the page of `va`, joined: COUNT saturates, the requester waits with it. -/
def joinReq (va : Nat) (stall : Bool) (w : Waiter) (q : FReq) : FReq :=
  if q.cause ≠ Cause.notice ∧ q.va / 2 ^ 16 = va / 2 ^ 16 then
    { q with count := min 65535 (q.count + 1), stalled := q.stalled || stall, joined := if stall then q.joined ++ [w] else q.joined }
  else q

/-- A fault of a walk (R154): it joins the outstanding request of its page, or becomes a request of its own; without a place in the queue one with
STALLED = 0 is dropped and another waits on chip (R157). Its COUNT is 1: the first fault counts (DEDUCED, log entry 206). Answers whether the
requester now waits. -/
def Chip.sendFault (c : Chip) (space va : Nat) (a : Acs) (cause level requester : Nat) (stall : Bool) (w : Waiter) : Bool × Chip :=
  if !c.on F.XLT_SPACE_CTRL_FQ_EN 0 space then (false, c)
  else
    let x := c.space space
    let stall := stall && cause != Cause.malformed
    let same := fun (q : FReq) => q.cause != Cause.notice && q.va / 2 ^ 16 == va / 2 ^ 16
    if x.queue.any same || x.opened.any same || x.waiting.any same then
      (stall, c.setSpace space { x with
        queue := x.queue.map (joinReq va stall w), opened := x.opened.map (joinReq va stall w), waiting := x.waiting.map (joinReq va stall w) })
    else if !stall && !c.fqRoom space then (false, c.count F.XLT_FQ_DROP_COUNT)
    else
      (stall, c.fqPut space { va := va, acs := a, cause := cause, stalled := stall, requester := requester, level := level, count := 1,
                              beat := c.beat, joined := if stall then [w] else [] })

/-- A translation by an engine, with the fault request its failure sends. The last part says whether the access now waits for a reply. -/
def Chip.xlateFault (c : Chip) (space va : Nat) (a : Acs) (requester : Nat) (stall : Bool) (w : Waiter) : XRes × Bool × Chip :=
  let (r, c) := c.xlate space va a (some (engineOf requester))
  match r with
  | .fault cause level =>
    let (wait, c) := c.sendFault space va a cause level requester stall w
    (r, wait, c)
  | _ => (r, false, c)

/-- A notice (R155, R160, R162): it is never dropped. Its COUNT is 1, as no fault joins it (DESIGN CHOICE, log entry 206). -/
def Chip.notice (c : Chip) (space va pages kind : Nat) (t : Tier) : Chip :=
  c.fqPut space ⟨va, .read, Cause.notice, false, 0, 0, 1, c.beat, pages, kind, t.code, [], 0, 0⟩

/-- The 32 bytes of a message (R155). -/
def Chip.faultMsg (c : Chip) (space : Nat) (q : FReq) : List Byte :=
  let h := c.hintAt space q.va
  let tier := match h with | some x => x.pref | none => none
  toLE 2 q.id ++
  toLE 2 (space + (match q.acs with | .read => 0 | .write => 1 | .atomic => 2) * 2 ^ 10 + q.cause * 2 ^ 12 + b2n q.stalled * 2 ^ 14) ++
  toLE 2 (if q.cause = Cause.notice then 0 else
    q.requester + q.level * 16 + (match tier with | some t => t.code * 64 + 256 | none => 0)) ++
  toLE 2 q.count ++ toLE 8 q.va ++ toLE 8 q.beat ++ toLE 4 q.pages ++ toLE 4 (q.kind + q.ntier * 4)

/-- FAULT_QUEUE_WRITE (R156): the oldest waiting message goes to the ring, PROD advances, vector 1 of the PF is signalled. -/
def Chip.faultQueueWrite (c : Chip) (space : Nat) : Chip :=
  let c := c.fqRefill space
  let x := c.space space
  match x.queue with
  | [] => c
  | q :: rest =>
    if !c.on F.XLT_SPACE_CTRL_FQ_EN 0 space || c.fqFull space then c
    else
      let q := { q with id := x.nextId, written := c.beat }
      let prod := c.rd F.XLT_FQ_PROD_INDEX 0 space
      let at_ := c.rd F.XLT_FQ_BASE_BASE 0 space * 4096 + prod % 2 ^ c.rd F.XLT_FQ_SIZE_LOG2 0 space * 32
      let c := c.tierWrite .host space at_ (clean (c.faultMsg space q))
      let c := c.wr F.XLT_FQ_PROD_INDEX (prod + 1) 0 space
      let c := c.setSpace space { x with
        nextId := (x.nextId + 1) % 65536, queue := rest, opened := if q.stalled then x.opened ++ [q] else x.opened }
      (c.fqRefill space).msix 0 1

/-- FQ_CONS_WRITE (R156): the consumer index moves, or the write is ignored with CONS_ERR. -/
def Chip.fqConsWrite (c : Chip) (space v : Nat) : Chip :=
  if subMod 32 (c.rd F.XLT_FQ_PROD_INDEX 0 space) (v % 2 ^ 32) ≤ 2 ^ c.rd F.XLT_FQ_SIZE_LOG2 0 space then
    (c.wr F.XLT_FQ_CONS_INDEX v 0 space).fqRefill space
  else c.wr F.XLT_FQ_STATUS_CONS_ERR 1 0 space

/-! ### Reading and writing by virtual address -/

/-- The runs [va, va + n) that lie within one 64 KiB page each. -/
def pageRuns (va n : Nat) : Nat → List (Nat × Nat)
  | 0 => []
  | fuel + 1 =>
    if n = 0 then [] else
    let k := min n (2 ^ 16 - va % 2 ^ 16)
    (va, k) :: pageRuns (va + k) (n - k) fuel

/-- The runs of a range. -/
def runs (va n : Nat) : List (Nat × Nat) := pageRuns va n (n / 2 ^ 16 + 2)

/-- Bytes at a virtual address as an engine reads them: zero where the translation fails (R149). -/
def Chip.vaRead (c : Chip) (space va n : Nat) : List MByte × Chip :=
  (runs va n).foldl (fun (acc : List MByte × Chip) r =>
    match acc.2.look space r.1 .read with
    | .ok t a _ => let (d, c) := acc.2.tierRead t space a r.2; (acc.1 ++ d, c)
    | _ => (acc.1 ++ List.replicate r.2 (0, false), acc.2)) ([], c)

/-- Store bytes at a virtual address by `put`: dropped where the translation fails (R149). -/
def Chip.vaStore (put : Chip → Tier → Nat → Nat → List MByte → Chip) (c : Chip) (space va : Nat) (data : List MByte) : Chip :=
  ((runs va data.length).foldl (fun (acc : Chip × List MByte) r =>
    match acc.1.look space r.1 .write with
    | .ok t a _ => (put acc.1 t space a (acc.2.take r.2), acc.2.drop r.2)
    | _ => (acc.1, acc.2.drop r.2)) (c, data)).1

/-- Store bytes at a virtual address. -/
def Chip.vaWrite (c : Chip) (space va : Nat) (data : List MByte) : Chip := c.vaStore Chip.tierWrite space va data

/-- The same as part of an access whose units are counted already. -/
def Chip.vaPut (c : Chip) (space va : Nat) (data : List MByte) : Chip := c.vaStore Chip.tierPut space va data

/-- A write access of [va, va + n) counts in the units it touches (R139). -/
def Chip.vaTouch (c : Chip) (space va n : Nat) : Chip :=
  (runs va n).foldl (fun c r => match c.look space r.1 .write with | .ok t a _ => c.touch t a r.2 space | _ => c) c

/-- Every page of a range translates for an access. -/
def Chip.rangeOk (c : Chip) (space va n : Nat) (a : Acs) : Bool :=
  (runs va n).all (fun r => match c.look space r.1 a with | .ok _ _ _ => true | _ => false)

/-- The content of a range becomes undefined (free bytes under one fresh tag for the range). -/
def Chip.vaUndefine (c : Chip) (space va n : Nat) : Chip :=
  let tag := c.freeCtr
  (runs va n).foldl (fun c r =>
    match c.look space r.1 .write with
    | .ok .crib a _ => { c with crib := c.crib.undefine tag a r.2 }
    | .ok .grn a _ => { c with grn := c.grn.undefine tag a r.2 }
    | .ok .host a _ => { c with host := c.host.undefine tag a r.2 }
    | .ok .loft a _ =>
      let sl := c.slices space
      (List.range (r.2 / 64 + 2)).foldl (fun c k =>
        let x := max a (a / 64 * 64 + 64 * k)
        let e := min (a + r.2) (a / 64 * 64 + 64 * (k + 1))
        if x < e then
          let (j, o) := sliceOf sl.length x
          match sl[j]? with
          | some (.resident p) => { c with loft := c.loft.undefine tag (p * sliceBytes + o) (e - x) }
          | some .spilled => { c with crib := c.crib.undefine tag (c.spillAddr space j + o) (e - x) }
          | _ => c
        else c) c
    | _ => c) { c with freeCtr := c.freeCtr + 1 }

/-! ### Walks as steps of their own (rows TRANSLATION_MISS and WALK_COMPLETE) -/

/-- TRANSLATION_MISS (R148): a miss of the shared cache starts a walk, at most 64 in flight. -/
def Chip.translationMiss (c : Chip) (w : Walk) : Chip :=
  if (c.cachedLeaf w.space w.va).isSome || (c.walk w.space w.va).isNone || decide (64 ≤ c.walks.length) then c
  else { c.count F.XLT_MISSES_COUNT with walks := c.walks ++ [w] }

/-- WALK_COMPLETE (R145, R148, R154): the oldest walk in flight ends. One that an accepted invalidate covers walks again instead, which does not count
in XLT_MISSES once more (DESIGN CHOICE, log entry 207). -/
def Chip.walkComplete (c : Chip) : Chip :=
  match c.walks with
  | [] => c
  | w :: rest =>
    if w.stale then { c with walks := rest ++ [w] }
    else
      let c : Chip := { c with walks := rest }
      match c.walk w.space w.va with
      | none => c
      | some (e, path) =>
        let r := e.res w.va w.acs
        let c := ((c.walkTouch w.space w.va).loadPath path).noteMalformed r
        match r with
        | .fault cause level => (c.sendFault w.space w.va w.acs cause level w.requester w.stall w.waiter).2
        | _ => c

/-! ### Invalidates (R150–R152) -/

/-- An entry's pages meet an invalidate's range; a range of no pages meets none (R169). -/
def Inval.covers (v : Inval) (e : XEnt) : Bool :=
  v.space == e.space && (v.all || (v.pages != 0 &&
    decide (e.idx * levelBytes e.level / 2 ^ 16 < v.lo + v.pages) && decide (v.lo < ((e.idx + 1) * levelBytes e.level) / 2 ^ 16)))

/-- A walk's address lies in an invalidate's range. -/
def Inval.coversVa (v : Inval) (space va : Nat) : Bool :=
  v.space == space && (v.all || (decide (v.lo ≤ va / 2 ^ 16) && decide (va / 2 ^ 16 < v.lo + v.pages)))

/-- INVALIDATE_GO (R152): accepted with the next module-wide sequence number, or rejected with FULL while 16 are outstanding. -/
def Chip.invalidateGo (c : Chip) (space : Nat) (all : Bool) (lo pages : Nat) : Chip :=
  if 16 ≤ c.invals.length then c.wr F.XLT_INV_CMD_FULL 1
  else
    let seq := (c.rd F.XLT_INV_CMD_SEQ + 1) % 65536
    let v : Inval := ⟨seq, space, all, lo, pages⟩
    { c.wr F.XLT_INV_CMD_SEQ seq with
      invals := c.invals ++ [v]
      walks := c.walks.map (fun w => if v.coversVa w.space w.va then { w with stale := true } else w) }

/-- Load the leaf of a page into the caches of the engines of an ACCESSED_BY set (R164): by a walk that counts, where the shared cache lacks it. -/
def Chip.loadPage (c : Chip) (space va by3 : Nat) : Chip :=
  let (r, c) := c.xlate space va .read
  match r, c.cachedLeaf space va with
  | .fault _ _, _ => c
  | _, some e =>
    let rest := c.engCache.filter (fun x => !((enginesOf by3).contains x.1 && x.2.space == e.space && x.2.level == e.level && x.2.idx == e.idx))
    { c with engCache := (enginesOf by3).map (fun g => (g, { e with pin := false })) ++ rest }
  | _, none => c

/-- The first pages of the 64 KiB pages [lo, hi), at most 65,536 of them. -/
def pageList (lo hi : Nat) : List Nat := (List.range (hi - lo)).map (fun k => (lo + k) * 2 ^ 16)

/-- Entries of an invalidate's range go from every cache of the translation unit and of the engines (R152), the translations that almanac entries hold
included (R153), and ACCESSED_BY leaves of the range are loaded again (R164). -/
def Chip.invalidated (c : Chip) (v : Inval) : Chip :=
  let keep (l : List XEnt) : List XEnt := l.filter (fun e => !v.covers e)
  let c : Chip := { c with
    xcache := keep c.xcache
    engCache := c.engCache.filter (fun e => !v.covers e.2)
    ctxs := c.ctxs.map (fun e => (e.1, { e.2 with
      cached := e.2.cached.map (fun x => (x.1, x.2.1, keep x.2.2)), inFlight := e.2.inFlight.map (fun i => { i with pins := keep i.pins }) }))
    cmb := c.cmb.map (fun e => (e.1, { e.2 with pins := keep e.2.pins })) }
  (c.space v.space).hints.foldl (fun c h =>
    if h.by3 = 0 then c
    else
      let lo := if v.all then h.lo else max h.lo v.lo
      let hi := if v.all then h.hi else min h.hi (v.lo + v.pages)
      (pageList lo hi).foldl (fun c a => c.loadPage v.space a h.by3) c) c

/-- An entry in flight holds a translation of the range, and its accesses are still to be performed (R152). -/
def Chip.translated (c : Chip) (v : Inval) : Bool :=
  c.ctxs.any (fun e => e.2.inFlight.any (fun i => !i.stall && i.pins.any v.covers)) || c.cmb.any (fun e => e.2.pins.any v.covers)

/-- INVALIDATE_COMPLETE (R152): the oldest accepted invalidate takes effect once the accesses already translated have been performed, and DONE
advances. -/
def Chip.invalidateComplete (c : Chip) : Chip :=
  match c.invals with
  | [] => c
  | v :: rest =>
    if c.translated v then c
    else
      let c : Chip := { c.wr F.XLT_INV_DONE_SEQ v.seq with
        invals := rest
        walks := c.walks.map (fun w => { w with stale := rest.any (fun u => u.coversVa w.space w.va) }) }
      c.invalidated v

/-! ### Frame pools (R160, R170) -/

/-- Bank of a pool of a space: XLT_SEL and XLT_POOL_SEL together. -/
def poolBank (space pool : Nat) : Nat := space * 4 + pool

/-- The pool a tier's frames come from. -/
def poolOf : Tier → Nat
  | .crib => 0 | .grn => 1 | _ => 2

/-- Entries a pool holds. -/
def Chip.poolFill (c : Chip) (b : Nat) : Nat := subMod 32 (c.rd F.XLT_POOL_PROD_INDEX 0 b) (c.rd F.XLT_POOL_CONS_INDEX 0 b)

/-- POOL_LOW (R160): one notice when an enabled pool holds fewer than its threshold, no further one until it was refilled above it. -/
def Chip.poolCheck (c : Chip) (space pool : Nat) : Chip :=
  let b := poolBank space pool
  let x := c.space space
  if c.rd F.XLT_POOL_SIZE_LOG2 0 b = 0 then c
  else if c.poolFill b < c.rd F.XLT_POOL_LOW_FRAMES 0 b then
    if x.lowSent.contains pool then c
    else (c.setSpace space { x with lowSent := pool :: x.lowSent }).notice space 0 0 1 (Tier.ofCode (pool + 1))
  else if c.rd F.XLT_POOL_LOW_FRAMES 0 b < c.poolFill b then c.setSpace space { x with lowSent := x.lowSent.filter (· ≠ pool) }
  else c

/-- POOL_PROD_WRITE (R170): frames are added, or the write is ignored with CONS_ERR. -/
def Chip.poolProdWrite (c : Chip) (space pool v : Nat) : Chip :=
  let b := poolBank space pool
  let size := if c.rd F.XLT_POOL_SIZE_LOG2 0 b = 0 then 0 else 2 ^ c.rd F.XLT_POOL_SIZE_LOG2 0 b
  if subMod 32 (v % 2 ^ 32) (c.rd F.XLT_POOL_CONS_INDEX 0 b) ≤ size then
    (c.wr F.XLT_POOL_PROD_INDEX v 0 b).poolCheck space pool
  else c.wr F.XLT_FQ_STATUS_CONS_ERR 1 0 space

/-- Take a frame from a pool: its address, and the consumer index advanced. -/
def Chip.takeFrame (c : Chip) (space : Nat) (t : Tier) : Nat × Chip :=
  let b := poolBank space (poolOf t)
  let k := c.rd F.XLT_POOL_CONS_INDEX 0 b
  let a := c.rd F.XLT_POOL_BASE_BASE 0 b * 4096 + k % 2 ^ c.rd F.XLT_POOL_SIZE_LOG2 0 b * 8
  let (d, c) := c.tierRead .crib space a 8
  (ofLE (d.map (·.1)), (c.wr F.XLT_POOL_CONS_INDEX (k + 1) 0 b).poolCheck space (poolOf t))

end Sys2Proof.Machine
end

