-- ==== Sys2Proof/Machine/Tensor.lean ====
section
/-!
DEFINITION. Machine/Tensor.lean: tensor descriptors, reading and writing tensors, block scales, the stochastic generator, arithmetic events
(R68–R71, R93, R98–R107, R123, R126).
-/
namespace Sys2Proof.Machine

/-! ### Descriptors (R68) -/

/-- A tensor descriptor (R68); `rsv` that a reserved bit is set. -/
structure Desc where
  base : Nat
  tier : Nat
  stall : Bool
  dimRaw : List Nat
  strides : List Nat
  scaleVa : Nat
  scaleTier : Nat
  format : Nat
  scaleMode : Nat
  rank : Nat
  mirrored : Bool
  rsv : Bool
  deriving DecidableEq, Repr

/-- A descriptor from its 64 bytes. -/
def Desc.parse (b : List Byte) : Desc :=
  let w0 := leAt b 0 8
  let s := [leAt b 0x18 8, leAt b 0x20 8, leAt b 0x28 8]
  let sc := leAt b 0x30 8
  let f := leAt b 0x38 4
  { base := field w0 0 57, tier := field w0 57 2, stall := bit w0 59
    dimRaw := [leAt b 8 4, leAt b 12 4, leAt b 16 4, leAt b 20 4]
    strides := s.map (field · 0 48)
    scaleVa := field sc 0 57, scaleTier := field sc 57 2
    format := field f 0 4, scaleMode := field f 4 2, rank := field f 6 2, mirrored := bit f 8
    rsv := field w0 60 4 != 0 || s.any (fun x => field x 48 16 != 0) || field sc 59 5 != 0 || field f 9 23 != 0 }

/-- Extent of dimension `k`: 1 above the rank (R68). -/
def Desc.dim (d : Desc) (k : Nat) : Nat := if k ≤ d.rank then d.dimRaw.getD k 1 else 1

/-- Elements. -/
def Desc.count (d : Desc) : Nat := d.dim 0 * d.dim 1 * d.dim 2 * d.dim 3

/-- Rows along DIM0. -/
def Desc.rows (d : Desc) : Nat := d.dim 1 * d.dim 2 * d.dim 3

/-- Coordinates (i1, i2, i3) of a row number. -/
def Desc.rowCoord (d : Desc) (r : Nat) : Nat × Nat × Nat := (r % d.dim 1, r / d.dim 1 % d.dim 2, r / (d.dim 1 * d.dim 2))

/-- The row number of (i1, i2, i3). -/
def Desc.rowNo (d : Desc) (i1 i2 i3 : Nat) : Nat := (i3 * d.dim 2 + i2) * d.dim 1 + i1

/-- Bytes of `n` elements packed (R69). -/
def packedBytes (f n : Nat) : Nat := ceilDiv (elemBits f * n) 8

/-- Bytes of a row. -/
def Desc.rowBytes (d : Desc) : Nat := packedBytes d.format (d.dim 0)

/-- Address of a row. -/
def Desc.rowVa (d : Desc) (r : Nat) : Nat :=
  let (i1, i2, i3) := d.rowCoord r
  d.base + i1 * d.strides.getD 0 0 + i2 * d.strides.getD 1 0 + i3 * d.strides.getD 2 0

/-- Bytes of the scale array (R70). -/
def Desc.scaleBytes (d : Desc) : Nat := if d.scaleMode = 1 then d.count / 32 else if d.scaleMode = 2 then 4 * d.dim 1 else 0

/-- The byte ranges (address, length, tier, scale?) that a tensor covers. -/
def Desc.ranges (d : Desc) : List (Nat × Nat × Nat) :=
  (List.range d.rows).map (fun r => (d.rowVa r, d.rowBytes, d.tier)) ++
  (if d.scaleMode = 0 then [] else [(d.scaleVa, d.scaleBytes, d.scaleTier)])

/-- The byte ranges that writing the tensor writes: the Kroveb never writes a per-channel scale array (R100). -/
def Desc.written (d : Desc) : List (Nat × Nat × Nat) := if d.scaleMode = 2 then { d with scaleMode := 0 }.ranges else d.ranges

/-! ### Events (R123) -/

/-- Counts of the eight arithmetic events, in the order of ARI_FLAGS (bit 0 first). -/
structure Ev where
  nanIn : Nat := 0
  nanOut : Nat := 0
  infOut : Nat := 0
  sat : Nat := 0
  ufl : Nat := 0
  clamp : Nat := 0
  tallyNf : Nat := 0
  chaffNf : Nat := 0
  deriving DecidableEq, Repr

def Ev.add (a b : Ev) : Ev :=
  ⟨a.nanIn + b.nanIn, a.nanOut + b.nanOut, a.infOut + b.infOut, a.sat + b.sat, a.ufl + b.ufl, a.clamp + b.clamp, a.tallyNf + b.tallyNf,
   a.chaffNf + b.chaffNf⟩

/-- Sum of events. -/
def Ev.sum (l : List Ev) : Ev := l.foldl Ev.add {}

/-- Bank of an ARI scope: 0 the stead, i + 1 instance i. -/
def ariScope (ctx : Nat) : Nat := if ctx < 2 then 0 else ctx - 1

/-- Events of a scope set its flags and advance its counters (R123). -/
def Chip.ariEvents (c : Chip) (scope : Nat) (e : Ev) : Chip :=
  let one (c : Chip) (flag cnt : Fld) (n : Nat) : Chip := if n = 0 then c else (c.wr flag 1 0 scope).count cnt n 0 scope
  let c := one c F.ARI_FLAGS_NAN_IN F.ARI_NAN_IN_COUNT e.nanIn
  let c := one c F.ARI_FLAGS_NAN_OUT F.ARI_NAN_OUT_COUNT e.nanOut
  let c := one c F.ARI_FLAGS_INF_OUT F.ARI_INF_OUT_COUNT e.infOut
  let c := one c F.ARI_FLAGS_SAT F.ARI_SAT_COUNT e.sat
  let c := one c F.ARI_FLAGS_UFL F.ARI_UFL_COUNT e.ufl
  let c := one c F.ARI_FLAGS_SCALE_CLAMP F.ARI_SCALE_CLAMP_COUNT e.clamp
  let c := one c F.ARI_FLAGS_TALLY_NF F.ARI_TALLY_NF_COUNT e.tallyNf
  one c F.ARI_FLAGS_CHAFF_NF F.ARI_CHAFF_NF_COUNT e.chaffNf

/-! ### The stochastic generator (R106) -/

/-- mix of R106. -/
def mix64 (z : Nat) : Nat :=
  let z := (Nat.xor z (z / 2 ^ 30)) * 0xBF58476D1CE4E5B9 % 2 ^ 64
  let z := (Nat.xor z (z / 2 ^ 27)) * 0x94D049BB133111EB % 2 ^ 64
  Nat.xor z (z / 2 ^ 31)

/-- rbits of R106. -/
def rbits (seed step desc i0 i1 i2 i3 : Nat) : Nat :=
  let h := mix64 seed
  let h := mix64 (Nat.xor h step)
  let h := mix64 (Nat.xor h desc)
  let h := mix64 (Nat.xor h (i1 * 2 ^ 32 + i0))
  mix64 (Nat.xor h (i3 * 2 ^ 32 + i2))

/-- What selects the roundings of an entry: RND, SEED, step and the descriptor index of the destination. -/
structure RndKey where
  rnd : Bool
  seed : Nat
  step : Nat
  desc : Nat
  deriving DecidableEq, Repr

/-- The rounding of one element (R98, R105). -/
def RndKey.at (k : RndKey) (i0 i1 i2 i3 : Nat) : Rnd := if k.rnd then .stoch (rbits k.seed k.step k.desc i0 i1 i2 i3 % 2 ^ 24) else .rne

/-- Rounding to nearest even everywhere. -/
def RndKey.rne : RndKey := ⟨false, 0, 0, 0⟩

/-! ### Reading (R93) -/

/-- Element `i` of packed bytes: its bit pattern, and whether a byte of it is poisoned. -/
def unpack (f : Nat) (b : List MByte) (i : Nat) : Nat × Bool :=
  let w := elemBits f
  let lo := w * i / 8
  let n := (w * i + w - 1) / 8 - lo + 1
  let bs := (b.drop lo).take n
  (field (ofLE (bs.map (·.1))) (w * i % 8) w, bs.any (·.2))

/-- The value of a block scale code (R92). -/
def e8m0 (s : Nat) : Fp := if s = 255 then .nan else .num false 1 ((s : Int) - 127)

/-- The exact value of an element under a scale; `raw` leaves the per-channel scale of INT8 out (R93, R96). -/
def elemValue (d : Desc) (raw : Bool) (pat : Nat × Bool) (scale : Fp) : Fp :=
  if pat.2 then .nan
  else
    let v := decodeElem d.format pat.1
    if d.scaleMode = 0 then v
    else if d.scaleMode = 1 then
      (if scale.isNan then .nan else (if d.format = 7 then v.mulX (.num false 1 (-6)) else v).mulX scale)
    else if raw then v else v.mulX scale

/-- A tensor's values as an entry reads them, row by row. -/
structure Tens where
  desc : Desc
  rows : List (List Fp)
  chan : List Fp
  deriving DecidableEq, Repr

/-- Element (i0, i1, i2, i3); a dimension of extent 1 applies to every index where asked for by `min`. -/
def Tens.get (t : Tens) (i0 i1 i2 i3 : Nat) : Fp :=
  (t.rows.getD (t.desc.rowNo i1 (min i2 (t.desc.dim 2 - 1)) (min i3 (t.desc.dim 3 - 1))) []).getD i0 .nan

/-- Read a tensor in an address space, with the effects the reads have. -/
def Chip.readTensor (c : Chip) (space : Nat) (d : Desc) (raw : Bool := false) : Tens × Chip :=
  let (sc, c) : List MByte × Chip := if d.scaleMode = 0 then ([], c) else c.vaRead space d.scaleVa d.scaleBytes
  let scale (r i0 : Nat) : Fp :=
    if d.scaleMode = 1 then
      let x := sc.getD (r * (d.dim 0 / 32) + i0 / 32) (0, false)
      if x.2 then .nan else e8m0 x.1.toNat
    else if d.scaleMode = 2 then
      let b := (sc.drop (4 * (r % d.dim 1))).take 4
      if b.any (·.2) then .nan else f32 (ofLE (b.map (·.1)))
    else .nan
  let (rows, c) := (List.range d.rows).foldl (fun (acc : List (List Fp) × Chip) r =>
    let (b, c) := acc.2.vaRead space (d.rowVa r) d.rowBytes
    (acc.1 ++ [(List.range (d.dim 0)).map (fun i => elemValue d raw (unpack d.format b i) (scale r i))], c)) ([], c)
  ({ desc := d, rows := rows, chan := if d.scaleMode = 2 then (List.range (d.dim 1)).map (fun i => scale i 0) else [] }, c)

/-- NaN elements of a tensor read as an operand (R123); a NaN channel scale makes its elements NaN. -/
def Tens.nans (t : Tens) : Nat :=
  ((List.range t.rows.length).map (fun r =>
    if t.desc.scaleMode = 2 && (t.chan.getD (r % t.desc.dim 1) .nan).isNan then (t.rows.getD r []).length
    else ((t.rows.getD r []).filter Fp.isNan).length)).sum

/-- The NaN elements of a tensor read as an operand, as the bit addresses they lie at. -/
def Tens.nanAt (t : Tens) : List Nat :=
  (List.range t.rows.length).flatMap (fun r =>
    let all := t.desc.scaleMode == 2 && (t.chan.getD (r % t.desc.dim 1) .nan).isNan
    let row := t.rows.getD r []
    ((List.range row.length).filter (fun i => all || (row.getD i .nan).isNan)).map (fun i => 8 * t.desc.rowVa r + elemBits t.desc.format * i))

/-- NaN elements that an entry reads as operands: an element read more than once counts once (R123). -/
def nansOf (l : List Tens) : Nat := (l.flatMap Tens.nanAt).eraseDups.length

/-- A value read into FP32: INF_OUT above the range, UFL for a non-zero value that becomes zero (R93). -/
def read32 (x : Fp) : Fp × Ev :=
  let y := x.to32
  (y, { infOut := b2n (y.isInf && !x.isInf), ufl := b2n (y.isZero && !x.isZero) })

/-- A tensor read into FP32 with its events. -/
def Tens.to32 (t : Tens) : Tens × Ev :=
  ({ t with rows := t.rows.map (fun r => r.map (fun x => (read32 x).1)) },
   Ev.sum (t.rows.map (fun r => Ev.sum (r.map (fun x => (read32 x).2)))))

/-! ### Narrowing (R98–R104) -/

/-- The integer narrowing of INT8: never −128 (R98, R99). -/
def narrowInt8 (x : Fp) (r : Rnd) : Nat × Ev :=
  match x with
  | .nan => (0, { nanIn := 1 })
  | .inf s => (if s then 129 else 127, { sat := 1 })
  | .num s m e =>
    if m = 0 then (0, {})
    else
      let (n, d) := Fp.ratio m e
      let k := roundUnit n d 0 r
      if 127 < k then (if s then 129 else 127, { sat := 1 })
      else (if s ∧ k ≠ 0 then 256 - k else k, { ufl := b2n (k == 0) })

/-- The narrowing of one element to an unscaled format 0–6, or to an MX or FP8 element under a scale, where overflow saturates (R98). -/
def narrowFloat (f : Nat) (x : Fp) (r : Rnd) (scaled : Bool := false) : Nat × Ev :=
  let F := fmtOf f
  let top := 2 ^ (F.ebits + F.mant)
  match x with
  | .nan => (F.nanCode, { nanOut := 1 })
  | .inf s => if F.hasInf then (b2n s * top + (2 ^ F.ebits - 1) * 2 ^ F.mant, { infOut := 1 }) else (F.nanCode, { nanOut := 1 })
  | .num s m e =>
    if m = 0 then (b2n s * top, {})
    else
      let (n, d) := Fp.ratio m e
      let (k, q) := roundFmt F n d r
      if F.over k q then
        (if f ≤ 2 ∧ !scaled then (b2n s * top + (2 ^ F.ebits - 1) * 2 ^ F.mant, { infOut := 1 })
         else (encodeFin F s F.maxM F.maxE, { sat := 1 }))
      else (encodeFin F s k q, { ufl := b2n (k == 0) })

/-- emax of a scaled element format (R103). -/
def emaxOf (f : Nat) : Int := if f = 6 then 2 else if f = 5 then 4 else if f = 3 then 8 else if f = 4 then 15 else 0

/-- The largest magnitude of a list of finite values. -/
def amax (l : List Fp) : Fp := l.foldl (fun a x => if a.lt x.abs then x.abs else a) (.num false 0 0)

/-- A block on write (R102–R104): its scale code, its element patterns, its events. -/
def narrowBlock (f : Nat) (l : List (Fp × Rnd)) : Nat × List Nat × Ev :=
  let xs := l.map (·.1)
  if xs.any (fun x => x.isNan || x.isInf) then (255, l.map (fun _ => 0), { nanOut := l.length })
  else
    match amax xs with
    | .num _ 0 _ => (127, l.map (fun e => if f = 7 then 0 else (narrowFloat f e.1 e.2 true).1), {})
    | .num _ m e =>
      let (n, d) := Fp.ratio m e
      let k := floorLog2 n d - emaxOf f
      let x : Int := if k < -127 then -127 else if 127 < k then 127 else k
      let out := l.map (fun v =>
        if f = 7 then narrowInt8 (v.1.mulX (.num false 1 (6 - x))) v.2 else narrowFloat f (v.1.mulX (.num false 1 (-x))) v.2 true)
      ((x + 127).toNat, out.map (·.1), (Ev.sum (out.map (·.2))).add { clamp := b2n (decide (k < -127)) })
    | _ => (255, l.map (fun _ => 0), { nanOut := l.length })

/-- Element patterns packed into bytes (R69). -/
def packElems (f : Nat) (l : List Nat) : List Byte :=
  let w := elemBits f
  toLE (packedBytes f l.length) (((List.range l.length).map (fun i => l.getD i 0 * 2 ^ (w * i))).sum)

/-- A list cut into pieces of `n`, `fuel` at most. -/
def pieces {α : Type} (n : Nat) : Nat → List α → List (List α)
  | 0, _ => []
  | fuel + 1, l => if l.isEmpty then [] else l.take n :: pieces n fuel (l.drop n)

/-- A row narrowed to a destination: its bytes, its scale bytes, its events (R98, R100, R103); a non-zero value whose quotient by the channel scale is 0
is written as zero too (R123). -/
def narrowRow (d : Desc) (chan : Fp) (l : List (Fp × Rnd)) : List Byte × List Byte × Ev :=
  if d.scaleMode = 1 then
    let bs := (pieces 32 (l.length / 32 + 1) l).map (narrowBlock d.format)
    (packElems d.format (bs.flatMap (·.2.1)), bs.map (fun b => BitVec.ofNat 8 b.1), Ev.sum (bs.map (·.2.2)))
  else
    let es := l.map (fun v => if d.format = 7 then
        let q := v.1.div chan
        let (k, ev) := narrowInt8 q v.2
        (k, if q.isZero && !v.1.isZero then ev.add { ufl := 1 } else ev)
      else narrowFloat d.format v.1 v.2)
    (packElems d.format (es.map (·.1)), [], Ev.sum (es.map (·.2)))

/-- Write a tensor: each value narrowed once with its own rounding (R95, R98); `rows` holds the values row by row. -/
def Chip.writeTensor (c : Chip) (space : Nat) (d : Desc) (k : RndKey) (rows : List (List Fp)) : Ev × Chip :=
  let (sc, c) : List MByte × Chip := if d.scaleMode = 2 then c.vaRead space d.scaleVa d.scaleBytes else ([], c)
  (List.range d.rows).foldl (fun (acc : Ev × Chip) r =>
    let (i1, i2, i3) := d.rowCoord r
    let b := (sc.drop (4 * i1)).take 4
    let chan : Fp := if b.any (·.2) then .nan else f32 (ofLE (b.map (·.1)))
    let vals := rows.getD r []
    let (bytes, scales, e) := narrowRow d chan ((List.range (d.dim 0)).map (fun i => (vals.getD i (.num false 0 0), k.at i i1 i2 i3)))
    let c := acc.2.vaWrite space (d.rowVa r) (clean bytes)
    (acc.1.add e, if d.scaleMode = 1 then c.vaWrite space (d.scaleVa + r * (d.dim 0 / 32)) (clean scales) else c)) ({}, c)

/-- Every byte of a tensor becomes undefined. -/
def Chip.undefTensor (c : Chip) (space : Nat) (d : Desc) : Chip := d.written.foldl (fun c r => c.vaUndefine space r.1 r.2.1) c

/-! ### GEN_OUT_READ (R126) -/

/-- rbits of the ARI_GEN input registers. -/
def Chip.genOut (c : Chip) : Nat :=
  rbits (c.rd F.ARI_GEN_SEED_VALUE) (c.rd F.ARI_GEN_STEP_VALUE) (c.rd F.ARI_GEN_DESC_DESC) (c.rd F.ARI_GEN_I0_VALUE) (c.rd F.ARI_GEN_I1_VALUE)
    (c.rd F.ARI_GEN_I2_VALUE) (c.rd F.ARI_GEN_I3_VALUE)

end Sys2Proof.Machine
end

