-- ==== Sys2Proof/Machine/Compute.lean ====
section
/-!
DEFINITION. Machine/Compute.lean: what the thresher and the riddle compute, as functions of the operands' values: products, streaming
attention, element-wise work, row reductions, norms, weight updates (R72–R74, R95–R97, R108–R110, R456).
-/
namespace Sys2Proof.Machine

/-! ### Products (R95) -/

/-- A product operand: a tensor, its TRANS bit, and whether it is A (rows m) or B (columns n). -/
structure Side where
  t : Tens
  trans : Bool
  deriving DecidableEq, Repr

/-- M and K of operand A; DIM0 is K unless transposed (R73). -/
def Side.rowsA (a : Side) : Nat := if a.trans then a.t.desc.dim 0 else a.t.desc.dim 1
def Side.colsA (a : Side) : Nat := if a.trans then a.t.desc.dim 1 else a.t.desc.dim 0

/-- Element (i, j) of the first two dimensions in logical orientation: i indexes DIM1, j indexes DIM0 unless transposed. -/
def Side.get (a : Side) (i j b2 b3 : Nat) : Fp := if a.trans then a.t.get i j b2 b3 else a.t.get j i b2 b3

/-- s ← fma(a, b, s) over ascending k (R95). -/
def dot (k : Nat) (f g : Nat → Fp) (s : Fp) : Fp := (List.range k).foldl (fun s i => (f i).fma (g i) s) s

/-- The FP32 value t of output element (m, n) before the riddle (R95): accumulation, channel scales of INT8, output scale. -/
def productElem (a b : Side) (init : Fp) (scale : Fp) (m n b2 b3 : Nat) : Fp :=
  let s := dot a.colsA (fun k => a.get m k b2 b3) (fun k => b.get k n b2 b3) init
  let s := if a.t.desc.scaleMode = 2 then s.mul (a.t.chan.getD m .nan) else s
  let s := if b.t.desc.scaleMode = 2 then s.mul (b.t.chan.getD n .nan) else s
  s.mul scale

/-- The rows of a product with the shape of `d`; `acc` adds C (R95). -/
def product (a b : Side) (acc : Option Tens) (scale : Fp) (d : Desc) : List (List Fp) :=
  (List.range d.rows).map (fun r =>
    let (m, b2, b3) := d.rowCoord r
    (List.range (d.dim 0)).map (fun n =>
      productElem a b (match acc with | some c => c.get n m b2 b3 | none => .num false 0 0) scale m n b2 b3))

/-- Apply a function to every value. -/
def mapRows (f : Fp → Fp) (rows : List (List Fp)) : List (List Fp) := rows.map (fun r => r.map f)

/-! ### Streaming attention (R110) -/

/-- The internal narrowing of a run of p to V's format, and back (R110): no event is counted. -/
def narrowP (v : Desc) (p : List Fp) : List Fp :=
  if v.scaleMode = 1 then
    (pieces 32 (p.length / 32 + 1) p).flatMap (fun b =>
      let (s, codes, _) := narrowBlock v.format (b.map (fun x => (x, .rne)))
      codes.map (fun e => if s = 255 then .nan else
        (if v.format = 7 then (decodeElem 7 e).mulX (.num false 1 (-6)) else decodeElem v.format e).mulX (e8m0 s)))
  else p.map (fun x => decodeElem v.format (narrowFloat v.format x .rne).1)

/-- The running state of one output row: m, l, acc. -/
structure AttRow where
  m : Fp
  l : Fp
  acc : List Fp
  deriving DecidableEq, Repr

/-- One key block of R110. -/
def attBlock (v : Desc) (scores : List Fp) (vals : Nat → Nat → Fp) (st : AttRow) : AttRow :=
  let mn := scores.foldl Fp.max st.m
  let c : Fp := if st.m = .inf true then .num false 0 0 else (st.m.sub mn).exp
  let p := scores.map (fun s => if s = .inf true then .num false 0 0 else (s.sub mn).exp)
  let l := (st.l.mul c).add (p.foldl Fp.add (.num false 0 0))
  let q := narrowP v p
  let acc := (List.range st.acc.length).map (fun e =>
    ((st.acc.getD e .nan).mul c).add (dot q.length (fun j => q.getD j .nan) (fun j => vals j e) (.num false 0 0)))
  ⟨mn, l, acc⟩

/-- The key blocks from block `kb` on. -/
def attBlocks (v : Desc) (lk : Nat) (score : Nat → Fp) (vals : Nat → Nat → Fp) : Nat → Nat → AttRow → AttRow
  | 0, _, st => st
  | fuel + 1, kb, st =>
    if lk ≤ 1024 * kb then st
    else
      let n := min 1024 (lk - 1024 * kb)
      attBlocks v lk score vals fuel (kb + 1)
        (attBlock v ((List.range n).map (fun j => score (1024 * kb + j))) (fun j e => vals (1024 * kb + j) e) st)

/-- The score of query position `i` and key position `j` (R110): the dot product as R95, the channel scales of an INT8 Q and K
(DEDUCED, entry 168), then PARAM32. -/
def attScore (q k : Side) (scale : Fp) (i j h kv b : Nat) : Fp :=
  let s := dot q.colsA (fun e => q.get i e h b) (fun e => k.get j e kv b) (.num false 0 0)
  let s := if q.t.desc.scaleMode = 2 then s.mul (q.t.chan.getD i .nan) else s
  let s := if k.t.desc.scaleMode = 2 then s.mul (k.t.chan.getD j .nan) else s
  s.mul scale

/-- The FP32 rows of ATTEND's output (R110): Q head h uses K and V head h div (Hq / Hkv). -/
def attend (q k : Side) (v : Tens) (causal : Bool) (scale : Fp) (d : Desc) : List (List Fp) :=
  let lk := k.rowsA
  let group := d.dim 2 / v.desc.dim 2
  (List.range d.rows).map (fun r =>
    let (i, h, b) := d.rowCoord r
    let kv := h / group
    let score (j : Nat) : Fp := if causal && decide (i < j) then .inf true
      else attScore q k scale i j h kv b
    let st := attBlocks v.desc lk score (fun j e => v.get e j kv b) (lk / 1024 + 1) 0
      ⟨.inf true, .num false 0 0, List.replicate (d.dim 0) (.num false 0 0)⟩
    st.acc.map (fun x => if st.l.isZero then .num false 0 0 else x.mul (Fp.div (.num false 1 0) st.l)))

/-! ### Row reductions and norms (R456) -/

/-- The sum from +0, rounded at each addition. -/
def rowSum (l : List Fp) : Fp := l.foldl Fp.add (.num false 0 0)

/-- ROWRED of a row: 0 sum, 1 max, 2 sum of squares. -/
def rowRed (sub : Nat) (l : List Fp) : Fp :=
  if sub = 0 then rowSum l
  else if sub = 1 then (match l with | [] => .num false 0 0 | x :: t => t.foldl Fp.max x)
  else rowSum (l.map (fun x => x.mul x))

/-- The value N of a row length. -/
def fpNat (n : Nat) : Fp := .num false n 0

/-- NORM of a row (R456): SUBOP 0 root-mean-square, 1 mean-variance. -/
def normRow (sub : Nat) (eps : Fp) (l gain : List Fp) (bias : Option (List Fp)) : List Fp :=
  let n := fpNat l.length
  if sub = 0 then
    let r := (((rowRed 2 l).div n).add eps).rsqrt
    (List.range l.length).map (fun i => ((l.getD i .nan).mul r).mul (gain.getD i .nan))
  else
    let mean := (rowSum l).div n
    let ds := l.map (fun x => x.sub mean)
    let r := (((rowSum (ds.map (fun x => x.mul x))).div n).add eps).rsqrt
    (List.range l.length).map (fun i =>
      let y := ((ds.getD i .nan).mul r).mul (gain.getD i .nan)
      match bias with | some b => y.add (b.getD i .nan) | none => y)

/-- A gain or bias at row `r`: element by element, or one row for all (R456). -/
def normOperand (t : Tens) (a : Desc) (r : Nat) : List Fp := if t.desc.rows = a.rows then t.rows.getD r [] else t.rows.getD 0 []

/-! ### Weight updates (R74) -/

/-- The seven FP32 parameters of UPDX: LR, BETA1, BETA2, EPS, WD, BC1, BC2. -/
structure UpdParams where
  lr : Fp
  beta1 : Fp
  beta2 : Fp
  eps : Fp
  wd : Fp
  bc1 : Fp
  bc2 : Fp
  deriving DecidableEq, Repr

/-- One element of a recipe: (w, m, v) from g and the old (w, m, v), each step with the FP32 values of the steps before. -/
def updElem (recipe : Nat) (p : UpdParams) (g w m v : Fp) : Fp × Fp × Fp :=
  let one := fpNat 1
  if recipe = 0 then
    let m := (p.beta1.mul m).add g
    (w.sub (p.lr.mul m), m, v)
  else if recipe = 1 then
    let w := w.mul (one.sub (p.lr.mul p.wd))
    let m := (p.beta1.mul m).add g
    (w.sub (p.lr.mul m), m, v)
  else
    let m := (p.beta1.mul m).add ((one.sub p.beta1).mul g)
    let v := (p.beta2.mul v).add ((one.sub p.beta2).mul (g.mul g))
    let w := (w.mul (one.sub (p.lr.mul p.wd))).sub ((p.lr.mul (m.mul p.bc1)).div (((v.mul p.bc2).sqrt).add p.eps))
    (w, m, v)

/-- Values of two tensors of equal element count taken in linear order, laid out in the rows of `d`. -/
def relayout (d : Desc) (rows : List (List Fp)) : List (List Fp) := pieces (d.dim 0) (d.rows + 1) rows.flatten

/-- The new w, m and v of a whole tensor, in linear element order. -/
def updAll (recipe : Nat) (p : UpdParams) (g w m v : List Fp) : List (Fp × Fp × Fp) :=
  (List.range w.length).map (fun i => updElem recipe p (g.getD i .nan) (w.getD i .nan) (m.getD i .nan) (v.getD i (.num false 0 0)))

end Sys2Proof.Machine
end

