-- ==== Sys2Proof/Machine/Wire.lean ====
section
/-!
DEFINITION. Machine/Wire.lean: the bytes of Agarain frames and control messages, and the codewords that carry them (R4, R8, R179, R194, R195, R198,
R199, R202, R418). Where the spec lists a payload's fields without places, they lie in the order listed, the first in the lowest bits (log entry 220).
-/
namespace Sys2Proof.Machine

/-! ### Fields packed into bits -/

/-- Fields as (width, value), the first in the lowest bits. -/
def packBits : List (Nat × Nat) → Nat
  | [] => 0
  | (w, v) :: t => v % 2 ^ w + 2 ^ w * packBits t

/-- The fields of the given widths. -/
def unpackBits (n : Nat) : List Nat → List Nat
  | [] => []
  | w :: t => n % 2 ^ w :: unpackBits (n / 2 ^ w) t

/-! ### Frames (R198, R199) -/

/-- Flits of a frame (R198). -/
def LFrame.flits (f : LFrame) : Nat := (20 + f.payload.length + 63) / 64

/-- Kinds of a flit slot (R195). -/
def FlitKind.idle : Nat := 0
def FlitKind.head : Nat := 1
def FlitKind.body : Nat := 2
def FlitKind.control : Nat := 3

/-- The header's four words H0–H3. -/
def headerBytes (vc typ dest src : Nat) (fwd : Bool) (lseq ack len flow ctx : Nat) : List Byte :=
  toLE 4 (packBits [(3, vc), (5, typ), (8, dest), (8, src), (1, b2n fwd)]) ++ toLE 4 (packBits [(16, lseq), (16, ack)]) ++
  toLE 4 (packBits [(13, len), (3, 0), (16, flow)]) ++ toLE 4 (packBits [(32, ctx)])

/-- A frame's bytes from its header and payload: the CRC-32 trailer of R4 follows, then zeros to the flit boundary. -/
def sealFrame (b : List Byte) : List Byte := b ++ toLE 4 (crc32 b) ++ List.replicate (63 - (b.length + 3) % 64) 0

/-- The bytes of a VC0–VC6 frame with its LSEQ and ACK. -/
def LFrame.wire (f : LFrame) (lseq ack : Nat) : List Byte :=
  sealFrame (headerBytes f.vc f.typ f.dest f.src f.fwd lseq ack f.payload.length f.flow f.ctx ++ f.payload)

/-- Flits of 64 bytes. -/
def flitBytes : Nat → List Byte → List (List Byte)
  | 0, _ => []
  | n + 1, b => b.take 64 :: flitBytes n (b.drop 64)

/-- A frame as its bytes give it: LSEQ, ACK and the frame; none where it fails (R198, R200): a bad CRC, a LENGTH above 4,096 or at odds with the flits
received, a reserved bit. -/
def LFrame.parse (b : List Byte) : Option (Nat × Nat × LFrame) :=
  let h0 := leAt b 0 4
  let h1 := leAt b 4 4
  let h2 := leAt b 8 4
  let len := field h2 0 13
  if field h0 25 7 ≠ 0 ∨ field h2 13 3 ≠ 0 ∨ 4096 < len ∨ b.length ≠ 64 * ((20 + len + 63) / 64) ∨ leAt b (16 + len) 4 ≠ crc32 (b.take (16 + len)) then none
  else some (field h1 0 16, field h1 16 16,
    { vc := field h0 0 3, typ := field h0 3 5, dest := field h0 8 8, src := field h0 16 8, fwd := bit h0 24, flow := field h2 16 16
      ctx := leAt b 12 4, payload := (b.drop 16).take len })

/-! ### Control messages (R179, R202, R418) -/

/-- Message codes of R202. -/
def CtlMsg.code : CtlMsg → Nat
  | .ack => 1 | .nak _ => 2 | .credit _ => 3 | .bell _ => 4 | .hold _ _ _ => 5 | .ready _ _ => 6 | .resume _ _ => 7 | .surveyReq _ _ => 8
  | .surveyRsp _ _ _ => 9 | .heartbeat _ => 10 | .shed _ => 11 | .restore _ _ => 12 | .quiet _ _ => 13 | .live => 14 | .peer _ => 15

/-- Widths of the fields of BELL, of the words of HEARTBEAT, and of PEER. -/
def bellWidths : List Nat := [44, 16, 8, 3, 16, 3, 3, 16, 9, 44, 44, 1]
def heartbeatWidths : List Nat := [8, 3, 4, 1, 1, 1, 14, 44, 20, 32, 32, 8]
def peerWidths : List Nat := [8, 5, 1, 1, 1, 16, 16, 16, 16, 16, 16, 16, 16]

/-- Payload bytes of a message. -/
def CtlMsg.payload : CtlMsg → List Byte
  | .ack => []
  | .nak n => toLE 2 n
  | .credit f => toLE 14 (packBits ((List.range 7).map (fun v => (16, f.getD v 0))))
  | .bell m => toLE 32 (packBits (bellWidths.zip [m.bell, m.depart, m.tkId, m.tkRank, m.tkEpoch, m.depth, m.state, m.surveyEpoch, m.surveyModules,
      m.holdBell, m.resumeBell, b2n m.up]))
  | .hold o b cause => toLE 32 (packBits [(8, o), (44, b), (3, cause)])
  | .ready o b => toLE 32 (packBits [(8, o), (44, b)])
  | .resume hb rb => toLE 32 (packBits [(44, hb), (44, rb)])
  | .surveyReq s t1 => toLE 32 (packBits [(8, s), (64, t1)])
  | .surveyRsp s t2 t3 => toLE 32 (packBits [(8, s), (64, t2), (64, t3)])
  | .heartbeat h => toLE 32 (packBits (heartbeatWidths.zip [h.modId, h.state, h.twinState, b2n h.fallow, b2n h.mirror, b2n h.mirrorSync, 0, h.bell, 0,
      h.alm0, h.alm1, h.twin]))
  | .shed keepB => toLE 1 (b2n keepB)
  | .restore phase b => toLE 8 (packBits [(8, phase), (44, b)])
  | .quiet o b => toLE 8 (packBits [(8, o), (44, b)])
  | .live => []
  | .peer p => toLE 18 (packBits (peerWidths.zip ([p.modId, p.link, b2n p.posValid, b2n p.quiet, 0, p.epoch] ++ (List.range 7).map (fun v => p.buf.getD v 0))))

/-- Payload bytes of a message code; none for a code that the table of R202 does not hold. -/
def ctlLength (code : Nat) : Option Nat :=
  if code = 1 ∨ code = 14 then some 0 else if code = 2 then some 2 else if code = 3 then some 14 else if 4 ≤ code ∧ code ≤ 10 then some 32
  else if code = 11 then some 1 else if code = 12 ∨ code = 13 then some 8 else if code = 15 then some 18 else none

/-- The message of a code with its payload. -/
def CtlMsg.ofPayload (code : Nat) (b : List Byte) : Option CtlMsg :=
  if ctlLength code ≠ some b.length then none
  else
    let n := leAt b 0 b.length
    let g (ws : List Nat) (i : Nat) : Nat := (unpackBits n ws).getD i 0
    match code with
    | 1 => some .ack
    | 2 => some (.nak n)
    | 3 => some (.credit (unpackBits n (List.replicate 7 16)))
    | 4 => let f := g bellWidths
      some (.bell { bell := f 0, depart := f 1, tkId := f 2, tkRank := f 3, tkEpoch := f 4, depth := f 5, state := f 6, surveyEpoch := f 7, surveyModules := f 8,
                    holdBell := f 9, resumeBell := f 10, up := f 11 == 1 })
    | 5 => let f := g [8, 44, 3]; some (.hold (f 0) (f 1) (f 2))
    | 6 => let f := g [8, 44]; some (.ready (f 0) (f 1))
    | 7 => let f := g [44, 44]; some (.resume (f 0) (f 1))
    | 8 => let f := g [8, 64]; some (.surveyReq (f 0) (f 1))
    | 9 => let f := g [8, 64, 64]; some (.surveyRsp (f 0) (f 1) (f 2))
    | 10 => let f := g heartbeatWidths
      some (.heartbeat { modId := f 0, state := f 1, twinState := f 2, fallow := f 3 == 1, mirror := f 4 == 1, mirrorSync := f 5 == 1, bell := f 7, alm0 := f 9
                         alm1 := f 10, twin := f 11 })
    | 11 => some (.shed (bit n 0))
    | 12 => let f := g [8, 44]; some (.restore (f 0) (f 1))
    | 13 => let f := g [8, 44]; some (.quiet (f 0) (f 1))
    | 14 => some .live
    | 15 => let f := g peerWidths
      some (.peer { modId := f 0, link := f 1, posValid := f 2 == 1, quiet := f 3 == 1, epoch := f 5, buf := (unpackBits n peerWidths).drop 6 })
    | _ => none

/-- The one flit of a VC7 frame (R199, R202). -/
def CtlMsg.wire (m : CtlMsg) (dest src copy ack : Nat) : List Byte :=
  sealFrame (headerBytes 7 m.code dest src false copy ack m.payload.length 0 0 ++ m.payload)

/-! ### Codewords (R194, R195) -/

/-- A flit slot as sent: its kind and 64 bytes. -/
abbrev FlitSlot := Nat × List Byte

def idleSlot : FlitSlot := (FlitKind.idle, List.replicate 64 0)

/-- The 5,140 data bits of a codeword: FLIT_KIND of its ten slots, then the slots. -/
def codewordBits (s : List FlitSlot) : Nat := packBits (s.map (fun x => (2, x.1)) ++ s.map (fun x => (512, leAt x.2 0 64)))

/-- `k` symbols of ten bits. -/
def symbolsOf (n : Nat) : Nat → List Nat
  | 0 => []
  | k + 1 => n % 1024 :: symbolsOf (n / 1024) k

/-- The symbols at even places, and those at odd ones. -/
def evens : List Nat → List Nat
  | [] => []
  | [a] => [a]
  | a :: _ :: t => a :: evens t
def odds : List Nat → List Nat
  | [] => []
  | [_] => []
  | _ :: b :: t => b :: odds t

end Sys2Proof.Machine
end

