-- ==== Sys2Proof/Machine/Link.lean ====
section
/-!
DEFINITION. Machine/Link.lean: Agarain links below their service states: roles and routes, control messages, retry, credits, scheduling
(R198–R215).
-/
namespace Sys2Proof.Machine

/-! ### Accessors -/

def Chip.link (c : Chip) (k : Nat) : Link := Table.getD c.links k {}
def Chip.setLink (c : Chip) (k : Nat) (x : Link) : Chip := { c with links := Table.setD c.links k {} x }
/-- Change what a link holds. -/
def Chip.onLink (c : Chip) (k : Nat) (f : Link → Link) : Chip := c.setLink k (f (c.link k))

/-- The link is present on the variant (R28). -/
def Chip.linkPresent (c : Chip) (k : Nat) : Bool := k < 32 && (c.variant != .r || k < 16 || 30 ≤ k)

/-- Link states (R216). -/
def LinkSt.down : Nat := 0
def LinkSt.training : Nat := 1
def LinkSt.peerCheck : Nat := 2
def LinkSt.up : Nat := 3
def LinkSt.retraining : Nat := 4
def LinkSt.miswired : Nat := 5
def LinkSt.disabled : Nat := 6
def LinkSt.failed : Nat := 7

def Chip.linkState (c : Chip) (k : Nat) : Nat := c.rd F.AGL_STATUS_STATE k
/-- A link is in service in UP and in RETRAINING (R216). -/
def Chip.inService (c : Chip) (k : Nat) : Bool :=
  c.linkPresent k && (c.linkState k == LinkSt.up || c.linkState k == LinkSt.retraining)
/-- The links in service, lowest first. -/
def Chip.linksUp (c : Chip) : List Nat := (List.range 32).filter c.inService

/-- Key of a port's sub-port. -/
def portKey (port sub : Nat) : Nat := 2 * port + sub
/-- Register bank of a sub-port. -/
def subBank (sub : Nat) : Nat := 2 ^ 20 * sub

/-- Link of a sub-port is up. -/
def Chip.ethUp (c : Chip) (port sub : Nat) : Bool := c.on F.ETH_STATUS_LINK port (subBank sub)

/-- An Ethernet port is in service: one of its sub-ports has its link. -/
def Chip.portUp (c : Chip) (p : Nat) : Bool := c.ethUp p 0 || c.ethUp p 1

/-- This module's id (R57). -/
def Chip.modId (c : Chip) : Nat := c.rd F.GLB_POSITION_MODULE_ID
def Chip.posValid (c : Chip) : Bool := c.on F.GLB_POSITION_POSITION_VALID
def Chip.twinValid (c : Chip) : Bool := c.on F.GLB_POSITION_TWIN_VALID
def Chip.twinId (c : Chip) : Nat := c.rd F.GLB_POSITION_TWIN_ID

/-- The role a link has: as taken at the last PEER_CHECK, else as AGL_EXPECT reads (R226): 0 row, 1 column, 2 twin, 3 parallel. -/
def Chip.linkRole (c : Chip) (k : Nat) : Nat :=
  match (c.link k).expectPeer with | some (r, _) => r | none => c.rd F.AGL_EXPECT_ROLE k

/-- The peer module a link is expected to have. -/
def Chip.linkPeer (c : Chip) (k : Nat) : Nat :=
  match (c.link k).expectPeer with | some (_, _, _, m) => m | none => c.rd F.AGL_EXPECT_PEER_MODULE k

/-- The virtual channels a role carries (R200, R213). -/
def roleCarries (role vc : Nat) : Bool :=
  if role = 0 ∨ role = 1 then [0, 1, 3, 4, 5].contains vc
  else if role = 2 then [0, 2, 5].contains vc
  else vc == 0

/-- An end without a position limits the link to VC5 and VC7 (R217), as in force since the last change bell (R218). -/
def Chip.posLimited (c : Chip) (k : Nat) : Bool := (c.link k).limited

/-! ### Routes (R212, R215) -/

def rickOf (m : Nat) : Nat := m / 16
def seatOf (m : Nat) : Nat := m % 16
/-- The row link from seat `s` to seat `t`. -/
def rowLink (s t : Nat) : Nat := (t + 31 - s) % 16
/-- The column link from rick `r` to rick `q`. -/
def colLink (r q : Nat) : Nat := 15 + (q + 31 - r) % 16

/-- The first link of the route from this module to module `d` (R215). -/
def Chip.routeLink (c : Chip) (d : Nat) : Nat :=
  let m := c.modId
  if rickOf d = rickOf m ∨ seatOf d ≠ seatOf m then rowLink (seatOf m) (seatOf d) else colLink (rickOf m) (rickOf d)

/-- The module that carries a tree position (R256). -/
def Chip.carrierOf (c : Chip) (m : Nat) : Nat :=
  if c.on F.CMB_SUBST_ACTIVE ∧ c.rd F.CMB_SUBST_LOST = m then c.rd F.CMB_SUBST_CARRIER else m

/-- The link on which a combine frame of position `src` leaves for position `d` (R215, R244, R256): the direct link to the module that carries it. After a
substitution the carrier may have none: a frame to the lost position then goes along the row first, and one from it along the column first (log entry 224). -/
def Chip.peerLink (c : Chip) (src d : Nat) : Nat :=
  let m := c.modId
  let t := c.carrierOf d
  if rickOf t = rickOf m then rowLink (seatOf m) (seatOf t)
  else if seatOf t = seatOf m ∨ src ≠ m then colLink (rickOf m) (rickOf t)
  else rowLink (seatOf m) (seatOf t)

/-! ### Control messages (R202, R203) -/

/-- Messages sent in two copies. -/
def CtlMsg.twice : CtlMsg → Bool
  | .nak _ | .hold _ _ _ | .ready _ _ | .resume _ _ | .shed _ | .restore _ _ | .quiet _ _ | .live | .peer _ => true
  | _ => false

/-- Stead-time messages, which a link with an end that has no position does not carry (R217). -/
def CtlMsg.steadTime : CtlMsg → Bool
  | .bell _ | .hold _ _ _ | .ready _ _ | .resume _ _ | .surveyReq _ _ | .surveyRsp _ _ _ | .heartbeat _ => true
  | _ => false

/-- Messages the rate limiter never holds. -/
def CtlMsg.unlimited : CtlMsg → Bool
  | .bell _ | .surveyReq _ _ | .surveyRsp _ _ _ | .heartbeat _ => true
  | _ => false

/-- Messages deferred first. -/
def CtlMsg.lowest : CtlMsg → Bool
  | .ack | .credit _ => true
  | _ => false

/-- Queue a control message on a link. -/
def Chip.sendCtl (c : Chip) (k : Nat) (m : CtlMsg) : Chip :=
  if m.steadTime && c.posLimited k then c
  else c.onLink k (fun l => { l with ctlq := l.ctlq ++ [⟨m, 0, 0⟩] })

/-- Queue a control message on several links. -/
def Chip.sendCtls (c : Chip) (ks : List Nat) (m : CtlMsg) : Chip := ks.foldl (fun c k => c.sendCtl k m) c

/-- A link has had COPY 0 of a message (R203): COPY 1 follows it within 1,024 beats (log entry 221). -/
def Chip.heardCopy (c : Chip) (k : Nat) (m : CtlMsg) : Bool := (c.link k).seenCopy.any (fun x => x.1 == m && decide (c.beat < x.2 + 1024))

/-- The receiver of a message sent in two copies acts on the first valid copy and discards the second (R203): answers whether to act. -/
def Chip.firstCopy (c : Chip) (k : Nat) (copy : Bool) (m : CtlMsg) : Bool × Chip :=
  let l := c.link k
  let rest := l.seenCopy.filter (fun x => x.1 ≠ m && decide (c.beat < x.2 + 1024))
  if copy then (!c.heardCopy k m, c.setLink k { l with seenCopy := rest })
  else (true, c.setLink k { l with seenCopy := (m, c.beat) :: rest })

/-- Control slots allowed (R203): at most 256 in any 65,536 slots, and at most 8 in a row. -/
def Link.ctlAllowed (l : Link) : Bool :=
  decide ((l.ctlSlots.filter (fun s => l.slot < s + 65536)).length < 256) && decide (l.burst < 8)

/-- The control message the next slot takes: unlimited ones first, ACK and CREDIT last. -/
def Link.nextCtl (l : Link) : Option CtlEnt :=
  let ready := l.ctlq.filter (fun e => e.notBefore ≤ l.slot)
  match ready.find? (·.msg.unlimited) with
  | some e => some e
  | none => if !l.ctlAllowed then none else match ready.find? (fun e => !e.msg.lowest) with
    | some e => some e
    | none => ready.head?

/-! ### Sending frames -/

/-- Queue a frame on a link for its virtual channel. -/
def Chip.sendFrame (c : Chip) (k : Nat) (f : LFrame) (origin : Option Nat := none) : Chip :=
  c.onLink k (fun l => { l with txq := l.txq ++ [(f, origin)] })

/-- Queue a frame from this module on the route to its destination. -/
def Chip.routeFrame (c : Chip) (f : LFrame) : Chip := c.sendFrame (c.routeLink f.dest) f

/-- Credit of a virtual channel (R209). -/
def Link.credit (l : Link) (v : Nat) : Nat := subMod 16 (l.limit.getD v 0) (l.used.getD v 0)

/-- The wire budget of a mode in bytes per second; what the present links and ports can carry where that is less (R18, R19). -/
def Chip.wireBudget (c : Chip) (m : Mode) : Nat :=
  let links := ((List.range 32).filter c.linkPresent).length * (if m = .quiet then 50000000000 else 100000000000)
  let ports := if c.variant = .r then 0 else 4 * 100000000000
  min (match m with | .full => 2000000000000 | .balanced => 2800000000000 | .linkFirst => 3600000000000 | .quiet => 2000000000000) (links + ports)

/-- Payload bytes that the wire budget allows in a tick. -/
def Chip.tickBudget (c : Chip) : Nat := c.wireBudget c.mode * 64 / 900000000

/-- Payload bytes a tick that stead and fallow entries in their slots have reserved. -/
def Chip.wireReserved (c : Chip) : Nat :=
  ([0, 1].map (fun n => (((c.ctx n).inFlight.filter (fun i => decide (c.beat < i.slotEnd))).map (·.wire)).sum)).sum

/-- Mirror mode WEIGHTS is in effect: both twins report it (R420). -/
def Chip.mirrorOn (c : Chip) : Bool := c.on F.FLT_TWIN_CTRL_MIRROR && (match c.twinHb with | some h => h.mirror | none => false)

/-- Unreserved payload bytes sent in the tick in progress. -/
def Chip.wireUsed (c : Chip) : Nat := if c.wireTick = c.beat / 64 then c.wireBytes else 0

/-- `c` having sent unreserved payload bytes in this tick. -/
def Chip.wireAdd (c : Chip) (n : Nat) : Chip := { c with wireTick := c.beat / 64, wireBytes := c.wireUsed + n }

/-- Unreserved payload fits what the reservations leave of the tick (R19). -/
def Chip.wireFits (c : Chip) (n : Nat) : Bool := decide (c.wireUsed + c.wireReserved + n ≤ c.tickBudget)

/-- Traffic that the wain die paces: VC1–VC6, but for the mirror frames that admission reserved (R19). -/
def Chip.paced (c : Chip) (f : LFrame) : Bool := f.vc != 0 && !(f.vc == 2 && c.mirrorOn)

/-- The first queued frame of a virtual channel that may start now: its link carries the channel, credit suffices, the peer is not quiet,
and a paced frame fits the wire budget of the tick. -/
def Chip.headFrame (c : Chip) (k v : Nat) : Option (LFrame × Option Nat) :=
  let l := c.link k
  match l.txq.find? (fun e => e.1.vc == v && !(c.on F.AGL_STATUS_PEER_QUIET k && e.1.dest == c.rd F.AGL_PEER_MODULE k)) with
  | none => none
  | some e =>
    if roleCarries (c.linkRole k) v && (!c.posLimited k || v == 5) && decide (e.1.flits ≤ l.credit v) &&
       (!c.paced e.1 || c.wireFits e.1.payload.length) then some e else none

/-- Weights of the channels as the registers hold them. -/
def Chip.vcWeights (c : Chip) (k : Nat) : List Nat := (List.range 7).map (fun v => c.rd F.AGL_VC_CFG_WEIGHT k v)

/-- Deficit round robin over VC1–VC6 with a quantum of 64 × WEIGHT flits (R211), weights written taking effect as a round begins (R225): the channel
chosen, the weights of the round and the deficits after. -/
def Chip.drr (c : Chip) (k : Nat) : Nat → Nat → List Nat → List Nat → Option Nat × Nat × List Nat × List Nat
  | 0, turn, w, d => (none, turn, w, d)
  | fuel + 1, turn, w, d =>
    let next := if turn = 6 then 1 else turn + 1
    let v := if turn = 6 then c.vcWeights k else w
    let advance (d : List Nat) := c.drr k fuel next v (d.set next (d.getD next 0 + 64 * v.getD next 0))
    match c.headFrame k turn with
    | some (f, _) =>
      if w.getD turn 0 = 0 then advance (d.set turn 0)
      else if f.flits ≤ d.getD turn 0 then (some turn, turn, w, d.set turn (d.getD turn 0 - f.flits))
      else advance d
    | none => advance (d.set turn 0)

/-- The pairs a transmitter sends codewords on: those in use, before that the pairs locked (R194, R225). -/
def Chip.txPairs (c : Chip) (k : Nat) : Nat := let p := c.rd F.AGL_STATUS_PAIRS k; if p = 0 then (c.link k).good else p

/-- The codeword being filled, its last slots IDLE, goes out; codewords alternate between the pairs while both are used (R194, R195). -/
def Chip.sendCodeword (c : Chip) (k : Nat) (s : List FlitSlot) : Chip :=
  let p := c.txPairs k
  let onB := p == 2 || (p == 3 && (c.link k).nextB)
  let w := symbolsOf (codewordBits (s ++ List.replicate (10 - s.length) idleSlot)) 514
  (c.onLink k (fun l => { l with fill := [], nextB := !l.nextB })).emit (.codeword k (b2n onB) (evens w) (odds w))

/-- A flit takes its slot; ten slots make a codeword. -/
def Chip.putSlot (c : Chip) (k : Nat) (x : FlitSlot) : Chip :=
  let s := (c.link k).fill ++ [x]
  if s.length < 10 then c.onLink k (fun l => { l with fill := s }) else c.sendCodeword k s

/-- A new assignment of pairs starts with a codeword on pair A (R194, R218): the one being filled goes out first. -/
def Chip.startPairs (c : Chip) (k : Nat) : Chip :=
  let c := if (c.link k).fill = [] then c else c.sendCodeword k (c.link k).fill
  c.onLink k (fun l => { l with nextB := false })

/-- A flit other than IDLE takes its slot: it is counted (R225). -/
def Chip.putFlit (c : Chip) (k : Nat) (x : FlitSlot) : Chip := (c.putSlot k x).count F.AGL_TX_FLITS_COUNT 1 k

/-- The HEAD flit of a frame takes its slot; its BODY flits follow in theirs (R195). The header carries the ACK of this moment (R204). -/
def Chip.putHead (c : Chip) (k lseq : Nat) (f : LFrame) : Chip :=
  let l := c.link k
  let flits := flitBytes f.flits (f.wire lseq l.expect)
  let c := c.setLink k { l with cur := flits.drop 1, ackOwed := false }
  (c.putFlit k (FlitKind.head, flits.headD [])).emit (.frame k lseq l.expect f)

/-- Take the first queued frame `e` out of a link's queue and send its HEAD flit (R204, R209). -/
def Chip.startFrame (c : Chip) (k : Nat) (e : LFrame × Option Nat) : Chip :=
  let l := c.link k
  let seq := c.rd F.AGL_SEQ_NEXT k
  let f := e.1
  let used := (l.used.getD f.vc 0 + f.flits) % 65536
  let c := c.setLink k { l with
    txq := l.txq.erase e
    replay := l.replay ++ [⟨seq, f, e.2, 0, c.beat⟩]
    mirrorOut := if f.vc = 2 then l.mirrorOut ++ [(f, used)] else l.mirrorOut
    used := l.used.set f.vc used }
  ((c.wr F.AGL_SEQ_NEXT (seq + 1) k).wireAdd (if c.paced f then f.payload.length else 0)).putHead k seq f

/-- Send again the HEAD flit of a frame of the replay buffer (R206): no credit is used. -/
def Chip.startReplay (c : Chip) (k : Nat) (r : RFrame) (rest : List Nat) : Chip :=
  let l := c.link k
  let c := c.setLink k { l with
    resend := rest
    replay := l.replay.map (fun x => if x.lseq = r.lseq then { x with replays := x.replays + 1, sent := c.beat } else x) }
  c.putHead k r.lseq r.frame

/-- The module at the other end of a link: as its PEER said, else as expected. -/
def Chip.peerId (c : Chip) (k : Nat) : Nat := if c.on F.AGL_PEER_VALID k then c.rd F.AGL_PEER_MODULE k else c.linkPeer k

/-- What a control message carries of the moment it departs at, in 1/64 beat (R179): DEPART of a bell mark, T1 and T3 of a survey. -/
def CtlMsg.departing (m : CtlMsg) (beat : Nat) : CtlMsg :=
  match m with
  | .bell b => .bell { b with depart := (beat - b.bell * bellBeats) * 64 % 65536 }
  | .surveyReq s _ => .surveyReq s (beat * 64)
  | .surveyRsp s t2 _ => .surveyRsp s t2 (beat * 64)
  | m => m

/-- T1 of a survey request is noted as it departs (R182). -/
def Chip.noteDeparture (c : Chip) (k : Nat) (m : CtlMsg) : Chip :=
  match m with
  | .surveyReq q t1 => { c with clk := { c.clk with surveys := c.clk.surveys.map (fun e =>
      if e.1 = k then (k, { e.2 with waiting := e.2.waiting.map (fun w => if w.1 = q then (q, t1) else w) }) else e) } }
  | _ => c

/-- Send a control message in a slot; the second copy of a pair follows 32 slots later. -/
def Chip.startCtl (c : Chip) (k : Nat) (e : CtlEnt) : Chip :=
  let l := c.link k
  let q := l.ctlq.erase e
  let m := e.msg.departing c.beat
  let c := c.setLink k { l with
    ctlq := if m.twice && e.copy == 0 then q ++ [⟨m, 1, l.slot + 33⟩] else q
    ctlSlots := l.slot :: l.ctlSlots.filter (fun s => l.slot < s + 65536)
    burst := l.burst + 1 }
  ((c.noteDeparture k m).putFlit k (FlitKind.control, m.wire (c.peerId k) c.modId e.copy l.expect)).emit (.ctl k e.copy l.expect m)

/-- States in which a link's transmitter sends codewords (R216). -/
def Chip.sends (c : Chip) (k : Nat) : Bool :=
  [LinkSt.peerCheck, LinkSt.up, LinkSt.retraining, LinkSt.miswired].contains (c.linkState k)

/-- FLIT_SLOT_TRANSMIT (R211): the transmitter fills one flit slot. -/
def Chip.flitSlot (c : Chip) (k : Nat) : Chip :=
  if !c.sends k then c
  else
    let c := c.onLink k (fun l => { l with slot := l.slot + 1 })
    let l := c.link k
    let idle (c : Chip) := c.putSlot k idleSlot
    match l.nextCtl with
    | some e => c.startCtl k e
    | none =>
      let c := c.onLink k (fun l => { l with burst := 0 })
      match l.cur with
      | b :: rest => (c.onLink k (fun l => { l with cur := rest })).putFlit k (FlitKind.body, b)
      | [] =>
        if c.linkState k != LinkSt.up || c.mst == .safe then idle c
        else match l.resend with
        | n :: rest =>
          match l.replay.find? (·.lseq == n) with
          | some r => c.startReplay k r rest
          | none => idle (c.onLink k (fun l => { l with resend := rest }))
        | [] =>
          if decide (512 ≤ l.replay.length) || c.mute then idle c
          else match c.headFrame k 0 with
          | some e => c.startFrame k e
          | none =>
            let (v, turn, w, d) := c.drr k 20 l.turn l.weights l.deficit
            let c := c.onLink k (fun l => { l with turn := turn, weights := w, deficit := d })
            match v with
            | some v => match c.headFrame k v with
              | some e => c.startFrame k e
              | none => idle c
            | none => idle c

/-! ### Acknowledgement, retry, credit (R204–R209) -/

/-- The oldest received frame not yet taken that satisfies `p` is taken by its client. -/
def Link.markPlaced (l : Link) (p : RxFrame → Bool) : Link :=
  match l.rx.findIdx? (fun r => !r.placed && p r) with
  | some i => { l with rx := l.rx.modify i (fun r => { r with placed := true }) }
  | none => l

/-- A frame accepted by the next link frees the flits it held where it came in (R208). -/
def Chip.forwardDone (c : Chip) (k : Nat) (f : LFrame) : Chip :=
  c.onLink k (fun l => l.markPlaced (fun r => r.forward && { r.frame with fwd := true } == { f with fwd := true }))

/-- LINK_ACK (R204): the value releases the frames that precede it; one that names frames never sent is counted and ignored. -/
def Chip.linkAck (c : Chip) (k a : Nat) : Chip :=
  let l := c.link k
  let oldest := match l.replay with | r :: _ => r.lseq | [] => c.rd F.AGL_SEQ_NEXT k
  let d := subMod 16 a oldest
  if d ≤ l.replay.length then
    let gone := l.replay.take d
    let c := c.setLink k { l with replay := l.replay.drop d, resend := l.resend.filter (fun n => !(gone.map (·.lseq)).contains n) }
    gone.foldl (fun c r => match r.origin with | some i => c.forwardDone i r.frame | none => c) c
  else if subMod 16 oldest a < 32768 then c
  else c.count F.AGL_DROP_CTRL_COUNT 1 k

/-- Every frame from LSEQ `n` onward is to be sent again, after the frame in transmission (R206). -/
def Chip.replayFrom (c : Chip) (k n : Nat) : Chip :=
  let l := c.link k
  match l.replay.findIdx? (·.lseq == n) with
  | some i => (c.setLink k { l with resend := (l.replay.drop i).map (·.lseq) }).count F.AGL_RETRY_COUNT 1 k
  | none => c

/-- LINK_CREDIT (R209): LIMIT of each channel from the FREED counts received; a mirror frame whose flits are freed has been placed (R208, R420). -/
def Chip.linkCredit (c : Chip) (k : Nat) (freed : List Nat) : Chip :=
  c.onLink k (fun l => { l with
    limit := (List.range 7).map (fun v => (l.peerBuf.getD v 0 + freed.getD v 0) % 65536)
    mirrorOut := l.mirrorOut.filter (fun x => 32768 ≤ subMod 16 (freed.getD 2 0) x.2) })

/-- Mirror frames still to be sent, acknowledged or placed (R187, R420). -/
def Chip.mirrorPending (c : Chip) (l : List (Nat × LFrame)) : Bool :=
  l.any (fun x => (c.link x.1).txq.any (fun e => e.1 == x.2) || (c.link x.1).mirrorOut.any (fun e => e.1 == x.2) ||
    (c.link x.1).replay.any (fun e => e.frame == x.2))

/-- Mirror frames that `d` has queued on the twin links and `c` had not. -/
def Chip.mirrorNew (c d : Chip) : List (Nat × LFrame) :=
  [30, 31].flatMap (fun k => (((d.link k).txq.drop (c.link k).txq.length).filter (fun e => e.1.vc == 2)).map (fun e => (k, e.1)))

/-- LINK_ACK_TIMER (R202): an ACK message is due when no frame has carried a new ACK value. -/
def Chip.linkAckTimer (c : Chip) (k : Nat) : Chip :=
  if (c.link k).ackOwed && c.inService k then (c.onLink k (fun l => { l with ackOwed := false })).sendCtl k .ack else c

/-- LINK_CREDIT_TIMER (R202): a CREDIT message is due after a change, and at least every 4,096 beats. -/
def Chip.linkCreditTimer (c : Chip) (k : Nat) : Chip :=
  if !c.inService k then c
  else
    let c := if (c.link k).creditOwed then c else c.advanceTo ((c.link k).creditBeat + 4096)
    (c.onLink k (fun l => { l with creditOwed := false, creditBeat := c.beat })).sendCtl k (.credit (c.link k).freed)

/-! ### Receiving frames (R205, R215) -/

/-- Flits of a channel's receive share in use (R208). -/
def Link.occ (l : Link) (v : Nat) : Nat := ((l.rx.filter (fun r => r.frame.vc == v && !r.old)).map (fun r => r.frame.flits)).sum

/-- Flits other than IDLE are received (R195, R225). -/
def Chip.gotFlits (c : Chip) (k n : Nat) : Chip := if c.sends k then c.count F.AGL_RX_FLITS_COUNT n k else c

/-- Free the flits of an accepted frame that nothing holds. -/
def Link.freeFlits (l : Link) (f : LFrame) : Link :=
  { l with freed := l.freed.set f.vc ((l.freed.getD f.vc 0 + f.flits) % 65536), creditOwed := true }

/-- A frame that its client takes as it stands: peer writes are the host port's to perform, and management frames of types that no command performs
are reeve firmware's to read (R208). -/
def LFrame.plain (f : LFrame) : Bool := f.vc == 3 || (f.vc == 5 && f.typ != 1 && f.typ != 2 && f.typ != 0x10)

/-- The oldest frame of a channel is taken where its client needs nothing more. -/
def Chip.plainTaken (c : Chip) (k v : Nat) : Chip := c.onLink k (fun l => l.markPlaced (fun r => !r.forward && r.frame.vc == v && r.frame.plain))

/-- FRAME_TAKEN (R208): the oldest frame of a channel that its client has taken frees its flits. -/
def Chip.frameTaken (c : Chip) (k v : Nat) : Chip :=
  let l := c.link k
  match l.rx.find? (fun r => r.frame.vc == v && r.placed) with
  | some r => c.setLink k (if r.old then { l with rx := l.rx.erase r } else { l with rx := l.rx.erase r }.freeFlits r.frame)
  | none => c

/-- A client takes a frame it was given: the oldest such frame in the buffer is marked. -/
def Chip.clientTakes (c : Chip) (k : Nat) (p : LFrame → Bool) : Chip :=
  c.onLink k (fun l => l.markPlaced (fun r => !r.forward && p r.frame))

/-- The link a frame that is not for this module goes on by (R215): from a row link to the column link of its rick, once. A combine frame of a position that a
carrier has taken over may turn here either way (R256, log entry 224). -/
def Chip.onward (c : Chip) (k : Nat) (f : LFrame) : Option Nat :=
  let m := c.modId
  let lost := c.rd F.CMB_SUBST_LOST
  if f.fwd then none
  else if f.vc = 1 ∨ f.vc = 3 ∨ f.vc = 5 then
    if c.linkRole k = 0 ∧ seatOf f.dest = seatOf m ∧ rickOf f.dest ≠ rickOf m then some (colLink (rickOf m) (rickOf f.dest)) else none
  else if f.vc = 0 ∧ c.on F.CMB_SUBST_ACTIVE ∧ (f.dest = lost ∨ f.src = lost) then
    let t := c.carrierOf f.dest
    if c.linkRole k = 0 ∧ seatOf t = seatOf m then some (colLink (rickOf m) (rickOf t))
    else if c.linkRole k = 1 ∧ rickOf t = rickOf m then some (rowLink (seatOf m) (seatOf t))
    else none
  else none

/-- Deliver an accepted frame: to its client, onward over a column link, or nowhere (R201, R215, R223). -/
def Chip.deliver (c : Chip) (k : Nat) (f : LFrame) : Chip :=
  let free (c : Chip) := c.onLink k (fun l => l.freeFlits f)
  let drop (c : Chip) := free (c.count F.AGL_DROP_ROUTE_COUNT 1 k)
  if c.mst == .safe then free c
  else if f.vc = 6 ∨ !roleCarries (c.linkRole k) f.vc ∨ (c.posLimited k && f.vc != 5) then drop c
  else if f.dest = c.modId ∨ (f.vc = 0 ∧ c.carrierOf f.dest = c.modId) then
    c.onLink k (fun l => { l with rx := l.rx ++ [{ frame := f, placed := false, forward := false }] })
  else match c.onward k f with
    | none => drop c
    | some out =>
      if c.inService out then
        (c.onLink k (fun l => { l with rx := l.rx ++ [{ frame := f, placed := false, forward := true }] })).sendFrame out { f with fwd := true } (some k)
      else drop c

/-- A frame has failed, or one came later than expected: one NAK is sent for the expected LSEQ (R205). -/
def Chip.linkNak (c : Chip) (k : Nat) : Chip :=
  let l := c.link k
  if l.nakSent then c else (c.setLink k { l with nakSent := true }).sendCtl k (.nak l.expect)

/-- A frame fails (R196, R198, R200, R205): it is counted and draws a NAK. -/
def Chip.frameFails (c : Chip) (k : Nat) : Chip := (c.count F.AGL_CRC_ERR_COUNT 1 k).linkNak k

/-- A frame with its LSEQ arrives whole (R205): it is accepted in order and delivered, a later one draws a NAK, an earlier one is a duplicate. -/
def Chip.acceptFrame (c : Chip) (k lseq : Nat) (f : LFrame) : Chip :=
  let l := c.link k
  let d := subMod 16 lseq l.expect
  if d = 0 then (c.setLink k { l with expect := (l.expect + 1) % 65536, nakSent := false, ackOwed := true }).deliver k f
  else if d < 32768 then c.linkNak k
  else c

/-- The flits of a frame of VC0–VC6 have arrived (R196, R198, R200, R205): `lost` where one lay in an uncorrectable codeword. -/
def Chip.frameReceive (c : Chip) (k : Nat) (lost : Bool) (b : List Byte) : Chip :=
  if !c.inService k then c
  else match (if lost then none else LFrame.parse b) with
    | none => c.frameFails k
    | some (lseq, ack, f) => if f.vc = 7 then c.count F.AGL_DROP_CTRL_COUNT 1 k else (c.linkAck k ack).acceptFrame k lseq f

end Sys2Proof.Machine
end

