-- ==== Sys2Proof/Machine/Tiers.lean ====
section
/-!
DEFINITION. Machine/Tiers.lean: memory units in and out of service, memory training, loft quotas and spill regions, ADVISE hints
(R53, R132, R139–R142, R164–R168).
-/
namespace Sys2Proof.Machine

/-! ### Units in service (R53) -/

/-- A unit's fault source: of the stack, or of the channel's page. -/
def TrainUnit.src : TrainUnit → Nat
  | .stack n => Flt.crib n.val
  | .channel n => Flt.grn (n.val / 4)

/-- A unit's number in the training cache. -/
def TrainUnit.no : TrainUnit → Nat
  | .stack n => n.val
  | .channel n => 16 + n.val

/-- The units that a page's control register acts on: the stack, or its four channels (R168). -/
def MemUnit.units : MemUnit → List TrainUnit
  | .stack n => [.stack n]
  | .page p => (List.finRange 32).filterMap (fun n => if n.val / 4 = p.val then some (.channel n) else none)

/-- The page that a unit trains under. -/
def TrainUnit.home : TrainUnit → MemUnit
  | .stack n => .stack n
  | .channel n => .page ⟨n.val / 4, by omega⟩

/-- The unit is present on the variant (R28). -/
def Chip.unitPresent (c : Chip) : TrainUnit → Bool
  | .stack _ => true
  | .channel n => decide (n.val < c.channels)

/-- The unit is in service. -/
def Chip.unitUp (c : Chip) : TrainUnit → Bool
  | .stack n => c.stackUp n.val
  | .channel n => c.channelUp n.val

/-- The unit of a page is in service; a granary page only while its four channels are. -/
def Chip.memUp (c : Chip) (u : MemUnit) : Bool := u.units.all c.unitUp

/-- A unit's GLB_SVC bit takes a value (R53): each change is an event of its source, which stays asserted while a unit of its page is out (R408); a
unit that leaves service starts re-admission (R76). -/
def Chip.setUnitUp (c : Chip) (u : TrainUnit) (up : Bool) : Chip :=
  if c.unitUp u = up ∨ !c.unitPresent u then c
  else
    let c : Chip := match u with
      | .stack n => c.wr F.GLB_SVC_CRB_STACKS (setBit (c.rd F.GLB_SVC_CRB_STACKS) n.val up)
      | .channel n => c.wr F.GLB_SVC_GRN_CHANNELS (setBit (c.rd F.GLB_SVC_GRN_CHANNELS) n.val up)
    if up then (if c.memUp u.home then c.causeGone u.src else c).event u.src
    else { (if (c.src u.src).persist then c.event u.src else c.onset u.src) with readmitReq := true }

/-- Every unit of a page takes a value. -/
def Chip.setMemUp (c : Chip) (u : MemUnit) (up : Bool) : Chip := u.units.foldl (fun c x => c.setUnitUp x up) c

/-- A training field of a unit takes a value. -/
def Chip.wrTrain (c : Chip) (u : TrainUnit) (crbF grnF : Fld) (v : Nat) : Chip :=
  match u with
  | .stack n => c.wr crbF v n.val
  | .channel n => c.wr grnF v (n.val / 4) 0 (n.val % 4)

/-- TRAINING of a unit. -/
def Chip.training (c : Chip) : TrainUnit → Bool
  | .stack n => c.on F.CRB_STATUS_TRAINING n.val
  | .channel n => c.on F.GRN_CH_STATUS_TRAINING (n.val / 4) 0 (n.val % 4)

/-- Some unit trains. -/
def Chip.anyTraining (c : Chip) : Bool :=
  (List.finRange 12).any (fun n => c.training (.stack n)) || (List.finRange 32).any (fun n => c.training (.channel n))

/-- FORCE_FULL of a page. -/
def Chip.forceFull (c : Chip) : MemUnit → Bool
  | .stack n => c.on F.CRB_CTRL_FORCE_FULL n.val
  | .page p => c.on F.GRN_CTRL_FORCE_FULL p.val

/-- A unit begins to train (R140, R142); `why` says why only a full training will do. -/
def Chip.startTraining (c : Chip) (u : TrainUnit) (why : Option TrainWhy) : Chip :=
  if !c.unitPresent u then c
  else { c.wrTrain u F.CRB_STATUS_TRAINING F.GRN_CH_STATUS_TRAINING 1 with
    trainWhy := match why with | some w => Table.insert u.no w (Table.erase u.no c.trainWhy) | none => Table.erase u.no c.trainWhy }

/-- Every present unit begins to train at a boot (R140, R141). -/
def Chip.bootTraining (c : Chip) : Chip :=
  ((List.finRange 12).map TrainUnit.stack ++ (List.finRange 32).map TrainUnit.channel).foldl (fun c u =>
    c.startTraining u (if c.forceFull u.home then some .forced else none)) c

/-- UNIT_OUT (R167): CTRL.OUT takes the unit out of service at once. -/
def Chip.unitOut (c : Chip) (u : MemUnit) : Chip := c.setMemUp u false

/-- UNIT_RETURN (R142): CTRL.RETURN starts a full training of every unit of the page, during which none is in service; ignored while the page is in
service or trains. -/
def Chip.unitReturn (c : Chip) (u : MemUnit) : Chip :=
  if c.memUp u ∨ u.units.any c.training then c
  else u.units.foldl (fun c x => c.startTraining x (some .ret)) (c.setMemUp u false)

/-- A CTRL write with OUT or RETURN: OUT acts before RETURN where both are set (DESIGN CHOICE, log entry 208). -/
def Chip.unitCtrl (c : Chip) (u : MemUnit) (out ret : Bool) : Chip :=
  let c := if out then c.unitOut u else c
  if ret then c.unitReturn u else c

/-- What the training cache would hold for a unit of this module now (R141). -/
def Chip.trainEnt (c : Chip) : TrainEnt :=
  ⟨c.rd F.GLB_SERIAL_SERIAL, c.rd F.GLB_DEVICE_STEP_MAJOR * 256 + c.rd F.GLB_DEVICE_STEP_MINOR, c.trainRev⟩

/-- Fast training may be used (R141): nothing asks for a full one, and the cache holds an entry of this module, stepping and algorithm. -/
def Chip.fastOk (c : Chip) (u : TrainUnit) : Bool :=
  (Table.find? u.no c.trainWhy).isNone && Table.find? u.no c.trainCache == some c.trainEnt

/-- FORCE_FULL of a page clears once the full training it asked for has ended in each of its units (R167). -/
def Chip.forceDone (c : Chip) (u : MemUnit) : Chip :=
  if u.units.any (fun x => Table.find? x.no c.trainWhy == some .forced) then c
  else match u with
    | .stack n => c.wr F.CRB_CTRL_FORCE_FULL 0 n.val
    | .page p => c.wr F.GRN_CTRL_FORCE_FULL 0 p.val

/-- A unit's training has ended: its fields, and nothing asks for a full one any longer. -/
def Chip.trainEnd (c : Chip) (u : TrainUnit) (kind time : Nat) : Chip :=
  let c := c.wrTrain u F.CRB_STATUS_TRAINING F.GRN_CH_STATUS_TRAINING 0
  let c := c.wrTrain u F.CRB_STATUS_TRAIN_TIME F.GRN_CH_STATUS_TRAIN_TIME (min 65535 time)
  let c := c.wrTrain u F.CRB_STATUS_TRAIN_KIND F.GRN_CH_STATUS_TRAIN_KIND kind
  let forced := Table.find? u.no c.trainWhy == some .forced
  let c : Chip := { c with trainWhy := Table.erase u.no c.trainWhy }
  if forced then c.forceDone u.home else c

/-- MEMORY_TRAINING_COMPLETE (R141, R142): a training unit enters service, or stays out with TRAIN_KIND 3; a fast end counts only where fast training
may be used, and a successful full one is written to the cache. `time` counts 10 ms. -/
def Chip.memoryTrainingComplete (c : Chip) (u : TrainUnit) (k : TrainKind) (time : Nat) : Chip :=
  if !c.training u then c
  else match k with
    | .fast => if c.fastOk u then (c.trainEnd u 1 time).setUnitUp u true else c
    | .full => ({ c.trainEnd u 2 time with trainCache := Table.insert u.no c.trainEnt (Table.erase u.no c.trainCache) }).setUnitUp u true
    | .failed => c.trainEnd u 3 time

/-! ### Loft quotas (R132, R165, R166, R370) -/

/-- Zero an allotment's contents: its slices are not placed, and its spilled slices are discarded (R132). -/
def Chip.blankLoft (c : Chip) (i : Nat) : Chip :=
  { c with allot := Table.setD c.allot i [] (List.replicate (c.rd F.LFT_QUOTA_QUOTA 0 i) .blank) }

/-- States of a context in which its registers may be written (R89, R166). -/
def AlmState.idle : AlmState → Bool
  | .empty | .loaded | .refused | .done => true
  | _ => false

/-- Sum of the loft quotas of every instance but `i`. -/
def Chip.loftQuotaOthers (c : Chip) (i : Nat) : Nat :=
  c.allot.foldl (fun n e => if e.1 < 512 ∧ e.1 ≠ i then n + c.rd F.LFT_QUOTA_QUOTA 0 e.1 else n) 0

/-- LOFT_QUOTA_WRITE (R166, R370): the quota takes effect, and a change zeroes the loft; a write whose conditions fail is ignored and sets CFG_ERR. -/
def Chip.loftQuotaWrite (c : Chip) (i q : Nat) : Chip :=
  let q := min q 384
  if !(c.ctx (i + 2)).st.idle || (q != 0 && c.rd F.LFT_SPILL_BASE 0 i == 0) then c.wr F.LFT_QUOTA_CFG_ERR 1 0 i
  else if 384 < c.loftQuotaOthers i + q then (c.wr F.LFT_QUOTA_CFG_ERR 1 0 i).wr F.INS_STATUS_CFG_ERR 1 i
  else if q = c.rd F.LFT_QUOTA_QUOTA 0 i then c
  else (c.wr F.LFT_QUOTA_QUOTA q 0 i).blankLoft i

/-- SPILL_REGION_WRITE (R166): the base changes while QUOTA is 0, else the write is ignored and CFG_ERR is set. -/
def Chip.spillRegionWrite (c : Chip) (i base : Nat) : Chip :=
  if c.rd F.LFT_QUOTA_QUOTA 0 i = 0 then c.wr F.LFT_SPILL_BASE base 0 i else c.wr F.LFT_QUOTA_CFG_ERR 1 0 i

/-- LFT_RESIDENT and LFT_STATUS as the allotments stand (R165). -/
def Chip.residentCount (c : Chip) (i : Nat) : Nat :=
  ((c.slices i).filter (fun l => match l with | .resident _ => true | _ => false)).length
def Chip.spilledCount (c : Chip) (i : Nat) : Nat := ((c.slices i).filter (· == .spilled)).length

/-! ### ADVISE (R164) -/

/-- A range with no hint set is not held. -/
def Hint.none (h : Hint) : Bool := !h.readMostly && h.pref.isNone && h.by3 == 0 && !h.wnn

/-- Apply `f` to the hints of [lo, hi): ranges are cut at the ends, and the parts not covered yet are added. -/
def adviseGo (f : Hint → Hint) (lo hi : Nat) : List Hint → List Hint
  | [] => if lo < hi then [f { lo := lo, hi := hi }] else []
  | h :: t =>
    if hi ≤ lo ∨ h.hi ≤ lo then h :: adviseGo f lo hi t
    else if hi ≤ h.lo then f { lo := lo, hi := hi } :: h :: t
    else
      (if h.lo < lo then [{ h with hi := lo }] else if lo < h.lo then [f { lo := lo, hi := h.lo }] else []) ++
      [f { h with lo := max h.lo lo, hi := min h.hi hi }] ++
      (if hi < h.hi then [{ h with lo := hi }] else []) ++ adviseGo f (min h.hi hi) hi t

/-- Adjacent ranges with the same hints are one range. -/
def mergeHints (l : List Hint) : List Hint :=
  l.foldr (fun a acc => match acc with
    | b :: t => if a.hi = b.lo ∧ { a with lo := 0, hi := 0 } = { b with lo := 0, hi := 0 } then { a with hi := b.hi } :: t else a :: acc
    | [] => [a]) []

/-- Pins of a space's pages [lo, hi) are removed. -/
def Chip.unpin (c : Chip) (space lo hi : Nat) : Chip :=
  { c with xcache := c.xcache.map (fun e =>
      if e.space = space ∧ e.idx * levelBytes e.level / 2 ^ 16 < hi ∧ lo < (e.idx + 1) * levelBytes e.level / 2 ^ 16 then { e with pin := false } else e) }

/-- Pins of the cached pages [lo, hi) of a space follow READ_MOSTLY as it now stands (R164): pins beyond 4,096 are not made. -/
def Chip.repin (c : Chip) (space lo hi : Nat) : Chip :=
  let c : Chip := { c with xcache := c.xcache.map (fun e =>
    if e.space = space ∧ Pte.leaf e.pte ∧ e.idx * levelBytes e.level / 2 ^ 16 < hi ∧ lo < (e.idx + 1) * levelBytes e.level / 2 ^ 16 then
      { e with pin := e.pin && (match c.hintAt space (e.idx * levelBytes e.level) with | some h => h.readMostly && !h.wnn | Option.none => false) }
    else e) }
  (pageList lo hi).foldl (fun c a =>
    match c.hintAt space a with
    | some h => if h.readMostly && !h.wnn then
        match c.cachedLeaf space a with
        | some e => if e.pin ∨ 4096 ≤ c.pins then c else { c with xcache := c.xcache.map (fun x => if x = e then { e with pin := true } else x) }
        | Option.none => c
      else c
    | Option.none => c) c

end Sys2Proof.Machine
end

