-- ==== Sys2Proof/Machine/Clock.lean ====
section
/-!
DEFINITION. Machine/Clock.lean: stead time: HOLD and RESUME, lock and holdover, bell marks, surveys (R173–R193, R453, R454).
-/
namespace Sys2Proof.Machine

/-! ### Lock states (R173) -/

def Lock.free : Nat := 0
def Lock.acquiring : Nat := 1
def Lock.locked : Nat := 2
def Lock.holdover : Nat := 3
def Lock.timekeeper : Nat := 4

def Chip.lock (c : Chip) : Nat := c.rd F.CLK_STATUS_LOCK
def Chip.onClk (c : Chip) (f : Clk → Clk) : Chip := { c with clk := f c.clk }
def Chip.onHold (c : Chip) (f : HoldSt → HoldSt) : Chip := { c with clk := { c.clk with hold := f c.clk.hold } }
def Chip.hold (c : Chip) : HoldSt := c.clk.hold
/-- The adopted upstream link. -/
def Chip.upstream (c : Chip) : Option Nat := if c.on F.CLK_STATUS_UP_VALID then some (c.rd F.CLK_STATUS_UPSTREAM) else none
def Chip.setUpstream (c : Chip) (u : Option Nat) : Chip :=
  match u with
  | some k => (c.wr F.CLK_STATUS_UP_VALID 1).wr F.CLK_STATUS_UPSTREAM k
  | none => (c.wr F.CLK_STATUS_UP_VALID 0).wr F.CLK_STATUS_UPSTREAM 0
/-- Re-admission is due (R76). -/
def Chip.readmit (c : Chip) : Chip := { c with readmitReq := true }
def Chip.isTk (c : Chip) : Bool := c.lock == Lock.timekeeper

/-- CLK_STATUS.HOLD: 0 none, 1 hold bell named, 2 held, 3 resume bell named (R192). -/
def Chip.holdCode (c : Chip) : Nat :=
  if c.hold.resume.isSome then 3 else if c.hold.held then 2 else if c.hold.bell.isSome then 1 else 0

/-! ### HOLD (R188–R190, R454) -/

/-- Send toward the timekeeper, on the adopted upstream link. -/
def Chip.sendUp (c : Chip) (m : CtlMsg) : Chip := match c.upstream with | some k => c.sendCtl k m | none => c

/-- A hold bell comes into force: the earliest still ahead counts (R189); CLK_HOLD_BELL shows it. -/
def Chip.nameHold (c : Chip) (b : Nat) : Chip :=
  let h := c.hold
  let b := match h.bell with | some x => min x b | none => b
  (c.onHold (fun h => { h with bell := some b })).wr F.CLK_HOLD_BELL_BELL b

/-- A hold bell is that of the hold kept for later: it lies after the resume bell in force (R454). -/
def HoldSt.isLater (h : HoldSt) (b : Nat) : Bool := h.resume.any (fun r => decide (r < b))

/-- Change the part of the hold that a hold bell belongs to. -/
def HoldSt.onPart (h : HoldSt) (b : Nat) (f : HoldPart → HoldPart) : HoldSt :=
  if h.isLater b then { h with later := h.later.map (fun x => (x.1, f x.2)) } else { h with now := f h.now }

/-- A hold to be kept for later: the earliest counts. -/
def HoldSt.keepLater (h : HoldSt) (b : Nat) : HoldSt :=
  { h with later := some (match h.later with | some x => (min x.1 b, x.2) | none => (b, {})) }

/-- This module's own causes of a hold, of the one in force and of the later one. -/
def Chip.ownCauses (c : Chip) : List OwnCause := c.hold.now.own ++ (match c.hold.later with | some x => x.2.own | none => [])

/-- A hold bell is heard of (R189, R454): one after the resume bell in force is kept for later, one at it cancels the resume, any other joins the
hold in force; a bell that has passed raises HOLD_LATE and the module holds at its next bell. -/
def Chip.hearHold (c : Chip) (b : Nat) : Chip :=
  let h := c.hold
  match h.resume with
  | some r =>
    if r < b then c.onHold (·.keepLater b)
    else if b = r then c.onHold (fun h => { h with resume := none })
    else c
  | none =>
    if h.held then c
    else if b * bellBeats ≤ c.beat ∧ h.bell ≠ some b then (c.event Flt.holdLate).nameHold (c.bell + 1)
    else c.nameHold b

/-- An origin of a list with its READY; one not in the list yet is added. -/
def setOrigin (l : List (Nat × Bool)) (o : Nat) (ready : Bool) : List (Nat × Bool) := (o, ready) :: l.filter (fun e => e.1 ≠ o)

/-- The timekeeper takes the origin of a HOLD into its set (R190). -/
def Chip.addOrigin (c : Chip) (origin b : Nat) : Chip :=
  if c.isTk then c.onHold (fun h => h.onPart b (fun p => { p with origins := setOrigin p.origins origin false })) else c

/-- A HOLD not seen before is acted on and flooded on every link in service but the one it came in on (R188, R189, R454). -/
def Chip.takeHold (c : Chip) (origin b cause : Nat) (via : Option Nat) : Chip :=
  let c := c.onHold (fun h => { h with seen := (origin, b) :: h.seen })
  let c := c.sendCtls (c.linksUp.filter (fun k => some k ≠ via)) (.hold origin b cause)
  (c.hearHold b).addOrigin origin b

/-- This module becomes an origin (R187–R190, R454): while HELD with no resume bell named it joins the hold in force, otherwise it names the
first bell boundary at least 4,096 beats ahead. -/
def Chip.originate (c : Chip) (cause : Nat) (own : OwnCause) : Chip :=
  let b := match c.hold.bell, c.hold.resume with
    | some x, none => if c.hold.held then x else c.bellAhead 4096
    | _, _ => c.bellAhead 4096
  (c.takeHold c.modId b cause none).onHold (fun h => h.onPart b (fun p =>
    { p with own := p.own ++ [own], isOrigin := true, cause := cause, named := b, readySent := false }))

/-- The first bell from `b` on that a list does not name; it is at most as far ahead as the list is long. -/
def firstNotIn (l : List Nat) : Nat → Nat → Nat
  | 0, b => b
  | n + 1, b => if l.contains b then firstNotIn l n (b + 1) else b

/-- A resume bell comes into force; CLK_RESUME_BELL shows it. -/
def Chip.nameResume (c : Chip) (r : Nat) : Chip := (c.onHold (fun h => { h with resume := some r })).wr F.CLK_RESUME_BELL_BELL r

/-- The timekeeper names the resume bell once every origin is ready and it has held the role for two bells (R190, R191). It names none that a HOLD
names, since that HOLD would cancel it (R454; log entry 219). -/
def Chip.tryResume (c : Chip) : Chip :=
  let h := c.hold
  match h.bell, h.resume with
  | some b, none =>
    if c.isTk && h.now.origins != [] && h.now.origins.all (·.2) && decide (2 ≤ c.clk.tkBells) then
      let r := firstNotIn (h.seen.map (·.2)) h.seen.length (max (ceilDiv (max c.beat h.now.lastReady + 4096) bellBeats) (b + 1))
      let c := (c.nameResume r).onHold (fun h => { h with seenResume := (b, r) :: h.seenResume })
      c.sendCtls c.linksUp (.resume b r)
    else c
  | _, _ => c

/-- The timekeeper takes a READY, which also stands for the lost twin of its sender; any other module passes it on toward the timekeeper (R190).
While a resume bell is named, a READY is for the later hold alone (R454). -/
def Chip.takeReady (c : Chip) (origin b : Nat) : Chip :=
  if c.isTk then
    let gone (o : Nat × Bool) : Bool := c.on F.CMB_SUBST_ACTIVE && c.rd F.CMB_SUBST_CARRIER == origin && o.1 == c.rd F.CMB_SUBST_LOST
    if c.hold.bell.isNone || (c.hold.resume.isSome && !c.hold.isLater b) then c
    else (c.onHold (fun h => h.onPart b (fun p =>
      { p with origins := setOrigin (p.origins.filter (fun o => !gone o)) origin true, lastReady := c.beat }))).tryResume
  else c.sendUp (.ready origin b)

/-- A READY arrives on a link (R190): one that comes from the upstream does not travel toward the timekeeper and goes no further. -/
def Chip.recvReady (c : Chip) (k origin b : Nat) : Chip := if c.upstream = some k then c else c.takeReady origin b

/-- Consent is needed before READY: a survivor with RECOVER_HOLD waits for RECOVERED, a BEREFT module for its switch (R423). -/
def Chip.readyHeldBack (c : Chip) : Bool :=
  c.rd F.FLT_TWIN_STATUS_STATE == 8 || (c.lossCarried && c.on F.FLT_TWIN_CTRL_RECOVER_HOLD && !c.consent)

/-- READY is due for a hold: an origin whose causes have all passed. -/
def HoldPart.due (p : HoldPart) : Bool := p.isOrigin && p.own == [] && !p.readySent

/-- READY goes out for the hold that a bell belongs to. -/
def Chip.sendReady (c : Chip) (b : Nat) (p : HoldPart) : Chip :=
  if !p.due || c.readyHeldBack then c
  else ({ c.onHold (fun h => h.onPart b (fun p => { p with readySent := true })) with consent := false, lossCarried := false } : Chip).takeReady c.modId p.named

/-- An origin whose causes have all passed reports READY, for the hold in force and for the later one (R190, R454). -/
def Chip.reportReady (c : Chip) : Chip :=
  let c := match c.hold.bell with | some b => c.sendReady b c.hold.now | none => c
  match c.hold.later with | some x => c.sendReady x.1 x.2 | none => c

/-- Causes of this module's HOLD pass (R190). -/
def Chip.passCauses (c : Chip) (p : OwnCause → Bool) : Chip :=
  let rest (x : HoldPart) : HoldPart := { x with own := x.own.filter (fun o => !p o) }
  if c.ownCauses.any p then (c.onHold (fun h => { h with now := rest h.now, later := h.later.map (fun x => (x.1, rest x.2)) })).reportReady else c

/-- A HOLD arrives (R188, R190): new ones are acted on, repeats go on toward the timekeeper, whose set of origins they tell of. -/
def Chip.recvHold (c : Chip) (k origin b cause : Nat) : Chip :=
  if c.hold.seen.contains (origin, b) then
    if c.isTk then
      if c.hold.resume.any (fun r => decide (b ≤ r)) then c else c.addOrigin origin b
    else if c.upstream = some k then c else c.sendUp (.hold origin b cause)
  else c.takeHold origin b cause (some k)

/-- A hold bell known from a mark or a RESUME alone is acted on as one heard of (R191). -/
def Chip.hearUnseen (c : Chip) (b : Nat) : Chip :=
  if c.hold.bell = some b ∨ c.hold.seen.any (fun s => s.2 == b) then c
  else (c.onHold (fun h => { h with seen := (256, b) :: h.seen })).hearHold b

/-- A resume bell comes into force on this module (R191, R454), unless a HOLD seen names it and so cancels it; the earliest HOLD seen for a bell after
it is kept for later. -/
def Chip.resumeAt (c : Chip) (rb : Nat) : Chip :=
  let bells := c.hold.seen.map (·.2)
  if c.hold.bell.isNone || c.hold.resume.isSome || bells.contains rb then c
  else (c.nameResume rb).onHold (fun h => (bells.filter (fun b => rb < b)).foldl (fun h b => h.keepLater b) h)

/-- A RESUME is heard (R191): it is flooded once, and acted on whatever bell this module holds at. -/
def Chip.takeResume (c : Chip) (hb rb : Nat) (via : Option Nat) : Chip :=
  if c.hold.seenResume.contains (hb, rb) then c
  else
    let c := c.onHold (fun h => { h with seenResume := (hb, rb) :: h.seenResume })
    let c := c.sendCtls (c.linksUp.filter (fun k => some k ≠ via)) (.resume hb rb)
    (c.hearUnseen hb).resumeAt rb

/-- Bells as carried in a mark act as a HOLD or RESUME not yet heard of (R191); a mark names no origin. -/
def Chip.markHold (c : Chip) (k : Nat) (m : Mark) : Chip :=
  let c := if m.holdBell ≠ 0 then c.hearUnseen m.holdBell else c
  if m.resumeBell ≠ 0 then c.takeResume m.holdBell m.resumeBell (some k) else c

/-- Move an almanac's open frames later by whole bells (R64). -/
def Ctx.shift (x : Ctx) (bells : Nat) : Ctx :=
  { x with frames := x.frames.map (fun f => { f with origin := f.origin + bells * bellBeats }) }

/-- HOLD_BELL_REACHED (R189): at the hold bell every RUNNING stead and fallow almanac goes to HELD, unless the hold is over by then. -/
def Chip.holdBellReached (c : Chip) : Chip :=
  match c.hold.bell with
  | some b =>
    if c.hold.held || c.hold.resume.any (fun r => decide (r ≤ b)) then c
    else
      let c := (c.advanceTo (b * bellBeats)).onHold (fun h => { h with held := true })
      [0, 1].foldl (fun c n => let x := c.ctx n
        if x.st = .running then c.setCtx n { x with st := .held } else c) c
  | none => c

/-- RESUME_BELL_REACHED (R191, R454): at the resume bell HELD almanacs run on with their frames moved later, and a hold kept for later takes
its place. An almanac that waits for its start bell under the hold begins then (R77). -/
def Chip.resumeBellReached (c : Chip) : Chip :=
  match c.hold.bell, c.hold.resume with
  | some b, some r =>
    let c := c.advanceTo (r * bellBeats)
    let c := [0, 1].foldl (fun c n => let x := c.ctx n
      if x.st = .held then
        (c.setCtx n { x.shift (r - b) with st := .running, bellWait := x.bellWait.map (· + (r - b)) }).wr F.ALM_HELD_BELLS
          (min (2 ^ 32 - 1) (c.rd F.ALM_HELD_BELLS 0 n + (r - b))) 0 n
      else c) c
    let c := [0, 1].foldl (fun c n => c.onCtx n (fun x => if x.st = .admitted then { x with startBell := x.startBell.map (max r) } else x)) c
    let late := c.hold.later
    let c := c.onHold (fun h => { h with
      bell := none, held := false, resume := none, later := none, now := (match late with | some x => x.2 | none => {}) })
    match late with
    | some x => c.nameHold x.1
    | none => c
  | _, _ => c

/-! ### Holdover (R175, R176) -/

/-- The survey delay of a link is usable (R184). -/
def Chip.delayOk (c : Chip) (k : Nat) : Bool := c.on F.CLK_LINK_DELAY_VALID 0 k || c.on F.CLK_LINK_DELAY_PROVISIONAL 0 k

/-- Holdover within limit (R176). -/
def Chip.holdoverOk (c : Chip) : Bool := c.lock == Lock.holdover && decide (c.rd F.CLK_HOLDOVER_BELLS ≤ 2048)

/-- The survey is current (R184, R453). -/
def Chip.surveyCurrent (c : Chip) : Bool :=
  c.rd F.CLK_SURVEY_STATE == 2 && c.rd F.CLK_SURVEY_EPOCH == c.clk.epoch && c.linksUp.all c.delayOk &&
  (c.lock == Lock.locked || c.isTk || c.holdoverOk) && (match c.clk.shape with | some s => s.ok | none => false)

/-- The upstream is lost (R175): the root holds the frequency it last locked to; a module that never locked is FREE again (R173; log entry 35). -/
def Chip.loseUpstream (c : Chip) : Chip :=
  let c := c.setUpstream none
  if c.lock = Lock.locked ∨ (c.lock = Lock.acquiring ∧ c.on F.CLK_STATUS_STEPPED) then
    ((c.wr F.CLK_STATUS_LOCK Lock.holdover).wr F.CLK_HOLDOVER_BELLS 0).count F.CLK_HOLDOVER_ENTRIES |>.onClk
      (fun x => { x with freeBells := 0, limitRaised := false, bigErr := 0 })
  else if c.lock = Lock.acquiring then c.wr F.CLK_STATUS_LOCK Lock.free
  else c

/-- Marks are missing on the upstream at the bell in progress and the one before (R175). -/
def Chip.marksMissing (c : Chip) (k : Nat) : Bool := decide (Table.getD c.clk.markBell k 0 + 2 ≤ c.bell)

/-- UPSTREAM_LOSS (R175): the link out of service, or 64 beats after the second of two marks was expected. -/
def Chip.upstreamLoss (c : Chip) : Chip :=
  match c.upstream with
  | some k =>
    if !c.inService k then c.loseUpstream
    else if c.marksMissing k then
      (c.advanceTo ((Table.getD c.clk.markBell k 0 + 2) * bellBeats + ceilDiv (c.rd F.CLK_LINK_DELAY_DELAY 0 k) 64 + 64)).loseUpstream
    else c
  | none => c

/-- HOLDOVER_LIMIT (R176): at the 2,049th bell of holdover. -/
def Chip.holdoverLimit (c : Chip) : Chip :=
  if c.lock = Lock.holdover ∧ 2049 ≤ c.rd F.CLK_HOLDOVER_BELLS ∧ !c.clk.limitRaised then
    let c := (c.onClk (fun x => { x with limitRaised := true })).event Flt.clock
    (c.originate 3 .holdover).readmit
  else c

/-! ### Surveys (R182–R185, R453) -/

/-- A module surveys only while LOCKED or TIMEKEEPER, with a position (R182). -/
def Chip.maySurvey (c : Chip) : Bool := (c.lock == Lock.locked || c.isTk) && c.posValid

/-- Send survey requests on a link, `n` at most and 64 in all; T1 is the beat each departs at. -/
def Chip.surveySend (c : Chip) (k : Nat) : Nat → Chip
  | 0 => c
  | n + 1 => match Table.find? k c.clk.surveys with
    | some s =>
      if 64 ≤ s.sent then c
      else
        let q := c.clk.seq
        let c := c.onClk (fun x => { x with
          seq := (q + 1) % 256
          surveys := Table.insert k { s with waiting := s.waiting ++ [(q, 0)], sent := s.sent + 1 } (Table.erase k x.surveys) })
        (c.sendCtl k (.surveyReq q 0)).surveySend k n
    | none => c

/-- A link is to be surveyed (R185): its previous delay stays in use, PROVISIONAL, meanwhile. A module that may not survey yet does so when
it is LOCKED again. -/
def Chip.startSurvey (c : Chip) (k : Nat) : Chip :=
  if !c.inService k || c.posLimited k then c
  else
    let c := if c.delayOk k then (c.wr F.CLK_LINK_DELAY_VALID 0 0 k).wr F.CLK_LINK_DELAY_PROVISIONAL 1 0 k else c
    let c := if c.clk.running then c.onClk (fun x => { x with todo := k :: x.todo.filter (· ≠ k) }) else c
    if c.maySurvey then
      (c.onClk (fun x => { x with surveys := Table.insert k {} (Table.erase k x.surveys), waitSurvey := x.waitSurvey.filter (· ≠ k) })).surveySend k 32
    else c.onClk (fun x => { x with waitSurvey := k :: x.waitSurvey.filter (· ≠ k) })

/-- Surveys put off until the module is LOCKED or TIMEKEEPER begin (R182). -/
def Chip.startWaiting (c : Chip) : Chip := c.clk.waitSurvey.foldl Chip.startSurvey c

/-- RESURVEY (R185): every link in service. -/
def Chip.resurvey (c : Chip) : Chip := c.linksUp.foldl Chip.startSurvey c

/-- This module's links in service are all surveyed for the epoch (R183). -/
def Chip.ownDone (c : Chip) : Bool := c.clk.todo.all (fun k => !c.inService k)

/-- The modules of the subtree that have completed the epoch (R183). -/
def Chip.subtree (c : Chip) : Nat :=
  b2n c.ownDone + (c.clk.marks.filter (fun e => c.inService e.1 && e.2.up && e.2.surveyEpoch == c.clk.epoch)).foldl (fun n e => n + e.2.surveyModules) 0

/-- The shape of the stead at a publication (R453). -/
def Chip.shapeNow (c : Chip) (modules : Nat) : Shape :=
  let peers := (List.range 15).filter (fun k => c.inService k && c.on F.AGL_PEER_VALID k && c.on F.AGL_PEER_POS_VALID k)
  let seats := (seatOf c.modId :: peers.map (fun k => seatOf (c.rd F.AGL_PEER_MODULE k))).eraseDups
  let r := modules / seats.length
  ⟨seats, r, [1, 2, 4, 8, 16].contains r && r * seats.length == modules && decide (rickOf c.modId < r)⟩

/-- The epoch is published with a count (R183, R453). -/
def Chip.publish (c : Chip) (n : Nat) : Chip :=
  let s := c.shapeNow n
  ((c.wr F.CLK_SURVEY_EPOCH c.clk.epoch).wr F.CLK_SURVEY_STATE 2).wr F.CLK_SURVEY_MODULES n |>.onClk
    (fun x => { x with running := false, shape := some s })

/-- The timekeeper publishes when its subtree count reaches CLK_STEAD_SIZE (R183). -/
def Chip.tryPublish (c : Chip) : Chip :=
  if c.isTk && c.clk.running && decide (c.rd F.CLK_STEAD_SIZE_EXPECTED ≤ c.subtree) then c.publish c.subtree else c

/-- A new epoch begins on this module: every link in service is surveyed (R183). -/
def Chip.newEpoch (c : Chip) (e : Nat) : Chip :=
  let c := (c.onClk (fun x => { x with epoch := e, running := true, goBell := c.bell, todo := c.linksUp })).wr F.CLK_SURVEY_STATE 1
  c.resurvey.readmit.tryPublish

/-- SURVEY_GO (R183): ignored unless this module is the timekeeper. -/
def Chip.surveyGo (c : Chip) : Chip := if c.isTk then c.newEpoch ((c.clk.epoch + 1) % 65536) else c

/-- SURVEY_TIMEOUT (R183): the count has not been reached 64 bells after SURVEY_GO. -/
def Chip.surveyTimeout (c : Chip) : Chip :=
  if c.isTk ∧ c.clk.running then
    let c := c.advanceTo ((c.clk.goBell + 64) * bellBeats)
    ((c.wr F.CLK_SURVEY_STATE 3).wr F.CLK_SURVEY_MODULES c.subtree).onClk (fun x => { x with running := false })
  else c

/-- SURVEY_REQ (R182): answered with its arrival in 1/64 beat, and with T3 as the answer departs. -/
def Chip.recvSurveyReq (c : Chip) (k seq arrive : Nat) : Chip :=
  if c.inService k then c.sendCtl k (.surveyRsp seq arrive 0) else c

/-- The signed asymmetry in force of a link. -/
def Chip.asymOf (c : Chip) (k : Nat) : Int := sext 16 (Table.getD c.clk.asym k 0)

/-- The 64th sample ends a link's survey (R182): the mean with CLK_LINK_ASYM, or FAILED where the values spread over more than one beat.
Answers the delay in 1/64 beat, if there is one. -/
def Chip.surveyEnd (c : Chip) (k : Nat) (samples : List Int) : Chip :=
  let sum := samples.foldl (· + ·) 0
  let hi := samples.foldl max (samples.headD 0)
  let lo := samples.foldl min (samples.headD 0)
  let c := c.onClk (fun x => { x with surveys := Table.erase k x.surveys, todo := x.todo.filter (· ≠ k) })
  let c := c.wr F.CLK_LINK_DELAY_PROVISIONAL 0 0 k
  if 128 < hi - lo then
    ((c.wr F.CLK_LINK_DELAY_FAILED 1 0 k).wr F.CLK_LINK_DELAY_VALID 0 0 k).readmit.tryPublish
  else
    let d := max 0 (sum / 128 + c.asymOf k)
    (((c.wr F.CLK_LINK_DELAY_FAILED 0 0 k).wr F.CLK_LINK_DELAY_VALID 1 0 k).wr F.CLK_LINK_DELAY_DELAY (min (2 ^ 24 - 1) d.toNat) 0 k).tryPublish

/-- SURVEY_RSP (R182): one delay sample, twice ((T4 − T1) − (T3 − T2)) / 2; answers whether the survey ended. -/
def Chip.recvSurveyRsp (c : Chip) (k seq t2 t3 t4 : Nat) : Bool × Chip :=
  match Table.find? k c.clk.surveys with
  | some s => match s.waiting.find? (fun w => w.1 == seq) with
    | some (_, t1) =>
      let d : Int := ((t4 : Int) - t1) - ((t3 : Int) - t2)
      let s := { s with waiting := s.waiting.filter (fun w => w.1 ≠ seq), samples := d :: s.samples }
      if s.samples.length < 64 then (false, c.onClk (fun x => { x with surveys := Table.insert k s (Table.erase k x.surveys) }))
      else (true, c.surveyEnd k s.samples)
    | none => (false, c)
  | none => (false, c)

/-! ### Bell marks (R174–R181) -/

/-- A mark shows a sender that may be an upstream (R174, R177). -/
def Chip.fitMark (c : Chip) (m : Mark) : Bool :=
  (m.state == Lock.locked || m.state == Lock.timekeeper) && decide (m.depth ≤ 5) && c.clk.order.contains m.tkId

/-- A candidate link is adoptable (R174, R177). -/
def Chip.adoptable (c : Chip) (k : Nat) : Bool :=
  match Table.find? k c.clk.marks with
  | some m => c.clk.upstreams.contains k && c.inService k && decide (c.bell ≤ Table.getD c.clk.markBell k 0 + 1) && c.fitMark m
  | none => false

/-- Follow the values of the upstream's latest mark. -/
def Chip.followMark (c : Chip) (k : Nat) : Chip :=
  match Table.find? k c.clk.marks with
  | some m => (((c.setUpstream (some k)).wr F.CLK_STATUS_DEPTH (m.depth + 1)).wr F.CLK_STATUS_TK_ID m.tkId).wr F.CLK_STATUS_TK_RANK m.tkRank
      |>.onClk (fun x => { x with tkEpoch := m.tkEpoch })
  | none => c

/-- An upstream is chosen: the root acquires its clock (R173), without a phase step (R175). Until LOCK_ACHIEVED the survey is not current; where it was,
it ceases to be (R76, R184). -/
def Chip.chooseUp (c : Chip) (k : Nat) : Chip :=
  let d := ((c.followMark k).wr F.CLK_STATUS_LOCK Lock.acquiring).onClk (fun x => { x with freeBells := 0, bigErr := 0 })
  if c.surveyCurrent then d.readmit else d

/-- Adopt the adoptable candidate of highest priority (R174, R175). -/
def Chip.adopt (c : Chip) : Chip :=
  match c.clk.upstreams.find? c.adoptable with
  | some k => c.chooseUp k
  | none => c

/-- The error of a mark against this module's boundary of that bell, in 1/64 beat (R180). -/
def Chip.markError (c : Chip) (k : Nat) (m : Mark) (arrive : Nat) : Int :=
  (arrive : Int) - ((m.bell * bellBeats * 64 + m.depart + c.rd F.CLK_LINK_DELAY_DELAY 0 k : Nat) : Int)

/-- BEAT is stepped so that its boundary coincides with the upstream's (R181). -/
def Chip.stepBeat (c : Chip) : Chip := { c with beat := ((c.beat : Int) - (c.clk.lastErr + 32) / 64).toNat }

/-- Contexts 0 and 1 hold nothing ADMITTED, RUNNING or HELD (R181, R192). -/
def Chip.steadIdle (c : Chip) : Bool :=
  [0, 1].all (fun n => let s := (c.ctx n).st; s != .admitted && s != .running && s != .held)

/-- The upstream's mark steers this module (R180, R181): the error is recorded, and three in a row above 8 beats are a fault. -/
def Chip.steer (c : Chip) (k : Nat) (m : Mark) (arrive : Nat) : Chip :=
  let e := c.markError k m arrive
  let mag := e.natAbs
  let c := (c.wr F.CLK_ALIGN_LAST (wrap 16 e)).wr F.CLK_ALIGN_MAX (max (c.rd F.CLK_ALIGN_MAX) (min 65535 mag))
  let c := (c.onClk (fun x => { x with lastErr := e, bigErr := if 512 < mag then x.bigErr + 1 else 0 })).wr F.CLK_STATUS_ALIGNED (b2n (decide (mag ≤ 16)))
  if c.lock = Lock.locked ∧ 3 ≤ c.clk.bigErr then
    let c := (c.event Flt.clock).wr F.CLK_LINK_DELAY_FAILED 1 0 k
    let c := ((c.wr F.CLK_LINK_DELAY_VALID 0 0 k).wr F.CLK_LINK_DELAY_PROVISIONAL 0 0 k).readmit
    let c := if c.steadIdle then c.stepBeat else c
    c.onClk (fun x => { x with bigErr := 0 })
  else c

/-- The survey as the upstream's marks carry it (R183). -/
def Chip.markSurvey (c : Chip) (m : Mark) : Chip :=
  let c := if m.surveyEpoch ≠ c.clk.epoch then c.newEpoch m.surveyEpoch else c
  if m.surveyModules ≠ 0 ∧ m.surveyEpoch = c.clk.epoch ∧ ¬ (c.rd F.CLK_SURVEY_EPOCH = c.clk.epoch ∧ c.rd F.CLK_SURVEY_STATE = 2) then
    c.publish m.surveyModules
  else c

/-- CLK_LINK_ASYM of a link takes effect (R193): the delay in use moves by the change. -/
def Chip.takeAsym (c : Chip) (k : Nat) : Chip :=
  let new := c.rd F.CLK_LINK_ASYM_ASYM 0 k
  let d := (c.rd F.CLK_LINK_DELAY_DELAY 0 k : Int) + sext 16 new - c.asymOf k
  let c := if c.delayOk k ∧ new ≠ Table.getD c.clk.asym k 0 then c.wr F.CLK_LINK_DELAY_DELAY (min (2 ^ 24 - 1) (max 0 d).toNat) 0 k else c
  c.onClk (fun x => { x with asym := Table.insert k new (Table.erase k x.asym) })

/-- The phase of this module is that of the stead: it has been aligned, or is the timekeeper's own. -/
def Chip.phased (c : Chip) : Bool := c.on F.CLK_STATUS_STEPPED || c.isTk

/-- The bell of this module that a mark is the mark of. -/
def Chip.markAt (c : Chip) (m : Mark) : Nat := if c.phased then m.bell else c.bell

/-- A mark arrives within 64 beats of its expected arrival (R175); a module not aligned yet expects none at a beat of its own. -/
def Chip.markInTime (c : Chip) (k : Nat) (m : Mark) (arrive : Nat) : Bool := !c.phased || decide ((c.markError k m arrive).natAbs ≤ 4096)

/-- BELL_MARK_RECEIVE (R174, R175, R180): a mark arrives on a link at a time in 1/64 beat of this module's BEAT. The upstream is kept only while its marks
show a sender that may be one; without an upstream a mark from an adoptable candidate leads to adoption. -/
def Chip.recvMark (c : Chip) (k : Nat) (m : Mark) (arrive : Nat) : Chip :=
  if !c.inService k || c.posLimited k then c
  else
    let inTime := c.markInTime k m arrive
    let c := c.onClk (fun x => { x with
      marks := Table.insert k m (Table.erase k x.marks)
      markBell := if inTime then Table.insert k (c.markAt m) (Table.erase k x.markBell) else x.markBell
      heardTk := x.heardTk || m.state == Lock.locked || m.state == Lock.timekeeper })
    let c := c.takeAsym k
    let bad := !c.clk.order.contains m.tkId
    let c := if bad && !c.clk.badTk.contains k then (c.onClk (fun x => { x with badTk := k :: x.badTk })).event Flt.clock
      else if bad then c else c.onClk (fun x => { x with badTk := x.badTk.filter (· ≠ k) })
    let c := c.markHold k m
    let c := if c.upstream = some k then
        if c.fitMark m then ((c.followMark k).steer k m arrive).markSurvey m else c.loseUpstream
      else if (c.lock = Lock.free ∨ c.lock = Lock.holdover) ∧ c.adoptable k then
        let c := c.adopt
        if c.upstream = some k then c.onClk (fun x => { x with lastErr := c.markError k m arrive }) else c
      else c
    c.tryPublish

/-- LOCK_ACHIEVED (R173, R181): the error stayed within limits for one bell; the first time after reset BEAT is stepped. -/
def Chip.lockAchieved (c : Chip) : Chip :=
  if c.lock = Lock.acquiring then
    let c := c.wr F.CLK_STATUS_LOCK Lock.locked
    let c := if c.on F.CLK_STATUS_STEPPED then c else c.stepBeat.wr F.CLK_STATUS_STEPPED 1
    let c := c.wr F.CLK_STATUS_ALIGNED 1
    let c := c.onClk (fun x => { x with bigErr := 0, lastErr := 0 })
    let c := c.startWaiting
    if c.surveyCurrent then c.passCauses (· == .holdover) else c
  else c

/-- This module's rank in the timekeeper list in force. -/
def Chip.tkRankOf (c : Chip) : Option Nat := c.clk.order.findIdx? (· == c.modId)

/-- TIMEKEEPER_TAKEOVER (R178): rank r ≥ 1 after 2 + 2r bells in HOLDOVER or FREE, rank 0 at boot after four bells without a timekeeper.
An origin of the hold in force that takes the role is in its own set. -/
def Chip.takeover (c : Chip) : Chip :=
  match c.tkRankOf with
  | some r =>
    let may := (c.lock == Lock.free || c.lock == Lock.holdover) && (c.clk.upstreams.all (fun k => !(c.adoptable k &&
        (match Table.find? k c.clk.marks with | some m => decide (m.tkRank < r) | none => false)))) &&
      (if r == 0 then decide (4 ≤ c.clk.freeBells) && !c.on F.CLK_STATUS_STEPPED && !c.clk.heardTk else decide (2 + 2 * r ≤ c.clk.freeBells))
    if may then
      let c := ((((c.wr F.CLK_STATUS_LOCK Lock.timekeeper).setUpstream none).wr F.CLK_STATUS_DEPTH 0).wr F.CLK_STATUS_TK_ID c.modId).wr F.CLK_STATUS_TK_RANK r
      let c := c.onClk (fun x => { x with tkEpoch := (x.tkEpoch + 1) % 65536, tkBells := 0, freeBells := 0 })
      let mine (p : HoldPart) : HoldPart := if p.isOrigin then { p with origins := setOrigin p.origins c.modId p.readySent } else p
      let c := c.onHold (fun h => { h with now := mine h.now, later := h.later.map (fun x => (x.1, mine x.2)) })
      (c.wr F.CLK_STATUS_ALIGNED 1).startWaiting
    else c
  | none => c

/-- The mark this module sends on a link at a bell (R179, R183, R191). -/
def Chip.markFor (c : Chip) (k : Nat) : Mark :=
  let up := c.upstream == some k
  let past := c.hold.resume.any (fun r => decide (r ≤ c.bell))
  let published := c.rd F.CLK_SURVEY_STATE == 2 && c.rd F.CLK_SURVEY_EPOCH == c.clk.epoch
  { bell := c.bell, depart := 0, tkId := c.rd F.CLK_STATUS_TK_ID, tkRank := c.rd F.CLK_STATUS_TK_RANK, tkEpoch := c.clk.tkEpoch
    depth := c.rd F.CLK_STATUS_DEPTH, state := c.lock, surveyEpoch := c.clk.epoch
    surveyModules := if up then c.subtree else if published then c.rd F.CLK_SURVEY_MODULES else 0
    holdBell := if past then 0 else c.hold.bell.getD 0
    resumeBell := if past then 0 else c.hold.resume.getD 0
    up := up }

/-- The lists written to CLK_UPSTREAM, CLK_TK_ORDER and TK_COUNT take effect (R175, R192): a demoted upstream is changed without HOLDOVER, and
the one chosen in its place is acquired (R173). -/
def Chip.applyLists (c : Chip) : Chip :=
  let ups := [(F.CLK_UPSTREAM_VALID0, F.CLK_UPSTREAM_LINK0), (F.CLK_UPSTREAM_VALID1, F.CLK_UPSTREAM_LINK1),
    (F.CLK_UPSTREAM_VALID2, F.CLK_UPSTREAM_LINK2), (F.CLK_UPSTREAM_VALID3, F.CLK_UPSTREAM_LINK3)].filterMap
      (fun e => if c.on e.1 then some (c.rd e.2) else none)
  let order := ([F.CLK_TK_ORDER0_MODULE0, F.CLK_TK_ORDER0_MODULE1, F.CLK_TK_ORDER0_MODULE2, F.CLK_TK_ORDER0_MODULE3,
    F.CLK_TK_ORDER1_MODULE0, F.CLK_TK_ORDER1_MODULE1, F.CLK_TK_ORDER1_MODULE2, F.CLK_TK_ORDER1_MODULE3].map c.rd).take
      (c.rd F.CLK_CTRL_TK_COUNT)
  let changed := ups != c.clk.upstreams
  let c := c.onClk (fun x => { x with upstreams := ups, order := order })
  match c.upstream with
  | some k =>
    if !changed then c
    else match ups.find? c.adoptable with
      | some b => if b ≠ k ∧ (¬ ups.contains k ∨ ups.idxOf b < ups.idxOf k) then c.chooseUp b else c
      | none => if ups.contains k then c else c.loseUpstream
  | none => c

/-- An origin repeats its HOLD or READY toward the timekeeper (R190). -/
def Chip.repeatHold (c : Chip) (p : HoldPart) : Chip :=
  if p.isOrigin then c.sendUp (if p.readySent then .ready c.modId p.named else .hold c.modId p.named p.cause) else c

/-- What a bell boundary does to stead time: marks on every link in service, counts of holdover and of the role, surveys, HOLD or READY
repeated by an origin, lists written take effect (R176, R178, R182, R190, R191, R192). -/
def Chip.clockBell (c : Chip) : Chip :=
  let c := c.applyLists
  let c := c.linksUp.foldl (fun c k => c.sendCtl k (.bell (c.markFor k))) c
  let c := if c.lock = Lock.holdover then c.wr F.CLK_HOLDOVER_BELLS (min 65535 (c.rd F.CLK_HOLDOVER_BELLS + 1)) else c
  let c := c.onClk (fun x => { x with
    freeBells := if c.lock = Lock.free ∨ c.lock = Lock.holdover then x.freeBells + 1 else 0
    tkBells := if c.isTk then x.tkBells + 1 else 0 })
  let c := if c.maySurvey then (c.clk.surveys.map (·.1)).foldl (fun c k => c.surveySend k 32) c else c
  let c := if c.lock = Lock.locked ∧ c.surveyCurrent then c.passCauses (· == .holdover) else c
  let c := if c.hold.bell.isSome && c.hold.resume.isNone then c.repeatHold c.hold.now else c
  let c := match c.hold.later with | some x => c.repeatHold x.2 | none => c
  c.tryResume

end Sys2Proof.Machine
end

