-- ==== Sys2Proof/Machine/LinkSvc.lean ====
section
/-!
DEFINITION. Machine/LinkSvc.lean: link training and service, PEER, retry escalation, lane shed and restore, quiet peers, receive shares
(R206, R216–R223, R226–R228).
-/
namespace Sys2Proof.Machine

/-! ### Service (R53, R216) -/

/-- A link's GLB_SVC bit takes a value: the change is an event of its source, asserted while the link is out (R53, R408). -/
def Chip.svcLink (c : Chip) (k : Nat) (up : Bool) : Chip :=
  let c := c.wr F.GLB_SVC_LINKS_LINKS (setBit (c.rd F.GLB_SVC_LINKS_LINKS) k up)
  if up then (c.causeGone (Flt.link k)).event (Flt.link k) else c.onset (Flt.link k)

/-- RX_LOCK of a lane. -/
def rxLockF (lane : Nat) : Fld :=
  if lane = 0 then F.AGL_LANES_RX_LOCK0 else if lane = 1 then F.AGL_LANES_RX_LOCK1 else if lane = 2 then F.AGL_LANES_RX_LOCK2 else F.AGL_LANES_RX_LOCK3

/-- A lane's receiver locks or loses lock, which its clock domain counts (R172, R192). -/
def Chip.laneLock (c : Chip) (k lane : Nat) (v : Bool) : Chip :=
  let c := if !v && c.on (rxLockF lane) k then c.count F.CLK_DOMAIN_STATUS_LOSSES 1 0 (52 + 4 * k + lane) else c
  c.wr (rxLockF lane) (b2n v) k

/-- LOST of a lane (R220). -/
def Chip.laneLost (c : Chip) (k lane : Nat) : Chip :=
  c.wr (if lane = 0 then F.AGL_LANES_LOST0 else if lane = 1 then F.AGL_LANES_LOST1 else if lane = 2 then F.AGL_LANES_LOST2 else F.AGL_LANES_LOST3) 1 k

/-- TX_ON of the lanes that carry codewords: `p` is 0 none, 1 A, 2 B, 3 both (R225). -/
def Chip.setTx (c : Chip) (k p : Nat) : Chip :=
  let c := (c.wr F.AGL_LANES_TX_ON0 (b2n (bit p 0)) k).wr F.AGL_LANES_TX_ON1 (b2n (bit p 0)) k
  (c.wr F.AGL_LANES_TX_ON2 (b2n (bit p 1)) k).wr F.AGL_LANES_TX_ON3 (b2n (bit p 1)) k

/-- PAIRS: a new assignment starts with a codeword on pair A; without one nothing more is sent (R194, R218, R225). -/
def Chip.setPairs (c : Chip) (k p : Nat) : Chip :=
  let c := if p = 0 then c.onLink k (fun l => { l with fill := [], nextB := false }) else if p = c.txPairs k then c else c.startPairs k
  (c.wr F.AGL_STATUS_PAIRS p k).setTx k p

/-- Pairs, QUIET_MODE and the position limit follow the values last told by both ends (R217, R218). -/
def Chip.applyEnds (c : Chip) (k : Nat) : Chip :=
  let l := c.link k
  let quiet := l.toldQuiet || c.on F.AGL_PEER_MODE_QUIET k
  let c := c.setLink k { l with limited := !l.toldPos || !c.on F.AGL_PEER_POS_VALID k, changeBell := none }
  (c.wr F.AGL_STATUS_QUIET_MODE (b2n quiet) k).setPairs k (if l.good = 3 then (if quiet then 1 else 3) else l.good)

/-- Training begins (R216): no PEER has been received since. -/
def Chip.trainLink (c : Chip) (k : Nat) : Chip :=
  (((c.wr F.AGL_STATUS_STATE LinkSt.training k).wr F.AGL_PEER_VALID 0 k).setPairs k 0).onLink k (fun l => { l with
    trainAt := c.beat, good := 0, uncorr := [], changeBell := none })

/-- A link leaves service, or an attempt ends, in state `st`: CAUSE is recorded on an exit from service, re-admission runs and an upstream on
this link is lost (R175, R216, R225, R226, R76). Sequence state, replay buffer and credits stay (R219). -/
def Chip.leaveService (c : Chip) (k cause st : Nat) : Chip :=
  let was := c.inService k
  let c := (((c.wr F.AGL_STATUS_STATE st k).wr F.AGL_STATUS_SHED 0 k).wr F.AGL_STATUS_QUIET_MODE 0 k).wr F.AGL_STATUS_RESTORING 0 k
  let c := (c.setPairs k 0).onLink k (fun l => { l with restore := none, cur := [], ctlq := [], changeBell := none, good := 0 })
  let c := c.onClk (fun x => { x with surveys := Table.erase k x.surveys, marks := Table.erase k x.marks })
  if was then
    let c := (c.wr F.AGL_STATUS_CAUSE cause k).svcLink k false
    let c := if c.upstream = some k then c.loseUpstream else c
    c.readmit
  else c

/-- The link leaves service and trains again at once (R216). -/
def Chip.leaveAndTrain (c : Chip) (k cause : Nat) : Chip := (c.leaveService k cause LinkSt.training).trainLink k

/-! ### PEER (R202, R217–R219) -/

/-- This module's EPOCH, drawn at every module reset (R219): the spec gives no number for it (log entry 13). -/
def Chip.ownEpoch (c : Chip) : Nat := Config.freeNat c.epochTag % 65536

/-- The PEER message this end sends on a link. -/
def Chip.ownPeer (c : Chip) (k : Nat) : PeerMsg :=
  ⟨c.modId, k, c.posValid, c.mode == .quiet, c.ownEpoch, (List.range 7).map (fun v => c.rd F.AGL_VC_CFG_BUF k v)⟩

/-- Send PEER on a link. -/
def Chip.sendPeer (c : Chip) (k : Nat) : Chip :=
  (c.onLink k (fun l => { l with peerSent := c.beat, toldPos := c.posValid, toldQuiet := c.mode == .quiet })).sendCtl k (.peer (c.ownPeer k))

/-- A new EPOCH resets the link's sequence state (R219). Frames unacknowledged or queued are lost to their clients, and what was forwarded of them frees
the flits it held where it came in (R208, R210); an accepted frame stays with its client and frees no flit of the new count, one that waits to be
forwarded goes on. -/
def Chip.resetSeq (c : Chip) (k : Nat) (buf : List Nat) : Chip :=
  let l := c.link k
  let gone := l.txq.filterMap (fun e => e.2.map (fun i => (i, e.1))) ++ l.replay.filterMap (fun r => r.origin.map (fun i => (i, r.frame)))
  let c := (c.wr F.AGL_SEQ_NEXT 0 k).onLink k (fun l => { l with
    txq := [], replay := [], resend := [], cur := [], mirrorOut := [], expect := 0, nakSent := false, ackOwed := false
    rx := l.rx.filterMap (fun r => if r.placed || r.forward then none else some { r with old := true })
    used := [0, 0, 0, 0, 0, 0, 0], limit := buf, freed := [0, 0, 0, 0, 0, 0, 0] })
  let other (o : Option Nat) : Option Nat := if o = some k then none else o
  let c := (List.range 32).foldl (fun c j => c.onLink j (fun l => { l with
    txq := l.txq.map (fun e => (e.1, other e.2)), replay := l.replay.map (fun r => { r with origin := other r.origin }) })) c
  gone.foldl (fun c x => if x.1 = k then c else c.forwardDone x.1 x.2) c

/-- The shares a PEER carries: a changed EPOCH resets the sequence state, else LIMIT moves by the change of each share (R209, R219). -/
def Chip.takeEpoch (c : Chip) (k : Nat) (p : PeerMsg) : Chip :=
  let l := c.link k
  let c := if l.peerEpoch = some p.epoch then
      c.setLink k { l with limit := (List.range 7).map (fun v => (l.limit.getD v 0 + subMod 16 (p.buf.getD v 0) (l.peerBuf.getD v 0)) % 65536) }
    else
      let c := c.resetSeq k p.buf
      if l.peerEpoch.isSome then (c.wr F.AGL_STATUS_CAUSE 3 k).wr F.AGL_STATUS_PEER_QUIET 0 k else c
  c.onLink k (fun l => { l with peerEpoch := some p.epoch, peerBuf := p.buf })

/-- The link resumes frames on its pairs: ACK and CREDIT are exchanged, unacknowledged frames are sent again, the link is surveyed (R185,
R219, R220). -/
def Chip.resumeFrames (c : Chip) (k : Nat) : Chip :=
  let c := c.onLink k (fun l => { l with resend := l.replay.map (·.lseq), cur := [], ackOwed := false })
  let c := (c.sendCtl k .ack).sendCtl k (.credit (c.link k).freed)
  c.startSurvey k

/-- Entry to UP from PEER_CHECK (R216, R217): in service on the pairs locked. -/
def Chip.enterUp (c : Chip) (k : Nat) : Chip :=
  let c := (c.wr F.AGL_STATUS_STATE LinkSt.up k).wr F.AGL_STATUS_SHED (b2n ((c.link k).good != 3)) k
  (((c.applyEnds k).svcLink k true).readmit).resumeFrames k

/-- The peer matches AGL_EXPECT, or CHECK_EN is 0 (R216). -/
def Chip.peerMatches (c : Chip) (k : Nat) (p : PeerMsg) : Bool :=
  !c.on F.AGL_EXPECT_CHECK_EN k || (p.modId == c.rd F.AGL_EXPECT_PEER_MODULE k && p.link == c.rd F.AGL_EXPECT_PEER_LINK k)

/-- PEER (R216–R219): a link in PEER_CHECK goes UP or to MISWIRED; one in service changes pairs and channels at the next bell boundary. Its header's ACK
counts once the EPOCH is taken. -/
def Chip.recvPeer (c : Chip) (k ack : Nat) (copy : Bool) (p : PeerMsg) : Chip :=
  let st := c.linkState k
  if !(st == LinkSt.peerCheck || st == LinkSt.miswired || c.inService k) then c
  else
    let (act, c) := c.firstCopy k copy (.peer p)
    if !act then c
    else
      let changed := c.on F.AGL_PEER_POS_VALID k != p.posValid || c.on F.AGL_PEER_MODE_QUIET k != p.quiet
      let c := ((c.wr F.AGL_PEER_VALID 1 k).wr F.AGL_PEER_POS_VALID (b2n p.posValid) k).wr F.AGL_PEER_MODE_QUIET (b2n p.quiet) k
      let c := (((c.wr F.AGL_PEER_LINK p.link k).wr F.AGL_PEER_MODULE p.modId k).takeEpoch k p).linkAck k ack
      if st = LinkSt.peerCheck then
        let c := c.onLink k (fun l => { l with expectPeer := some (c.rd F.AGL_EXPECT_ROLE k, c.rd F.AGL_EXPECT_CHECK_EN k,
          c.rd F.AGL_EXPECT_PEER_LINK k, c.rd F.AGL_EXPECT_PEER_MODULE k) })
        if c.peerMatches k p then c.enterUp k
        else ((c.wr F.AGL_STATUS_STATE LinkSt.miswired k).wr F.AGL_STATUS_CAUSE 4 k).event (Flt.link k)
      else if changed && c.inService k then c.onLink k (fun l => { l with changeBell := some (c.bell + 1) })
      else c

/-- PEER_REPEAT_TIMER (R202): every 1,024 beats until the peer's PEER is received. -/
def Chip.peerRepeat (c : Chip) (k : Nat) : Chip :=
  if c.linkState k = LinkSt.peerCheck ∧ !c.on F.AGL_PEER_VALID k then (c.advanceTo ((c.link k).peerSent + 1024)).sendPeer k else c

/-- What a bell boundary does to the links: changes told one bell ago take effect, and a change of this end's QUIET mode or POSITION_VALID is
told (R218). A link that no longer lacks a position is surveyed. -/
def Chip.linkBell (c : Chip) : Chip :=
  c.linksUp.foldl (fun c k =>
    let was := c.posLimited k
    let c := match (c.link k).changeBell with
      | some b => if b ≤ c.bell then c.applyEnds k else c
      | none => c
    let c := if was && !c.posLimited k then c.startSurvey k else c
    let l := c.link k
    if l.toldPos != c.posValid || l.toldQuiet != (c.mode == .quiet) then
      (c.sendPeer k).onLink k (fun l => { l with changeBell := some (c.bell + 1) })
    else c) c

/-! ### Retry escalation (R206) -/

/-- Replay from LSEQ `n`, or, where it was replayed 16 times already, leave service with CAUSE 2 and train. -/
def Chip.retryFrom (c : Chip) (k n : Nat) : Chip :=
  match (c.link k).replay.find? (·.lseq == n) with
  | some r => if 16 ≤ r.replays then c.leaveAndTrain k 2 else c.replayFrom k n
  | none => c

/-- REPLAY_TIMEOUT (R206): 4,096 beats from the latest transmission of the oldest unacknowledged frame. -/
def Chip.replayTimeout (c : Chip) (k : Nat) : Chip :=
  if c.linkState k ≠ LinkSt.up then c
  else match (c.link k).replay with
    | r :: _ => (c.advanceTo (r.sent + 4096)).retryFrom k r.lseq
    | [] => c

/-! ### Lane shed (R220, R221) -/

/-- The pair of a lane: 1 A, 2 B. -/
def pairOf (lane : Nat) : Nat := if lane < 2 then 1 else 2

/-- Keep pair `p` only: new frames stop, SHED is sent, the link is RETRAINING and re-surveyed; the shed is an event and starts
re-admission (R220, R221). -/
def Chip.shedTo (c : Chip) (k p : Nat) : Chip :=
  let c := c.onLink k (fun l => { l with good := p, trainAt := c.beat })
  let c := (((c.wr F.AGL_STATUS_STATE LinkSt.retraining k).wr F.AGL_STATUS_SHED 1 k).setPairs k p).count F.AGL_SHEDS_SHEDS 1 k
  (((c.sendCtl k (.shed (p == 2))).event (Flt.link k)).readmit).startSurvey k

/-- A pair of a link no longer works: the other pair carries on; without one a link in service leaves it with CAUSE 1 and trains again at once, and so does
a link that checks its peer, while a MISWIRED one waits (R216, R220). -/
def Chip.losePair (c : Chip) (k p : Nat) : Chip :=
  let good := (c.link k).good
  if good = 3 then
    if c.linkState k = LinkSt.up then c.shedTo k (3 - p)
    else (c.onLink k (fun l => { l with good := 3 - p })).setTx k (3 - p)
  else if good = p then
    if c.linkState k = LinkSt.miswired then (c.onLink k (fun l => { l with good := 0 })).setTx k 0 else c.leaveAndTrain k 1
  else c.onLink k (fun l => { l with restore := l.restore.map (fun r => { r with here := false }) })

/-- LANE_LOSS (R220): a lane loses clock lock. -/
def Chip.laneLoss (c : Chip) (k lane : Nat) : Chip :=
  let st := c.linkState k
  if !(st == LinkSt.peerCheck || st == LinkSt.miswired || c.inService k) then c.laneLock k lane false
  else ((c.laneLock k lane false).laneLost k lane).losePair k (pairOf lane)

/-- CODEWORD_UNCORRECTABLE (R196, R220, R228): codeword `n` of a pair is counted and is an event; the eighth within 1,024 consecutive
codewords loses the lanes of the pair. Its frames fail as they arrive, and its CONTROL frames do not. -/
def Chip.codewordBad (c : Chip) (k : Nat) (pairB : Bool) (n : Nat) : Chip :=
  let p := if pairB then 2 else 1
  let c := (c.count F.AGL_FEC_UNCORR_COUNT 1 k).event (Flt.link k)
  let recent := ((p, n) :: (c.link k).uncorr).filter (fun u => u.1 ≠ p || decide (n < u.2 + 1024))
  let c := c.onLink k (fun l => { l with uncorr := recent })
  if 8 ≤ (recent.filter (fun u => u.1 == p)).length then
    let c := c.onLink k (fun l => { l with uncorr := l.uncorr.filter (fun u => u.1 ≠ p) })
    let a := if pairB then 2 else 0
    ((c.laneLost k a).laneLost k (a + 1)).losePair k p
  else c

/-- SHED (R220): the other end names the pair kept; this end does the same, unless it is retraining on that pair already. Where the pair kept does not
work here, the link leaves service with CAUSE 1. -/
def Chip.recvShed (c : Chip) (k : Nat) (keepB : Bool) : Chip :=
  let p := if keepB then 2 else 1
  let good := (c.link k).good
  if good = 3 then c.shedTo k p
  else if good = p then c
  else c.leaveAndTrain k 1

/-- SHED_RETRAIN_END (R216, R219, R220): lock on the pair returns the link to UP with SHED, else it leaves service with CAUSE 1 and trains again at
once. -/
def Chip.shedEnd (c : Chip) (k : Nat) (ok : Bool) : Chip :=
  if c.linkState k ≠ LinkSt.retraining then c
  else
    let c := c.wr F.AGL_TRAIN_TIME_SHED (min 65535 ((c.beat - (c.link k).trainAt) / 90)) k
    if ok then ((c.wr F.AGL_STATUS_STATE LinkSt.up k).sendPeer k).resumeFrames k else c.leaveAndTrain k 1

/-! ### Training (R216) -/

/-- LANE_LOCK (R216): a lane locks; a DOWN link trains. -/
def Chip.laneLocks (c : Chip) (k lane : Nat) : Chip :=
  if !c.linkPresent k then c
  else
    let c := c.laneLock k lane true
    if c.linkState k = LinkSt.down then c.trainLink k else c

/-- FAILED with CAUSE 5 waits for RETRAIN (R197, R216). -/
def Chip.overlong (c : Chip) (k : Nat) : Bool := c.rd F.AGL_STATUS_CAUSE k == 5

/-- TRAINING_SIGNAL_DETECT (R216). -/
def Chip.signalDetect (c : Chip) (k : Nat) : Chip :=
  if !c.linkPresent k then c
  else if c.linkState k = LinkSt.down ∨ (c.linkState k = LinkSt.failed ∧ !c.overlong k) then c.trainLink k else c

/-- TRAINING_END (R216): with a pair locked the link checks its peer, else the attempt is counted as failed. `lanes` has a bit per lane locked. -/
def Chip.trainingEnd (c : Chip) (k lanes : Nat) : Chip :=
  if c.linkState k ≠ LinkSt.training then c
  else
    let c := (List.range 4).foldl (fun c j => c.laneLock k j (bit lanes j)) c
    let good := b2n (bit lanes 0 && bit lanes 1) + 2 * b2n (bit lanes 2 && bit lanes 3)
    let c := c.wr F.AGL_TRAIN_TIME_FULL (min 65535 ((c.beat - (c.link k).trainAt) / 900000)) k
    if good = 0 then
      ((c.wr F.AGL_STATUS_STATE LinkSt.failed k).wr F.AGL_STATUS_CAUSE 7 k).count F.AGL_SHEDS_TRAIN_FAIL 1 k |>.onLink k
        (fun l => { l with failedAt := c.beat })
    else (((c.wr F.AGL_STATUS_STATE LinkSt.peerCheck k).onLink k (fun l => { l with good := good, nextB := false })).setTx k good).sendPeer k

/-- TRAINING_RETRY (R216): one second after a failed attempt. -/
def Chip.trainingRetry (c : Chip) (k : Nat) : Chip :=
  if c.linkState k = LinkSt.failed ∧ !c.overlong k then (c.advanceTo ((c.link k).failedAt + 900000000)).trainLink k else c

/-- LINK_DISABLE (R216, R226): DISABLE takes the link out of service and holds it; cleared, the link is DOWN. -/
def Chip.linkDisable (c : Chip) (k : Nat) (v : Bool) : Chip :=
  let c := c.wr F.AGL_CTRL_DISABLE (b2n v) k
  if v then (if c.linkState k = LinkSt.disabled then c else c.leaveService k 6 LinkSt.disabled)
  else if c.linkState k = LinkSt.disabled then c.wr F.AGL_STATUS_STATE LinkSt.down k
  else c

/-- RETRAIN (R216, R226): full training; ignored while the link is held DISABLED. CAUSE has no code for it and stays. -/
def Chip.retrain (c : Chip) (k : Nat) : Chip :=
  if !c.linkPresent k || c.linkState k == LinkSt.disabled then c else c.leaveAndTrain k (c.rd F.AGL_STATUS_CAUSE k)

/-! ### Restore (R222) -/

/-- A restore begins at this end: the shed pair retrains beneath traffic. -/
def Chip.restoreStart (c : Chip) (k : Nat) (own : Bool) : Chip :=
  if c.linkState k = LinkSt.up ∧ c.on F.AGL_STATUS_SHED k then
    match (c.link k).restore with
    | some r => c.onLink k (fun l => { l with restore := some { r with own := r.own && own } })
    | none =>
      let c := (c.wr F.AGL_STATUS_RESTORING 1 k).onLink k (fun l => { l with restore := some { start := c.beat, own := own } })
      if own then c.sendCtl k (.restore 0 0) else c
  else c

/-- Both ends have the pair locked: the end that received the request names the join bell. -/
def Chip.restoreJoin (c : Chip) (k : Nat) : Chip :=
  match (c.link k).restore with
  | some r =>
    if r.here && r.there && !r.own && r.join.isNone then
      let b := c.bellAhead 4096
      (c.onLink k (fun l => { l with restore := some { r with join := some b } })).sendCtl k (.restore 2 b)
    else c
  | none => c

/-- RESTORE_PAIR_LOCKED: this end's shed pair is locked and clean for 1 ms, and says so. -/
def Chip.restoreLocked (c : Chip) (k : Nat) : Chip :=
  match (c.link k).restore with
  | some r =>
    if r.here then c
    else ((c.onLink k (fun l => { l with restore := some { r with here := true } })).sendCtl k (.restore 1 0)).restoreJoin k
  | none => c

/-- A RESTORE message arrives: a request, the other end's report, or the join bell. -/
def Chip.recvRestore (c : Chip) (k phase b : Nat) : Chip :=
  if phase = 0 then c.restoreStart k false
  else if phase = 1 then (c.onLink k (fun l => { l with restore := l.restore.map (fun r => { r with there := true }) })).restoreJoin k
  else c.onLink k (fun l => { l with restore := l.restore.map (fun r => { r with join := some b }) })

/-- RESTORE_JOIN_BELL: both pairs carry codewords, SHED clears, re-admission runs. -/
def Chip.restoreJoinBell (c : Chip) (k : Nat) : Chip :=
  match (c.link k).restore with
  | some r => match r.join with
    | some b =>
      let c := c.advanceTo (b * bellBeats)
      let c := (List.range 4).foldl (fun c j => c.laneLock k j true) c
      let c := (c.onLink k (fun l => { l with restore := none, good := 3 })).wr F.AGL_STATUS_RESTORING 0 k
      ((c.wr F.AGL_STATUS_SHED 0 k).setPairs k (if c.on F.AGL_STATUS_QUIET_MODE k then 1 else 3)).readmit
    | none => c
  | none => c

/-- RESTORE_TIMEOUT: the pair has not locked within 100 ms, 90,000,000 beats. -/
def Chip.restoreTimeout (c : Chip) (k : Nat) : Chip :=
  match (c.link k).restore with
  | some r =>
    if r.join.isSome then c
    else
      let c := (c.advanceTo (r.start + 90000000)).onLink k (fun l => { l with restore := none })
      ((c.wr F.AGL_STATUS_RESTORING 0 k).wr F.AGL_STATUS_RESTORE_FAIL 1 k).event (Flt.link k)
  | none => c

/-! ### Receive shares, quiet peers, overlength -/

/-- VC_BUF_WRITE (R227). -/
def Chip.vcBufWrite (c : Chip) (k v n : Nat) : Chip :=
  let n := n % 2 ^ 15
  let st := c.linkState k
  let sum := ((List.range 7).map (fun i => if i = v then n else c.rd F.AGL_VC_CFG_BUF k i)).sum
  if (st == LinkSt.down || st == LinkSt.disabled || st == LinkSt.failed) && decide (sum ≤ 16384) then c.wr F.AGL_VC_CFG_BUF n k v
  else c.wr F.AGL_VC_CFG_CFG_ERR 1 k v

/-- QUIET (R223): PEER_QUIET is set, and the message is a HOLD with CAUSE 4 from its origin. -/
def Chip.recvQuiet (c : Chip) (k origin b : Nat) : Chip := (c.wr F.AGL_STATUS_PEER_QUIET 1 k).recvHold k origin b 4

/-- LIVE (R223): frames held for the peer go on. -/
def Chip.recvLive (c : Chip) (k : Nat) : Chip := c.wr F.AGL_STATUS_PEER_QUIET 0 k

/-- SURVEY_RSP (R182, R197): a survey that ends with a delay above 300 beats takes the link out of service. -/
def Chip.surveyRsp (c : Chip) (k seq t2 t3 t4 : Nat) : Chip :=
  let (ended, c) := c.recvSurveyRsp k seq t2 t3 t4
  if ended && c.on F.CLK_LINK_DELAY_VALID 0 k && decide (300 * 64 < c.rd F.CLK_LINK_DELAY_DELAY 0 k) then
    c.leaveService k 5 LinkSt.failed
  else c

end Sys2Proof.Machine
end

