-- ==== Sys2Proof/Machine/Entry.lean ====
section
/-!
DEFINITION. Machine/Entry.lean: almanac entries, HEAD, group descriptors, tables in the crib, shapes and cycles of the operations
(R60–R62, R72–R74, R230–R238).
-/
namespace Sys2Proof.Machine

/-! ### Entries (R61) -/

/-- Opcodes (R72). -/
def Op.nop : Nat := 0x00
def Op.head : Nat := 0x01
def Op.end_ : Nat := 0x02
def Op.loop : Nat := 0x03
def Op.bellWait : Nat := 0x04
def Op.step : Nat := 0x05
def Op.fence : Nat := 0x06
def Op.openShift : Nat := 0x07
def Op.matmul : Nat := 0x10
def Op.matmulAcc : Nat := 0x11
def Op.attend : Nat := 0x12
def Op.ewise : Nat := 0x20
def Op.rowred : Nat := 0x21
def Op.norm : Nat := 0x22
def Op.convert : Nat := 0x23
def Op.update : Nat := 0x28
def Op.updx : Nat := 0x29
def Op.move : Nat := 0x30
def Op.matmulRs : Nat := 0x40
def Op.agMatmul : Nat := 0x41
def Op.rsUpdate : Nat := 0x42
def Op.a2aMatmul : Nat := 0x43
def Op.ar : Nat := 0x44
def Op.bcast : Nat := 0x45
def Op.stageSend : Nat := 0x46
def Op.stageRecv : Nat := 0x47

/-- An entry's fields (R61). Operand words are kept whole: bits [23:0] index, 24 USE, 25 TRANS. -/
structure Entry where
  op : Nat
  stamp : Bool
  chain : Bool
  rnd : Bool
  subop : Nat
  p16 : Nat
  issue : Nat
  slot : Nat
  group : Nat
  opnd : List Nat
  p32 : Nat
  rsv : Bool
  words : List Nat
  deriving DecidableEq, Repr

/-- An entry from its eight words. -/
def Entry.parse (w : List Nat) : Entry :=
  let w0 := w.getD 0 0
  let o := [w.getD 3 0, w.getD 4 0, w.getD 5 0, w.getD 6 0]
  { op := field w0 0 8, stamp := bit w0 8, chain := bit w0 9, rnd := bit w0 10, subop := field w0 12 4, p16 := field w0 16 16
    issue := w.getD 1 0, slot := field (w.getD 2 0) 0 24, group := field (w.getD 2 0) 24 8, opnd := o, p32 := w.getD 7 0
    rsv := bit w0 11 || (field w0 0 8 != Op.updx && o.any (fun x => field x 26 6 != 0)), words := w }

/-- USE of operand `k` (0 A … 3 D). -/
def Entry.use (e : Entry) (k : Nat) : Bool := bit (e.opnd.getD k 0) 24
/-- TRANS of operand `k`. -/
def Entry.trans (e : Entry) (k : Nat) : Bool := bit (e.opnd.getD k 0) 25
/-- Descriptor index of operand `k`. -/
def Entry.desc (e : Entry) (k : Nat) : Nat := field (e.opnd.getD k 0) 0 24
/-- BODY of a LOOP. -/
def Entry.body (e : Entry) : Nat := field (e.words.getD 3 0) 0 24
/-- Combines. -/
def Entry.isCombine (e : Entry) : Bool := 0x40 ≤ e.op && e.op ≤ 0x47
/-- Combines that reduce (R231). -/
def Entry.reduces (e : Entry) : Bool := e.op == Op.matmulRs || e.op == Op.rsUpdate || e.op == Op.ar
/-- Operations that use the thresher unit (R72, R229). -/
def Entry.onThresher (e : Entry) : Bool :=
  [Op.openShift, Op.matmul, Op.matmulAcc, Op.attend, Op.ewise, Op.rowred, Op.norm, Op.convert, Op.update, Op.matmulRs, Op.agMatmul,
   Op.rsUpdate, Op.a2aMatmul].contains e.op
/-- Operations that use the mover. -/
def Entry.onMover (e : Entry) : Bool := [Op.fence, Op.update, Op.move].contains e.op
/-- Operands required and optional, as masks with bit 0 for A (R72, R230); none for an opcode not in the table. -/
def opOperands (op : Nat) : Option (Nat × Nat) :=
  if [Op.nop, Op.head, Op.end_, Op.loop, Op.bellWait, Op.step, Op.fence, Op.openShift, Op.updx].contains op then some (0, 0)
  else if op = Op.matmul ∨ op = Op.matmulRs ∨ op = Op.a2aMatmul then some (11, 0)
  else if op = Op.matmulAcc ∨ op = Op.attend ∨ op = Op.agMatmul then some (15, 0)
  else if op = Op.ewise then some (9, 2)
  else if op = Op.rowred ∨ op = Op.convert ∨ op = Op.move ∨ op = Op.ar ∨ op = Op.bcast then some (9, 0)
  else if op = Op.norm then some (11, 4)
  else if op = Op.update ∨ op = Op.rsUpdate then some (7, 8)
  else if op = Op.stageSend then some (1, 0)
  else if op = Op.stageRecv then some (8, 0)
  else none

/-- USE bits as a mask. -/
def Entry.useMask (e : Entry) : Nat := b2n (e.use 0) + 2 * b2n (e.use 1) + 4 * b2n (e.use 2) + 8 * b2n (e.use 3)

/-- SUBOP values an opcode defines (R72, R74); the reduction modes and UNITS of combines are R231's. -/
def Entry.subopOk (e : Entry) : Bool :=
  if e.op = Op.fence ∨ e.op = Op.rowred ∨ e.op = Op.update then e.subop ≤ 2
  else if e.op = Op.attend ∨ e.op = Op.norm then e.subop ≤ 1
  else if e.op = Op.move then e.subop ≤ 3
  else if e.op = Op.rsUpdate then e.subop / 4 ≤ 2
  else if e.isCombine then true
  else e.subop == 0

/-! ### HEAD (R62) -/

/-- A reserved bit of HEAD is set. -/
def headRsv (w : List Nat) : Bool :=
  field (w.getD 0 0) 8 4 != 0 || field (w.getD 0 0) 20 12 != 0 || field (w.getD 1 0) 8 8 != 0 || field (w.getD 1 0) 25 7 != 0 ||
  field (w.getD 2 0) 25 7 != 0 || field (w.getD 5 0) 9 23 != 0

/-- The fields of HEAD. -/
def Head.parse (w : List Nat) : Head :=
  { kind := field (w.getD 0 0) 12 4, modes := field (w.getD 0 0) 16 4, headland := field (w.getD 1 0) 0 8
    loftSlices := field (w.getD 1 0) 16 9, entryCount := field (w.getD 2 0) 0 25
    seed := w.getD 3 0 + w.getD 4 0 * 2 ^ 32, modules := field (w.getD 5 0) 0 9, id := w.getD 6 0, pairId := w.getD 7 0 }

/-- The headland in percent: 0 selects 6. -/
def Head.percent (h : Head) : Nat := if h.headland = 0 then 6 else h.headland

/-- Headland of a slot in ticks (R65); OPEN_SHIFT and LOOP carry none. -/
def Head.land (h : Head) (e : Entry) : Nat := if e.op = Op.openShift ∨ e.op = Op.loop then 0 else ceilDiv (e.slot * h.percent) 100

/-! ### Contexts and tables (R59, R60) -/

/-- The address space of a context. -/
def ctxSpace (n : Nat) : Nat := if n < 2 then steadSpace else n - 2
/-- The kind a context's almanac must have: 0 local, 1 stead, 2 fallow. -/
def ctxKind (n : Nat) : Nat := if n = 0 then 1 else if n = 1 then 2 else 0
/-- Stead and fallow contexts. -/
def isStead (n : Nat) : Bool := n < 2

/-- A table byte range is readable under R60: every page is of tier crib and grants R. -/
def Chip.tableOk (c : Chip) (space va n : Nat) : Bool :=
  (runs va n).all (fun r => match c.look space r.1 .read with | .ok .crib _ _ => true | _ => false)

/-- Bytes of a table as the sequencer reads them. -/
def Chip.tableBytes (c : Chip) (space va n : Nat) : List Byte := (c.vaRead space va n).1.map (·.1)

/-- Virtual address of entry `i` of a context. -/
def Chip.entryVa (c : Chip) (n i : Nat) : Nat := c.rd F.ALM_BASE_VA 0 n + 32 * i
/-- Entry `i` of a context, as its words. -/
def Chip.entryWords (c : Chip) (n i : Nat) : List Nat := wordsOf 8 (c.tableBytes (ctxSpace n) (c.entryVa n i) 32)
def Chip.entry (c : Chip) (n i : Nat) : Entry := Entry.parse (c.entryWords n i)
/-- Virtual address of a descriptor. -/
def Chip.descVa (c : Chip) (n i : Nat) : Nat := c.rd F.ALM_DESC_VA 0 n + 64 * i
def Chip.descBytes (c : Chip) (n i : Nat) : List Byte := c.tableBytes (ctxSpace n) (c.descVa n i) 64
def Chip.descAt (c : Chip) (n i : Nat) : Desc := Desc.parse (c.descBytes n i)

/-! ### Group descriptors (R232) -/

/-- A group descriptor; `rsv` that a reserved bit is set. -/
structure Group where
  seats : Nat
  ricks : Nat
  steads : Nat
  rootSeat : Nat
  rootRick : Nat
  rowOrder : List Nat
  colOrder : List Nat
  ring : Nat
  wire : Nat
  inner : Nat
  chaff : Nat
  peer : Nat
  tgroup : Nat
  rsv : Bool
  deriving DecidableEq, Repr

/-- The 16 nibbles of a word. -/
def nibbles (v : Nat) : List Nat := (List.range 16).map (fun k => field v (4 * k) 4)

/-- A group descriptor from its 64 bytes. -/
def Group.parse (b : List Byte) : Group :=
  let a := leAt b 0 4
  let s := leAt b 4 4
  let r := leAt b 0x18 4
  let ch := leAt b 0x1C 4
  let p := leAt b 0x20 4
  { seats := field a 0 16, ricks := field a 16 16, steads := field s 0 16, rootSeat := field s 16 4, rootRick := field s 20 4
    rowOrder := nibbles (leAt b 8 8), colOrder := nibbles (leAt b 0x10 8)
    ring := field r 0 24, wire := field r 24 4, inner := field r 28 1, chaff := field ch 0 24, peer := field p 0 8, tgroup := field p 16 6
    rsv := field s 24 8 != 0 || field r 29 3 != 0 || field ch 24 8 != 0 || field p 8 8 != 0 || field p 22 10 != 0 ||
      (b.drop 0x24).any (· != 0) }

/-- Virtual address of a group descriptor. -/
def Chip.groupVa (c : Chip) (n i : Nat) : Nat := c.rd F.ALM_GROUP_VA 0 n + 64 * i
def Chip.groupBytes (c : Chip) (n i : Nat) : List Byte := c.tableBytes (ctxSpace n) (c.groupVa n i) 64
def Chip.groupAt (c : Chip) (n i : Nat) : Group := Group.parse (c.groupBytes n i)

/-- Members of each level (R234). -/
def Group.n1 (g : Group) : Nat := popCount g.seats 16
def Group.n2 (g : Group) : Nat := popCount g.ricks 16
def Group.n3 (g : Group) : Nat := popCount g.steads 16
/-- P of R234. -/
def Group.p (g : Group) : Nat := g.n1 * g.n2 * g.n3
/-- Position of a seat, rick or stead among the set bits of a mask. -/
def maskRank (mask x : Nat) : Nat := popCount mask x
/-- The set bit at a position. -/
def maskAt (mask pos : Nat) : Nat := (bitsOf mask 16).getD pos 0

/-- The stead number of this module (R234). -/
def Chip.steadId (c : Chip) : Nat := c.rd F.CMB_STEAD_STEAD_ID
/-- A group names the stead of this module (R234). -/
def Chip.ownStead (c : Chip) (g : Group) : Bool := bit g.steads c.steadId

/-- A module at a seat and rick of this stead is named by the group. -/
def Group.names (g : Group) (m : Nat) : Bool := bit g.seats (seatOf m) && bit g.ricks (rickOf m)
/-- This module is a member (R234). -/
def Chip.member (c : Chip) (g : Group) : Bool := g.names c.modId && c.ownStead g

/-- Rank of this module's stead among those named. -/
def Chip.steadRank (c : Chip) (g : Group) : Nat := if g.n3 ≤ 1 then 0 else maskRank g.steads c.steadId

/-! ### Reduction modes and sheaves (R231, R236–R238) -/

/-- The reduction mode of a combine: 0 ORDERED, 1 TALLY, 2 WINNOWED. -/
def Entry.mode (e : Entry) : Nat := e.subop % 4
/-- UNITS (R231). -/
def Entry.units (e : Entry) : Bool := (e.op == Op.matmulRs || e.op == Op.ar) && bit e.subop 2
/-- The UPDATE recipe of an entry. -/
def Entry.recipe (e : Entry) : Nat := if e.op = Op.rsUpdate then e.subop / 4 else e.subop
/-- Integers travel within the stead: TALLY, or WINNOWED over TALLY. -/
def Entry.integers (e : Entry) (g : Group) : Bool := e.reduces && (e.mode == 1 || (e.mode == 2 && g.inner == 1))

/-- Bytes of a sheaf's elements on the way up: the ring's format, or 8 bytes under TALLY, with scales where the ring has them (R455). -/
def sheafBytes (ring : Desc) (ints : Bool) : Nat :=
  let n := 1024 * ring.dim 1
  if ints then 8 * n else packedBytes ring.format n + (if ring.scaleMode = 1 then n / 32 else 0)

/-- Flits of a byte string sent in frames of 4,096 (R198, R243). -/
def flitsOf (n : Nat) : Nat := n / 4096 * 65 + (if n % 4096 = 0 then 0 else (20 + n % 4096 + 63) / 64)
/-- Frames of a byte string. -/
def framesOf (n : Nat) : Nat := ceilDiv n 4096

/-! ### Shapes and cycles (R72) -/

/-- p of a format: MACs per cell per cycle. -/
def macsPerCycle (f : Nat) : Nat := if f = 6 then 4 else if f = 3 ∨ f = 4 ∨ f = 5 ∨ f = 7 then 2 else 1

/-- tiles of R72. -/
def tiles (f k n batch : Nat) : Nat := ceilDiv k (1536 * macsPerCycle f) * ceilDiv n 1024 * batch

/-- mm of R72. -/
def mmCycles (f m k n batch : Nat) : Nat := tiles f k n batch * max ((if f = 0 then 4 else 1) * m) 1536 + 2520

/-- M, K and N of a product, from its A and B descriptors in logical orientation. -/
def Entry.mkn (e : Entry) (a b : Desc) : Nat × Nat × Nat :=
  (if e.trans 0 then a.dim 0 else a.dim 1, if e.trans 0 then a.dim 1 else a.dim 0, if e.trans 1 then b.dim 1 else b.dim 0)

/-- Operand descriptors of an entry as the table holds them; unused ones are the table's anyway and not looked at. -/
structure Opnds where
  a : Desc
  b : Desc
  c : Desc
  d : Desc
  deriving DecidableEq, Repr

/-- A and B of the product part: AG_MATMUL multiplies the gathered operand, whose shape C gives (R230). -/
def Entry.productAB (e : Entry) (o : Opnds) : Desc × Desc :=
  if e.op = Op.agMatmul then (if bit e.subop 2 then (o.c, o.b) else (o.a, o.c)) else (o.a, o.b)

/-- Batch indices of a product: DIM2 × DIM3 of A, or for A2A the blocks of A′. -/
def batchOf (a : Desc) : Nat := a.dim 2 * a.dim 3

/-- Thresher cycles of an entry (R72); the second product of ATTEND takes the format of V (R110). -/
def Entry.cycles (e : Entry) (o : Opnds) : Nat :=
  let ew (n : Nat) := ceilDiv n 1024 + 64
  if e.op = Op.matmul ∨ e.op = Op.matmulAcc ∨ e.op = Op.matmulRs ∨ e.op = Op.agMatmul ∨ e.op = Op.a2aMatmul then
    let (a, b) := e.productAB o
    let (m, k, n) := e.mkn a b
    mmCycles a.format m k n (batchOf a)
  else if e.op = Op.attend then
    let (lq, dh, _) := e.mkn o.a o.b
    let lk := if e.trans 1 then o.b.dim 0 else o.b.dim 1
    o.d.dim 3 * o.d.dim 2 * ((tiles o.a.format dh lk 1 + tiles o.c.format lk dh 1) * max lq 1536) + 2520
  else if e.op = Op.ewise ∨ e.op = Op.convert then ew o.d.count
  else if e.op = Op.rowred then ew o.a.count
  else if e.op = Op.norm then 2 * ceilDiv o.d.count 1024 + 64
  else if e.op = Op.update ∨ e.op = Op.rsUpdate then 2 * ceilDiv o.b.count 1024 + 64
  else 0

/-- Multiply-accumulates of an entry (R81). -/
def Entry.macs (e : Entry) (o : Opnds) : Nat :=
  if e.op = Op.attend then
    let (lq, dh, _) := e.mkn o.a o.b
    let lk := if e.trans 1 then o.b.dim 0 else o.b.dim 1
    2 * lq * lk * dh * o.d.dim 2 * o.d.dim 3
  else if e.op = Op.matmul ∨ e.op = Op.matmulAcc ∨ e.op = Op.matmulRs ∨ e.op = Op.agMatmul ∨ e.op = Op.a2aMatmul then
    let (a, b) := e.productAB o
    let (m, k, n) := e.mkn a b
    m * k * n * batchOf a
  else 0

/-- Riddle elements of an entry: the n of R72 for the riddle's own operations (R81). -/
def Entry.riddleElems (e : Entry) (o : Opnds) : Nat :=
  if e.op = Op.ewise ∨ e.op = Op.convert ∨ e.op = Op.norm then o.d.count
  else if e.op = Op.rowred then o.a.count
  else if e.op = Op.update ∨ e.op = Op.rsUpdate then o.b.count
  else 0

/-- Elements of the tensor that a combine cuts into sheaves (R236): the contribution, the gathered operand, a block, or the moved tensor. -/
def Entry.sheafElems (e : Entry) (o : Opnds) : Nat :=
  if e.op = Op.matmulRs then
    let (m, _, n) := e.mkn o.a o.b
    m * n * (if e.units then o.a.dim 3 else batchOf o.a)
  else if e.op = Op.agMatmul then o.c.count
  else if e.op = Op.a2aMatmul then o.a.dim 0 * o.a.dim 1 * o.a.dim 3
  else if e.op = Op.rsUpdate then o.a.count
  else if e.op = Op.ar then o.a.count / (if e.units then o.a.dim 2 else 1)
  else if e.op = Op.stageRecv then o.d.count
  else o.a.count

end Sys2Proof.Machine
end

