-- ==== Sys2Proof/Machine/Tree.lean ====
section
/-!
DEFINITION. Machine/Tree.lean: a combine's parts, the positions a module carries, reduction trees and ownership, and the triggered operations of a
sheaf's chain (R230–R237, R241, R242, R246, R247, R256).
-/
namespace Sys2Proof.Machine

/-! ### A combine's parts -/

def Combine.e (b : Combine) : Entry := Entry.parse b.words
def Combine.grp (b : Combine) : Group := Group.parse (bytesOf b.group)
def Combine.ringD (b : Combine) : Desc := Desc.parse (bytesOf b.ring)
def Combine.chaffD (b : Combine) : Desc := Desc.parse (bytesOf b.chaff)
def Combine.desc (b : Combine) (k : Nat) : Desc := Desc.parse (bytesOf (b.descs.getD k []))
def Combine.opnds (b : Combine) : Opnds := ⟨b.desc 0, b.desc 1, b.desc 2, b.desc 3⟩
def Combine.space (b : Combine) : Nat := ctxSpace b.ctx
/-- Elements of a sheaf (R236). -/
def Combine.se (b : Combine) : Nat := 1024 * b.ringD.dim 1
/-- Sheaves G; of one block for A2A. -/
def Combine.sheaves (b : Combine) : Nat := b.e.sheafElems b.opnds / max 1 b.se
def Combine.ints (b : Combine) : Bool := b.e.integers b.grp
def Combine.winnowed (b : Combine) : Bool := b.e.mode == 2
def Combine.isAr (b : Combine) : Bool := b.e.op == Op.ar
def Combine.isAg (b : Combine) : Bool := b.e.op == Op.agMatmul
def Combine.isA2a (b : Combine) : Bool := b.e.op == Op.a2aMatmul
/-- Sheaf numbers of a combine: of every block for A2A. -/
def Combine.total (b : Combine) : Nat := if b.isA2a then b.sheaves * b.grp.n1 * b.grp.n2 else b.sheaves
/-- The root of a BCAST. -/
def Combine.bcastRoot (b : Combine) : Nat := b.grp.rootRick * 16 + b.grp.rootSeat

/-! ### Positions (R256, R423) -/

/-- Positions this module carries: its own, and the lost module's on the carrier (R256). -/
def Chip.positions (c : Chip) : List Nat :=
  if c.on F.CMB_SUBST_ACTIVE ∧ c.rd F.CMB_SUBST_CARRIER = c.modId then [c.modId, c.rd F.CMB_SUBST_LOST] else [c.modId]

/-- The positions a combine works for: one re-issued for the lost position alone has only that (R423). -/
def Chip.positionsOf (c : Chip) (b : Combine) : List Nat := if b.lone then c.positions.filter (· ≠ c.modId) else c.positions

/-- A position is one that this module carries. -/
def Chip.carriedHere (c : Chip) (m : Nat) : Bool := decide (m < 256) && c.carrierOf m == c.modId

/-- MIRROR_OFS in bytes. -/
def Chip.mirrorOfs (c : Chip) : Nat := c.rd F.FLT_TWIN_OFS_OFS * 65536

/-- Mirror offset of operands read for the lost position (R423). -/
def Chip.posOfs (c : Chip) (pos : Nat) : Nat := if pos = c.modId then 0 else c.mirrorOfs

/-- Operand `k` as position `pos` reads and writes it. -/
def Chip.posDesc (c : Chip) (b : Combine) (pos k : Nat) : Desc :=
  let d := b.desc k
  { d with base := d.base + c.posOfs pos, scaleVa := d.scaleVa + c.posOfs pos }

/-! ### Trees (R234, R235, R237) -/

/-- Level is active; WINNOWED always has its level 3, where the narrowed partials are added (R251). -/
def Combine.active (b : Combine) (l : Nat) : Bool :=
  if l = 1 then 1 < b.grp.n1 else if l = 2 then 1 < b.grp.n2 else 1 < b.grp.n3 || b.winnowed

/-- The next active level above `l`. -/
def Combine.above (b : Combine) (l : Nat) : Option Nat := [1, 2, 3].find? (fun k => l < k && b.active k)

/-- The owner of sheaf `g` at a level, as position `pos` reaches it: a module of the row, of the column, or 256 + the stead number. -/
def Chip.ownerOf (c : Chip) (b : Combine) (pos l g : Nat) : Nat :=
  let gr := b.grp
  if l = 1 then rickOf pos * 16 + maskAt gr.seats (g % gr.n1)
  else if l = 2 then maskAt gr.ricks (g / gr.n1 % gr.n2) * 16 + seatOf pos
  else let s := maskAt gr.steads (g / (gr.n1 * gr.n2) % gr.n3); if s = c.steadId ∨ gr.n3 ≤ 1 then pos else 256 + s

/-- Position `pos` owns the sheaf at every active level up to `l`. -/
def Chip.owns (c : Chip) (b : Combine) (pos l g : Nat) : Bool := [1, 2, 3].all (fun k => decide (l < k) || !b.active k || c.ownerOf b pos k g == pos)

/-- The root of a sheaf (R237). -/
def Chip.isRoot (c : Chip) (b : Combine) (pos g : Nat) : Bool := c.owns b pos 3 g

/-- The active levels at which a position owns a sheaf. -/
def Chip.ownedLevels (c : Chip) (b : Combine) (pos g : Nat) : List Nat := [1, 2, 3].filter (fun l => b.active l && c.owns b pos l g)

/-- The children of an owner at a level, in the order it adds them (R235, R118). -/
def Chip.children (c : Chip) (b : Combine) (pos l : Nat) : List Nat :=
  let gr := b.grp
  if l = 1 then ((gr.rowOrder.filter (fun s => bit gr.seats s)).filter (· ≠ seatOf pos)).map (fun s => rickOf pos * 16 + s)
  else if l = 2 then ((gr.colOrder.filter (fun r => bit gr.ricks r)).filter (· ≠ rickOf pos)).map (fun r => r * 16 + seatOf pos)
  else ((bitsOf gr.steads 16).filter (fun s => gr.n3 > 1 && s ≠ c.steadId)).map (256 + ·)

/-- The member of the group that sheaf `g` of an A2A is for (R247). -/
def Combine.blockOf (b : Combine) (g : Nat) : Nat :=
  let p := g / max 1 b.sheaves
  maskAt b.grp.ricks (p / max 1 b.grp.n1) * 16 + maskAt b.grp.seats (p % max 1 b.grp.n1)

/-- The place of a position among the members: rick position × n1 + seat position. -/
def Combine.rank (b : Combine) (pos : Nat) : Nat := maskRank b.grp.ricks (rickOf pos) * b.grp.n1 + maskRank b.grp.seats (seatOf pos)

/-- A position passes blocks of sheaf `g` on to its column (R247). -/
def Combine.relays (b : Combine) (pos g : Nat) : Bool :=
  b.isA2a && seatOf (b.blockOf g) == seatOf pos && rickOf (b.blockOf g) != rickOf pos

/-- The module that sends this position its result on the down path, with the level, if one does (R246). -/
def Chip.downSource (c : Chip) (b : Combine) (pos g : Nat) : Option (Nat × Nat) :=
  if b.isAr ∨ b.isAg then
    if c.isRoot b pos g then none
    else if c.owns b pos 2 g then some (3, c.ownerOf b pos 3 g)
    else if c.owns b pos 1 g then some (2, c.ownerOf b pos 2 g)
    else some (1, c.ownerOf b pos 1 g)
  else if b.e.op = Op.bcast then
    if pos = b.bcastRoot then none
    else if seatOf pos = b.grp.rootSeat then some (2, b.bcastRoot)
    else some (1, rickOf pos * 16 + b.grp.rootSeat)
  else none

/-- Members of a level of the group. -/
def Group.size (g : Group) (l : Nat) : Nat := if l = 1 then g.n1 else if l = 2 then g.n2 else g.n3

/-- The levels a result that came from level `from_` is sent down (R246). -/
def Combine.levelsBelow (b : Combine) (from_ : Nat) : List Nat := [3, 2, 1].filter (fun l => decide (l < from_) && decide (1 < b.grp.size l))

/-! ### Chains (R241, R242) -/

def Chip.comb (c : Chip) (ch : Nat) : Option Combine := Table.find? ch c.cmb
def Chip.setComb (c : Chip) (ch : Nat) (b : Combine) : Chip := { c with cmb := Table.insert ch b (Table.erase ch c.cmb) }
def Combine.chain (b : Combine) (pos g : Nat) : Option Chain := b.chains.find? (fun x => x.pos == pos && x.g == g)
def Combine.onChain (b : Combine) (pos g : Nat) (f : Chain → Chain) : Combine :=
  { b with chains := b.chains.map (fun x => if x.pos = pos ∧ x.g = g then f x else x) }

/-- A position makes the sheaf itself: by the riddle, or by the mover. -/
def Chip.makes (c : Chip) (b : Combine) (pos g : Nat) : Bool :=
  b.e.reduces || b.e.op == Op.stageSend || b.isA2a || (b.isAg && c.isRoot b pos g) || (b.e.op == Op.bcast && pos == b.bcastRoot)

/-- A result, gathered, broadcast or staged sheaf comes to the position, and DOWN fires on it. -/
def Combine.hasDown (b : Combine) : Bool := b.isAr || b.isAg || b.e.op == Op.bcast || b.e.op == Op.stageRecv

/-- A position sends frames of the sheaf, so SENT fires on it. -/
def Chip.sendsAny (c : Chip) (b : Combine) (pos g : Nat) : Bool :=
  let down := b.levelsBelow (match c.downSource b pos g with | some t => t.1 | none => 4) != []
  if b.e.reduces then !c.isRoot b pos g || (b.isAr && down)
  else if b.isA2a then b.blockOf g != pos
  else if b.isAg || b.e.op == Op.bcast then down
  else b.e.op == Op.stageSend

/-- Triggered operations of a chain that have not fired (R241): those of its role at its position. -/
def Chip.pendingOps (c : Chip) (b : Combine) (x : Chain) : Nat :=
  b2n (c.makes b x.pos x.g && !x.produced) + b2n (b.ints && !x.anchored) +
  (if b.e.reduces then
    ((c.ownedLevels b x.pos x.g).map (fun l => if x.reducedLv.contains l then 0 else if x.floor = some l then 1 else 2)).sum +
      b2n (c.isRoot b x.pos x.g && !x.rooted)
   else 0) +
  b2n (b.hasDown && !x.downDone) + (if b.relays x.pos x.g then b.grp.n1 - 1 - x.relayed.length else 0) +
  b2n (c.sendsAny b x.pos x.g && !x.sent)

/-- Operations of a combine in flight. -/
def Chip.combineOps (c : Chip) (b : Combine) : Nat := (b.chains.map (c.pendingOps b)).sum
/-- Operations in flight on both channels. -/
def Chip.opsInFlight (c : Chip) : Nat := (c.cmb.map (fun e => c.combineOps e.2)).sum

/-- Every operation of a combine, over all its sheaves at the positions this module carries (R242). -/
def Chip.allOps (c : Chip) (b : Combine) : Nat :=
  if !c.ownStead b.grp then 0
  else ((c.positions.filter b.grp.names).map (fun p => ((List.range b.total).map (fun g => c.pendingOps b { pos := p, g := g })).sum)).sum

/-- Floors busy (R249). -/
def Chip.floorsBusy (c : Chip) : Nat := (c.cmb.map (fun e => (e.2.chains.filter (·.floor.isSome)).length)).sum

end Sys2Proof.Machine
end

