-- ==== Sys2Proof/Machine/Admit.lean ====
section
/-!
DEFINITION. Machine/Admit.lean: admission and the running test: encodings, operands, groups, occupancies, bookings, modelled power
(R60, R70–R74, R79–R82, R86, R107, R108, R112, R115, R119, R120, R186, R230–R238, R248, R255, R344, R356, R364).
-/
namespace Sys2Proof.Machine

/-! ### Reasons (R82) -/

def Why.opcode : Nat := 0x01
def Why.structure_ : Nat := 0x02
def Why.desc : Nat := 0x03
def Why.format : Nat := 0x04
def Why.shape : Nat := 0x05
def Why.align : Nat := 0x06
def Why.mapping : Nat := 0x07
def Why.loft : Nat := 0x08
def Why.quota : Nat := 0x09
def Why.mode : Nat := 0x0A
def Why.position : Nat := 0x0B
def Why.survey : Nat := 0x0C
def Why.absent : Nat := 0x0D
def Why.stamp : Nat := 0x0E
def Why.slotShort : Nat := 0x0F
def Why.cribBw : Nat := 0x10
def Why.granaryBw : Nat := 0x11
def Why.linkBw : Nat := 0x12
def Why.wire : Nat := 0x13
def Why.xts : Nat := 0x14
def Why.power : Nat := 0x15
def Why.group : Nat := 0x16
def Why.fallow : Nat := 0x17
def Why.service : Nat := 0x18
def Why.stopped : Nat := 0x20
def Why.safe : Nat := 0x21
def Why.contain : Nat := 0x22

/-- The first reason of a list of checks, each a condition that refuses and its reason. -/
def firstWhy : List (Bool × Nat) → Option Nat
  | [] => none
  | (true, r) :: _ => some r
  | (false, _) :: t => firstWhy t

/-! ### Service level (R27) -/

/-- Mode as a number: the order of R62 and R81. -/
def Mode.code : Mode → Nat
  | .full => 0 | .balanced => 1 | .linkFirst => 2 | .quiet => 3
def Mode.ofCode (n : Nat) : Mode := if n = 0 then .full else if n = 1 then .balanced else if n = 2 then .linkFirst else .quiet

/-- The mode in force as HEAD.MODES and R81 number it. -/
def Chip.modeNo (c : Chip) : Nat := c.mode.code

/-- The units that the stead level needs (R27): all crib stacks, every granary channel of the variant, a port of the RME, the clock locked or in
holdover within its limit. The survey that the level also needs is judged by the survey check (log entry 16). -/
def Chip.steadLevel (c : Chip) : Bool :=
  (List.range 12).all c.stackUp && (List.range c.channels).all c.channelUp &&
  (c.linksUp != [] || (List.range 4).any c.portUp) && (c.lock == Lock.locked || c.isTk || c.holdoverOk)

/-! ### Operand checks (R68–R71) -/

/-- Byte span of the indices of DIM0 … DIMk. -/
def Desc.span (d : Desc) : Nat → Nat
  | 0 => d.rowBytes
  | k + 1 => (d.dim (k + 1) - 1) * d.strides.getD k 0 + d.span k

/-- The format and scale mode are permitted (R69). -/
def Desc.formatOk (d : Desc) : Bool :=
  if d.format ≤ 2 then d.scaleMode == 0
  else if d.format ≤ 4 then d.scaleMode ≤ 1
  else if d.format ≤ 6 then d.scaleMode == 1
  else d.format == 7 && (d.scaleMode == 1 || d.scaleMode == 2)

/-- The strides in use. -/
def Desc.usedStrides (d : Desc) : List Nat := (List.range d.rank).map (fun k => d.strides.getD k 0)

/-- Shape of one descriptor (R68, R70). -/
def Desc.shapeOk (d : Desc) : Bool :=
  (List.range (d.rank + 1)).all (fun k => 1 ≤ d.dim k) && (d.scaleMode != 1 || d.dim 0 % 32 == 0) &&
  (List.range d.rank).all (fun k => d.span k ≤ d.strides.getD k 0)

/-- Alignment of one descriptor (R70). -/
def Desc.alignOk (d : Desc) : Bool :=
  d.base % 64 == 0 && (d.scaleMode == 0 || d.scaleVa % 64 == 0) && d.usedStrides.all (· % 64 == 0)

/-- What a range of one tier must translate to: none where it is fine, else MAPPING or LOFT (R60, R71, R82). `slices` is the almanac's. -/
def Chip.rangeWhy (c : Chip) (space slices : Nat) (stall : Bool) (accs : List Acs) (r : Nat × Nat × Nat) : Option Nat :=
  (runs r.1 r.2.1).foldl (fun w x => match w with
    | some v => some v
    | none => accs.foldl (fun w a => match w with
      | some v => some v
      | none => match c.lookDevice space x.1 a with
        | .ok t ad _ =>
          if t.code ≠ r.2.2 then some Why.mapping
          else if t = .loft ∧ slices * sliceBytes < ad + x.2 then some Why.loft
          else if t = .host ∧ c.p2pMeets ad x.2 (· ≠ 2) then some Why.mapping
          else none
        | .fault cause _ => if stall ∧ cause ≠ Cause.malformed then none else some Why.mapping
        | _ => some Why.mapping) none) none

/-- Operands that the thresher takes from the loft or its riddle writes back there (R15, R16, R74): all of a compute entry, A of UPDATE, and of a combine
those of its product that no combine traffic carries. -/
def Entry.inLoft (e : Entry) (k : Nat) : Bool :=
  if [Op.matmul, Op.matmulAcc, Op.attend, Op.ewise, Op.rowred, Op.norm, Op.convert].contains e.op then true
  else if e.op = Op.matmulRs then decide (k ≤ 1)
  else if e.op = Op.agMatmul then k == (if bit e.subop 2 then 1 else 0)
  else if e.op = Op.a2aMatmul then k == 1
  else e.op == Op.update && k == 0

/-- A tensor, scales included, lies where the thresher can take it from: the loft, or for a local almanac host memory, which the load/store units
stream (R15, R355). -/
def Desc.reachable (d : Desc) (local_ : Bool) : Bool :=
  let ok (t : Nat) : Bool := t == 0 || (local_ && t == 3)
  ok d.tier && (d.scaleMode == 0 || ok d.scaleTier)

/-- Accesses an operand needs (R72, R74): A to C are read and D written, UPDATE writes B, C and D back. -/
def Entry.accs (e : Entry) (k : Nat) : List Acs :=
  if (e.op = Op.update ∨ e.op = Op.rsUpdate) ∧ k ≠ 0 then [.read, .write]
  else if k = 3 then [.write] else [.read]

/-- Operands whose bytes the entry touches: not C of AG_MATMUL, nor A of BCAST away from the root (R230). -/
def Chip.touches (c : Chip) (e : Entry) (g : Group) (k : Nat) : Bool :=
  e.use k && !(e.op == Op.agMatmul && k == 2) &&
  !(e.op == Op.bcast && k == 0 && !(seatOf c.modId == g.rootSeat && rickOf c.modId == g.rootRick))

/-- check_operand of R79 for one used operand. -/
def Chip.operandWhy (c : Chip) (n : Nat) (h : Head) (e : Entry) (g : Group) (k : Nat) : Option Nat :=
  let i := e.desc k
  if c.rd F.ALM_DESC_COUNT_COUNT 0 n ≤ i then some Why.desc
  else if !c.tableOk (ctxSpace n) (c.descVa n i) 64 then some Why.mapping
  else
    let d := c.descAt n i
    match firstWhy [(d.rsv, Why.desc), (!d.formatOk, Why.format), (!d.shapeOk, Why.shape), (!d.alignOk, Why.align)] with
    | some w => some w
    | none =>
      if !c.touches e g k then none
      else if isStead n && e.op != Op.move && (d.tier == 3 || (d.scaleMode != 0 && d.scaleTier == 3)) then some Why.mapping
      -- LOFT, the reason R238 gives a ring outside the loft (DESIGN CHOICE, entry 28)
      else if e.inLoft k && !d.reachable (!isStead n) then some Why.loft
      else d.ranges.foldl (fun w r => match w with
        | some v => some v
        | none => c.rangeWhy (ctxSpace n) h.loftSlices d.stall (e.accs k) r) none

/-! ### Relations between operands (R73, R74, R96, R110, R456, R231, R236–R238, R248) -/

/-- Same extents. -/
def Desc.sameShape (a b : Desc) : Bool := (List.range 4).all (fun k => a.dim k == b.dim k)

/-- INT8 with a scale for each index of DIM1 (R68). -/
def Desc.channel (d : Desc) : Bool := d.format == 7 && d.scaleMode == 2

/-- A tensor of an update has channel scales: none of them is an operand that R96 permits. -/
def Opnds.updChannel (o : Opnds) (useD : Bool) : Bool := o.a.channel || o.b.channel || o.c.channel || (useD && o.d.channel)

/-- INT8 channel scales are where R96 permits them. -/
def int8Ok (e : Entry) (a b : Desc) : Bool :=
  a.format != 7 || (a.scaleMode == b.scaleMode && (a.scaleMode != 2 || (!e.trans 0 && e.trans 1)))

/-- A product's operands agree (R73); `d` none where the product's result is cut into sheaves. -/
def productWhy (e : Entry) (a b : Desc) (d : Option Desc) : Option Nat :=
  let (m, k, n) := e.mkn a b
  let kb := if e.trans 1 then b.dim 0 else b.dim 1
  firstWhy [(a.format != b.format, Why.format), (!int8Ok e a b, Why.format), (k != kb, Why.shape),
    ((List.range 2).any (fun j => b.dim (j + 2) != 1 && b.dim (j + 2) != a.dim (j + 2)), Why.shape),
    (match d with
      | some d => d.dim 0 != n || d.dim 1 != m || d.dim 2 != a.dim 2 || d.dim 3 != a.dim 3
      | none => false, Why.shape)]

/-- NORM's gain or bias has one of the two shapes of R456. -/
def normShape (a b : Desc) : Bool := a.sameShape b || (b.dim 0 == a.dim 0 && b.dim 1 == 1 && b.dim 2 == 1 && b.dim 3 == 1)

/-- Relations of a compute or movement entry. -/
def computeWhy (e : Entry) (o : Opnds) : Option Nat :=
  if e.op = Op.matmul then productWhy e o.a o.b (some o.d)
  else if e.op = Op.matmulAcc then
    firstWhy [(o.c.format != 0 || o.d.format != 0, Why.format)] <|> productWhy e o.a o.b (some o.d) <|> firstWhy [(!o.c.sameShape o.d, Why.shape)]
  else if e.op = Op.attend then
    let (lq, dh, _) := e.mkn o.a o.b
    let lk := if e.trans 1 then o.b.dim 0 else o.b.dim 1
    let dk := if e.trans 1 then o.b.dim 1 else o.b.dim 0
    firstWhy [(o.a.format != o.b.format, Why.format), (o.c.format == 7 && o.c.scaleMode == 2, Why.format),
      (o.a.format == 7 && (o.a.scaleMode != o.b.scaleMode || (o.a.scaleMode == 2 && (e.trans 0 || e.trans 1))), Why.format),
      (dh != dk || o.c.dim 0 != dh || o.d.dim 0 != dh || o.c.dim 1 != lk || o.d.dim 1 != lq, Why.shape),
      (o.a.dim 3 != o.b.dim 3 || o.a.dim 3 != o.c.dim 3 || o.a.dim 3 != o.d.dim 3, Why.shape),
      (o.b.dim 2 != o.c.dim 2 || o.a.dim 2 != o.d.dim 2 || o.d.dim 2 % Nat.max 1 (o.b.dim 2) != 0, Why.shape)]
  else if e.op = Op.ewise then firstWhy [(e.use 1 && o.b.channel, Why.format), ((e.use 1 && !o.a.sameShape o.b) || !o.a.sameShape o.d, Why.shape)]
  else if e.op = Op.rowred then
    firstWhy [(o.d.dim 0 != 1 || (List.range 3).any (fun k => o.d.dim (k + 1) != o.a.dim (k + 1)), Why.shape)]
  else if e.op = Op.norm then
    firstWhy [(o.b.channel || (e.use 2 && o.c.channel), Why.format), (!o.a.sameShape o.d || !normShape o.a o.b || (e.use 2 && !normShape o.a o.c), Why.shape)]
  else if e.op = Op.convert then firstWhy [(!o.a.sameShape o.d, Why.shape)]
  else if e.op = Op.update then
    firstWhy [(o.updChannel (e.use 3), Why.format), (o.a.count != o.b.count || o.c.count != o.b.count || (e.use 3 && o.d.count != o.b.count), Why.shape)]
  else if e.op = Op.move then
    firstWhy [(o.a.format != o.d.format || o.a.scaleMode != o.d.scaleMode, Why.format), (!o.a.sameShape o.d, Why.shape)]
  else none

/-- A page of a range translates to another tier than the range's (R71). -/
def Chip.otherTier (c : Chip) (space : Nat) (r : Nat × Nat × Nat) : Bool :=
  (runs r.1 r.2.1).any (fun x => [Acs.read, Acs.write].any (fun a => match c.lookDevice space x.1 a with | .ok t _ _ => t.code != r.2.2 | _ => false))

/-- A combine as its entry, its group and its descriptors make it. -/
def Chip.combineOf (c : Chip) (n idx step : Nat) (words upd : List Nat) (descs : List (List Nat)) (group : Nat) : Combine :=
  let g := c.groupAt n group
  { ctx := n, idx := idx, words := words, upd := upd, descs := descs, group := wordsOf 16 (c.groupBytes n group)
    ring := wordsOf 16 (c.descBytes n g.ring), chaff := wordsOf 16 (c.descBytes n g.chaff), step := step }

/-- The triggered operations that a combine of a context's table needs on this module (R242). -/
def Chip.opsOf (c : Chip) (n : Nat) (e : Entry) : Nat :=
  c.allOps (c.combineOf n 0 0 e.words [] ((List.range 4).map (fun k => if e.use k then wordsOf 16 (c.descBytes n (e.desc k)) else [])) e.group)

/-- The ring descriptor meets R238. -/
def Chip.ringWhy (c : Chip) (n : Nat) (h : Head) (e : Entry) (g : Group) : Option Nat :=
  if c.rd F.ALM_DESC_COUNT_COUNT 0 n ≤ g.ring then some Why.desc
  else if !c.tableOk (ctxSpace n) (c.descVa n g.ring) 64 then some Why.mapping
  else
    let r := c.descAt n g.ring
    let w := if e.integers g then 8192 * r.dim 1 else packedBytes r.format (1024 * r.dim 1)
    firstWhy [(r.rsv, Why.desc), (!r.formatOk, Why.format), (!r.shapeOk, Why.shape), (!r.alignOk, Why.align), (r.tier != 0, Why.loft),
      (c.otherTier (ctxSpace n) (r.base, (r.dim 2 - 1) * r.strides.getD 1 0 + w, 0), Why.loft),
      (r.strides.getD 1 0 < w || w < 65536 || 4194304 < w, Why.shape),
      (r.dim 2 < 2 * (2 + (g.n1 - 1) + (g.n2 - 1) + (g.n3 - 1)), Why.loft), (r.format == 7, Why.format),
      (r.dim 0 != 1024 || r.rank < 2, Why.shape)] <|>
    c.rangeWhy (ctxSpace n) h.loftSlices r.stall [.read, .write] (r.base, (r.dim 2 - 1) * r.strides.getD 1 0 + w, 0) <|>
    (if r.scaleMode ≠ 1 then none
     else if r.scaleTier ≠ 0 ∨ c.otherTier (ctxSpace n) (r.scaleVa, r.scaleBytes, 0) then some Why.loft
     else c.rangeWhy (ctxSpace n) h.loftSlices r.stall [.read, .write] (r.scaleVa, r.scaleBytes, 0))

/-- The chaff descriptor of a WINNOWED combine is readable, well formed and mapped for reading and writing (R60, R68–R71, R120). -/
def Chip.chaffWhy (c : Chip) (n : Nat) (h : Head) (e : Entry) (g : Group) : Option Nat :=
  if !(e.reduces && e.mode == 2) then none
  else if c.rd F.ALM_DESC_COUNT_COUNT 0 n ≤ g.chaff then some Why.desc
  else if !c.tableOk (ctxSpace n) (c.descVa n g.chaff) 64 then some Why.mapping
  else
    let d := c.descAt n g.chaff
    firstWhy [(d.rsv, Why.desc), (!d.formatOk, Why.format), (!d.shapeOk, Why.shape), (!d.alignOk, Why.align)] <|>
    d.ranges.foldl (fun w r => match w with
      | some v => some v
      | none => c.rangeWhy (ctxSpace n) h.loftSlices d.stall [.read, .write] r) none

/-- The storage side of a MOVE through XTS (R344). -/
def Entry.storage (e : Entry) (o : Opnds) : Desc := if bit e.subop 1 then o.a else o.d

/-- A tensor is dense in linear order. -/
def Desc.dense (d : Desc) : Bool := (List.range d.rows).all (fun r => d.rowVa r == d.base + r * d.rowBytes)

/-- Checks of a MOVE through XTS (R28, R344). -/
def Chip.xtsWhy (c : Chip) (n : Nat) (e : Entry) (o : Opnds) : Option Nat :=
  if e.op = Op.move ∧ bit e.subop 0 then
    let d := e.storage o
    let k := c.keySlot 1 e.p16
    firstWhy [(c.variant == .r, Why.absent), (d.tier != 3, Why.format), (!d.dense, Why.shape),
      (decide (63 < e.p16) || k.st != .valid || k.owner != (if isStead n then mgrOwner else n - 2), Why.mapping),
      (d.rows * d.rowBytes % k.sectorBytes != 0, Why.shape)]
  else none

/-- Contribution units of a combine (R112). -/
def Chip.unitsOf (e : Entry) (o : Opnds) (g : Group) : Nat :=
  g.p * (if e.units then o.a.dim 2 else 1)

/-- Relations of a combine's operands with its ring and group (R115, R120, R231, R236, R237, R248). -/
def Chip.combineWhy (c : Chip) (n : Nat) (e : Entry) (o : Opnds) (g : Group) : Option Nat :=
  let ring := c.descAt n g.ring
  let se := 1024 * ring.dim 1
  let total := e.sheafElems o
  let gs := total / se
  let shard := if e.op = Op.agMatmul then (if bit e.subop 2 then o.a else o.b) else if e.op = Op.rsUpdate then o.b else o.d
  let ab := e.productAB o
  let prod : Option Nat :=
    if e.op = Op.matmulRs then productWhy e ab.1 ab.2 none
    else if e.op = Op.agMatmul ∨ e.op = Op.a2aMatmul then productWhy e ab.1 ab.2 (some o.d)
    else none
  let chaff := c.descAt n g.chaff
  let staged : Option Desc := if e.op = Op.stageSend then some o.a else if e.op = Op.stageRecv then some o.d else none
  firstWhy [
    (if e.reduces then e.mode == 3 else e.mode != 0, Why.format),
    ((e.op == Op.matmulRs || e.op == Op.ar) && (bit e.subop 3 || (bit e.subop 2 && e.mode != 1)), Why.format),
    (e.op == Op.agMatmul && bit e.subop 3, Why.format),
    (!e.reduces && e.op != Op.agMatmul && decide (3 < e.subop), Why.format),
    (e.mode == 2 && !isStead n, Why.format),
    (e.mode == 2 && c.variant == .r, Why.absent)] <|> prod <|> firstWhy [
    (e.op == Op.rsUpdate && o.updChannel (e.use 3), Why.format),
    (match staged with | some s => s.format != ring.format | none => false, Why.format),
    (e.reduces && e.op != Op.rsUpdate && o.d.format == 7, Why.format),
    (e.mode == 2 && (!(3 ≤ g.wire && g.wire ≤ 6) || elemBits ring.format ≤ elemBits g.wire), Why.format),
    (e.integers g && decide (65536 < Chip.unitsOf e o g), Why.group),
    (total % se != 0 || gs == 0, Why.shape),
    (e.op == Op.matmulRs && (e.mkn ab.1 ab.2).2.2 % 1024 != 0, Why.shape),
    ((e.reduces || e.op == Op.agMatmul) && gs % (max 1 g.p) != 0, Why.shape),
    ((e.op == Op.matmulRs || e.op == Op.agMatmul || e.op == Op.rsUpdate) && shard.count != gs / (max 1 g.p) * se, Why.shape),
    (e.op == Op.rsUpdate && (o.c.count != o.b.count || (e.use 3 && o.d.count != o.b.count)), Why.shape),
    (e.op == Op.ar && o.d.count != total, Why.shape),
    (e.op == Op.bcast && o.a.count != o.d.count, Why.shape),
    (e.op == Op.a2aMatmul && o.a.dim 2 != g.n1 * g.n2, Why.shape),
    (isStead n && decide (4096 < c.opsOf n e), Why.shape),
    (e.mode == 2 && (chaff.format != 0 || chaff.scaleMode != 0 || chaff.tier != 2), Why.format),
    (e.mode == 2 && (chaff.dim 0 != 1024 || chaff.count != gs / (max 1 (g.n1 * g.n2)) * se), Why.format)]

/-! ### Encodings (R72, R79, R108, R230, R231, R233) -/

/-- A permutation of 0–15. -/
def isPerm (l : List Nat) : Bool := (List.range 16).all (l.contains ·)

/-- The stead as recorded at the last publication holds every module the group names here (R233, R453). -/
def Chip.groupInside (c : Chip) (g : Group) : Bool :=
  match c.clk.shape with
  | some s => (bitsOf g.seats 16).all (s.seats.contains ·) && (bitsOf g.ricks 16).all (· < s.ricks)
  | none => false

/-- This module and `m` are joined by a row or column link of the plan. -/
def Chip.joined (c : Chip) (m : Nat) : Bool := m != c.modId && (rickOf m == rickOf c.modId || seatOf m == seatOf c.modId)

/-- The GROUP stage of a combine (R233, R257): ABSENT of a group of more than one stead on variant R comes before the GROUP cases, and ABSENT of a
group of more than one rick there (R29) after them. -/
def Chip.groupWhy (c : Chip) (n : Nat) (e : Entry) (g : Group) : Option Nat :=
  let stage := e.op == Op.stageSend || e.op == Op.stageRecv
  let others := (bitsOf g.steads 16).filter (· ≠ c.steadId)
  firstWhy [
    (c.variant == .r && decide (1 < g.n3), Why.absent),
    (g.seats == 0 || g.rsv, Why.group),
    (g.ricks == 0 || g.steads == 0, Why.group),
    (!isPerm g.rowOrder || !isPerm g.colOrder, Why.group),
    (bit g.steads c.steadId && !c.groupInside g, Why.group),
    (isStead n && others != [] && (!c.on F.CMB_STEAD_VALID || others.any (fun s => !c.on F.CMB_XS_QP_VALID 0 s)), Why.group),
    (decide (1 < g.n3) && (!e.reduces || !isStead n), Why.group),
    (stage && !c.joined g.peer, Why.group),
    (e.op == Op.bcast && !(bit g.seats g.rootSeat && bit g.ricks g.rootRick), Why.group),
    (c.variant == .r && (decide (1 < g.n2) || (stage && rickOf g.peer != rickOf c.modId)), Why.absent)]

/-- check_encoding of R79: OPCODE, STRUCTURE, GROUP. `loops` holds the last body index of each open loop. -/
def Chip.encodingWhy (c : Chip) (n : Nat) (h : Head) (i : Nat) (e : Entry) (loops : List Nat) : Option Nat :=
  let isRiddle := e.op == Op.matmul || e.op == Op.matmulAcc || e.op == Op.ewise ||
    (e.isCombine && e.op != Op.rsUpdate && e.op != Op.bcast && e.op != Op.stageSend && e.op != Op.stageRecv)
  let prev := if i = 0 then Op.nop else field ((c.entryWords n (i - 1)).getD 0 0) 0 8
  let next := field ((c.entryWords n (i + 1)).getD 0 0) 0 8
  let upd := e.op == Op.update || e.op == Op.rsUpdate
  let stamped := e.op != Op.end_ && e.op != Op.step && e.op != Op.updx
  match opOperands e.op with
  | none => some Why.opcode
  | some (need, opt) =>
    firstWhy [
      (e.op == Op.head, Why.structure_), (e.rsv || !e.subopOk, Why.opcode),
      (isRiddle && (decide (15 < e.p16) || (decide (12 ≤ e.p16) && !(e.op == Op.ewise && e.use 1))), Why.opcode),
      ((e.op == Op.end_) != (i + 1 == h.entryCount), Why.structure_),
      (e.op == Op.updx && prev != Op.update && prev != Op.rsUpdate, Why.structure_),
      (upd && next != Op.updx, Why.structure_),
      (if isStead n then stamped && !e.stamp else e.stamp, Why.structure_),
      (isStead n && e.op != Op.updx && (stamped || e.stamp) && e.slot == 0, Why.structure_),
      (e.op != Op.updx && (Nat.land e.useMask need != need || Nat.lor need opt != Nat.lor (Nat.lor need opt) e.useMask), Why.structure_),
      (upd && e.recipe == 2 && !e.use 3, Why.structure_), (e.op == Op.rsUpdate && e.recipe != 2 && e.use 3, Why.structure_),
      (e.op == Op.loop && (e.body == 0 || e.p32 == 0 || decide (h.entryCount ≤ i + e.body + 1) || decide (8 ≤ loops.length) ||
        loops.any (fun l => decide (l < i + e.body))), Why.structure_),
      (e.op == Op.bellWait && (loops != [] || e.p32 == 0), Why.structure_)] <|>
    (if !e.isCombine then none
     else firstWhy [
       (!c.tableOk (ctxSpace n) (c.groupVa n e.group) 64, Why.mapping)] <|>
      c.groupWhy n e (c.groupAt n e.group))

/-! ### Bytes an entry moves (R80, R211) -/

/-- A demand on one link: flits and payload bytes, out and in. -/
structure LinkLoad where
  link : Nat
  outFlits : Nat
  inFlits : Nat
  outBytes : Nat
  inBytes : Nat
  deriving DecidableEq, Repr

/-- `k` sheaves of `b` bytes out and `j` in on a link. -/
def LinkLoad.of (link b k j : Nat) : LinkLoad := ⟨link, k * flitsOf b, j * flitsOf b, k * b, j * b⟩

/-- The link from position `p` to another of its row or column; none where this module carries that one too (R256). -/
def Chip.linkTo (c : Chip) (p m : Nat) : Option Nat := if c.carriedHere m then none else some (c.peerLink p m)

/-- Load on the links from position `p` to every other member of a level. -/
def Chip.levelLoad (c : Chip) (p : Nat) (targets : List Nat) (b out inn : Nat) : List LinkLoad :=
  targets.filterMap (fun m => (c.linkTo p m).map (fun k => LinkLoad.of k b out inn))

/-- The other members in the row of position `p`, and in its column. -/
def Group.rowPeers (g : Group) (p : Nat) : List Nat := ((bitsOf g.seats 16).filter (· ≠ seatOf p)).map (fun s => rickOf p * 16 + s)
def Group.colPeers (g : Group) (p : Nat) : List Nat := ((bitsOf g.ricks 16).filter (· ≠ rickOf p)).map (fun r => r * 16 + seatOf p)

/-- What a combine puts on the links, and on the level-3 queue pairs as (stead, bytes out, bytes in). -/
structure ComboLoad where
  links : List LinkLoad := []
  cross : List (Nat × Nat × Nat) := []
  deriving DecidableEq, Repr

/-- The demands of a combine at one position (R244–R248, R250): sheaves of the reduction, anchor codes each way, the path down. -/
def Chip.posLoad (c : Chip) (e : Entry) (o : Opnds) (g : Group) (ring : Desc) (pos : Nat) : ComboLoad :=
  let se := 1024 * ring.dim 1
  let gs := e.sheafElems o / max 1 se
  let b := sheafBytes ring (e.integers g)
  let row := g.rowPeers pos
  let col := g.colPeers pos
  let g1 := gs / g.n1
  let g2 := g1 / g.n2
  let g3 := g2 / g.n3
  if e.reduces then
    let up := c.levelLoad pos row b g1 g1 ++ c.levelLoad pos col b g2 g2
    let anchors := if e.integers g then c.levelLoad pos row (se / 32) (2 * g1) (2 * g1) ++ c.levelLoad pos col (se / 32) (2 * g2) (2 * g2) else []
    let wb := if e.mode = 2 then packedBytes g.wire se + (if g.wire = 4 then 0 else se / 32) else b
    let db := packedBytes o.d.format se + (if o.d.scaleMode = 1 then se / 32 else 0)
    let down := if e.op = Op.ar then c.levelLoad pos row db g1 g1 ++ c.levelLoad pos col db g2 g2 else []
    let x := g3 * (wb + (if e.integers g && e.mode == 1 then 2 * (se / 32) else 0) + (if e.op = Op.ar then db else 0))
    ⟨up ++ anchors ++ down, ((bitsOf g.steads 16).filter (fun s => 1 < g.n3 && s ≠ c.steadId)).map (fun s => (s, x, x))⟩
  else if e.op = Op.agMatmul then ⟨c.levelLoad pos col b g2 g2 ++ c.levelLoad pos row b g1 g1, []⟩
  else if e.op = Op.a2aMatmul then ⟨c.levelLoad pos row b (gs * g.n2) (gs * g.n2) ++ c.levelLoad pos col b (gs * g.n1) (gs * g.n1), []⟩
  else if e.op = Op.bcast then
    let root := g.rootRick * 16 + g.rootSeat
    if pos = root then ⟨c.levelLoad pos col b gs 0 ++ c.levelLoad pos row b gs 0, []⟩
    else if seatOf pos = g.rootSeat then ⟨c.levelLoad pos [root] b 0 gs ++ c.levelLoad pos row b gs 0, []⟩
    else ⟨c.levelLoad pos [rickOf pos * 16 + g.rootSeat] b 0 gs, []⟩
  else if e.op = Op.stageSend then ⟨c.levelLoad pos [g.peer] b gs 0, []⟩
  else ⟨c.levelLoad pos [g.peer] b 0 gs, []⟩

/-- The demands of a combine on this module: of every position it carries that the group names (R256). -/
def Chip.comboLoad (c : Chip) (e : Entry) (o : Opnds) (g : Group) (ring : Desc) : ComboLoad :=
  let ls := (c.positions.filter (fun p => g.names p && c.ownStead g)).map (c.posLoad e o g ring)
  ⟨ls.flatMap (·.links), ls.flatMap (·.cross)⟩

/-- The load of an entry, which only a combine has. -/
def Chip.entryLoad (c : Chip) (n : Nat) (e : Entry) (o : Opnds) (g : Group) : ComboLoad :=
  if e.isCombine then c.comboLoad e o g (c.descAt n g.ring) else {}

/-- The pieces (tier, address, bytes) that ranges of a space translate to. -/
def Chip.places (c : Chip) (space : Nat) (rs : List (Nat × Nat × Nat)) : List (Tier × Nat × Nat) :=
  rs.flatMap (fun r => (runs r.1 r.2.1).filterMap (fun x => match c.lookDevice space x.1 .read with
    | .ok t a _ => some (t, a, x.2)
    | _ => match c.lookDevice space x.1 .write with | .ok t a _ => some (t, a, x.2) | _ => none))

/-- Times the bytes of an operand move on its tier: twice where it is read and written back. -/
def Entry.passes (e : Entry) (k : Nat) : Nat := (e.accs k).length

/-- STEP, UPDX and END without a stamp: they have no slot of their own. -/
def Entry.unslotted (e : Entry) : Bool := e.op == Op.updx || ((e.op == Op.step || e.op == Op.end_) && !e.stamp)

/-- How many of the entries from `i` on, or before `i` down to entry 1, have no slot. -/
def Chip.slotlessFrom (c : Chip) (n : Nat) : Nat → Nat → Nat
  | 0, _ => 0
  | fuel + 1, i => if (c.entry n i).unslotted then 1 + c.slotlessFrom n fuel (i + 1) else 0

/-- Bytes of the almanac stream booked with entry `i` as (address, bytes): its own, with those of the entries without a slot that follow it, and of those
before the first slot (DESIGN CHOICE, entry 211). -/
def Chip.streamOf (c : Chip) (n i : Nat) (count : Nat) : Nat × Nat :=
  let first := if c.slotlessFrom n (i - 1) 1 + 1 = i then 1 else i
  (c.entryVa n first, 32 * (i - first + 1 + c.slotlessFrom n (count - i) (i + 1)))

/-- Memory pieces an entry moves: operands outside the loft, chaff, and its table fetches, the ring's and the chaff's descriptors among them (R80). -/
def Chip.memPieces (c : Chip) (n : Nat) (h : Head) (i : Nat) (e : Entry) (o : Opnds) (g : Group) : List (Tier × Nat × Nat) :=
  let sp := ctxSpace n
  let ds := [o.a, o.b, o.c, o.d]
  let work := !e.isCombine || c.member g
  let ops := (List.range 4).flatMap (fun k => if work && c.touches e g k then
      let l := c.places sp (ds.getD k o.a).ranges
      (List.replicate (e.passes k) l).flatten else [])
  let chaff := if work && e.mode == 2 && e.isCombine then let l := c.places sp (c.descAt n g.chaff).ranges; l ++ l else []
  let used := (List.range 4).filter e.use
  let st := c.streamOf n i h.entryCount
  let tables := c.places sp ((st.1, st.2, 1) :: used.map (fun k => (c.descVa n (e.desc k), 64, 1)) ++
    (if e.isCombine then (c.groupVa n e.group, 64, 1) :: (c.descVa n g.ring, 64, 1) ::
      (if e.mode = 2 then [(c.descVa n g.chaff, 64, 1)] else []) else []))
  (ops ++ chaff ++ tables).filter (fun p => p.1 ≠ .loft)

/-! ### Bookings (R79, R80) -/

/-- Resources: crib stacks 0–11, granary 12, links out 32 + k and in 64 + k, wire out 96 and in 97, XTS 98. -/
def Res.granary : Nat := 12
def Res.linkOut (k : Nat) : Nat := 32 + k
def Res.linkIn (k : Nat) : Nat := 64 + k
def Res.wireOut : Nat := 96
def Res.wireIn : Nat := 97
def Res.xts : Nat := 98

/-- A booking: `bytes` spread evenly over `span` ticks of [t0, t1). -/
structure Booking where
  res : Nat
  t0 : Nat
  t1 : Nat
  bytes : Nat
  deriving DecidableEq, Repr

/-- Lanes counted on a link (R80, R218): two in QUIET, after a shed, and while a change is pending to or from one pair. -/
def Chip.twoLanes (c : Chip) (m : Mode) (k : Nat) : Bool :=
  m == .quiet || c.rd F.AGL_STATUS_PAIRS k != 3 || (c.link k).toldQuiet || c.on F.AGL_PEER_MODE_QUIET k

/-- Capacity of a resource in bytes per second, times 256. -/
def Chip.capacity (c : Chip) (m : Mode) (x : Nat) : Nat :=
  if x < 12 then 2000000000000 * 256
  else if x = Res.granary then ((List.range c.channels).filter c.channelUp).length * 34132000000 * 256
  else if x < 96 ∧ !c.inService (x % 32) then 0
  else if x < 96 then (if c.twoLanes m (x % 32) then 50000000000 else 100000000000) * 255
  else if x = Res.xts then 100000000000 * 256
  else c.wireBudget m * 256

/-- The reason a resource's excess gives. -/
def reasonOf (x : Nat) : Nat :=
  if x < 12 then Why.cribBw else if x = Res.granary then Why.granaryBw else if x < 96 then Why.linkBw
  else if x = Res.xts then Why.xts else Why.wire

/-- A sum of fractions of naturals. -/
def fracAdd (a b : Nat × Nat) : Nat × Nat := (a.1 * b.2 + b.1 * a.2, a.2 * b.2)

/-- The rate booked on a resource at a tick, as a fraction in bytes per tick. -/
def rateAt (l : List Booking) (x t : Nat) : Nat × Nat :=
  l.foldl (fun r b => if b.res = x ∧ b.t0 ≤ t ∧ t < b.t1 then fracAdd r (b.bytes, b.t1 - b.t0) else r) (0, 1)

/-- A resource is within its capacity at every tick where its rate can rise: bytes per tick × 900,000,000 / 64 ≤ bytes per second. -/
def Chip.withinCap (c : Chip) (m : Mode) (l : List Booking) (x : Nat) : Bool :=
  (l.filter (·.res == x)).all (fun b => let r := rateAt l x b.t0; r.1 * 900000000 * 256 ≤ c.capacity m x * r.2 * 64)

/-- What an entry's mirrored writes put on the twin links (R420): frames of at most 4,080 bytes after their prefix, shared evenly between the twin
links in service; on link 30 where none is. -/
def Chip.mirrorLoad (c : Chip) (n : Nat) (e : Entry) (o : Opnds) (g : Group) : List LinkLoad :=
  if !(isStead n && c.mirrorOn) then []
  else
    let ds := [o.a, o.b, o.c, o.d]
    let outs := (List.range 4).filterMap (fun k => if e.use k && c.touches e g k && (e.accs k).contains .write then ds[k]? else none)
    let chaff := if e.mode = 2 ∧ e.isCombine ∧ c.member g then [c.descAt n g.chaff] else []
    let bytes := (((outs ++ chaff).filter (·.mirrored)).map (fun d => (d.written.map (fun r => r.2.1 + 16 * ceilDiv r.2.1 4080)).sum)).sum
    let ls := [30, 31].filter c.inService
    if bytes = 0 then [] else if ls = [] then [.of 30 bytes 1 0] else ls.map (fun k => .of k (ceilDiv bytes ls.length) 1 0)

/-- The resources of an entry with their bytes, in the order R79 lists them: crib, granary, links, wire, XTS. -/
def Chip.demand (c : Chip) (n : Nat) (h : Head) (i : Nat) (e : Entry) (o : Opnds) (g : Group) : List (Nat × Nat) :=
  let mem := c.memPieces n h i e o g
  let crib := (List.range 12).map (fun s => (s, (mem.map (fun p => if p.1 = .crib ∧ p.2.1 / 2 ^ 36 = s then p.2.2 else 0)).sum))
  let grn := (mem.map (fun p => if p.1 = .grn then p.2.2 else 0)).sum
  let cl := c.entryLoad n e o g
  let ll := cl.links ++ c.mirrorLoad n e o g
  let xts := if e.op = Op.move ∧ bit e.subop 0 then o.a.rows * o.a.rowBytes else 0
  let links : List (Nat × Nat) := ll.flatMap (fun (l : LinkLoad) => [(Res.linkOut l.link, 64 * l.outFlits), (Res.linkIn l.link, 64 * l.inFlits)])
  let wire : List (Nat × Nat) := [(Res.wireOut, (ll.map LinkLoad.outBytes).sum + (cl.cross.map (·.2.1)).sum), (Res.wireIn, (ll.map LinkLoad.inBytes).sum + (cl.cross.map (·.2.2)).sum)]
  (crib ++ (Res.granary, grn) :: links ++ wire ++ [(Res.xts, xts)]).filter (fun d => d.2 ≠ 0)

/-! ### Modelled power (R81) -/

/-- Binary64 values are `Fp` values rounded to 53 bits; the sums stay far from the ends of the exponent range. -/
def Fp.to64 : Fp → Fp
  | .num s m e =>
    if m = 0 then .num s 0 0
    else
      let (n, d) := Fp.ratio m e
      let q := floorLog2 n d - 52
      .num s (roundUnit n d q .rne) q
  | x => x

/-- A fraction of naturals rounded to binary64. -/
def f64 (x : Nat × Nat) : Fp :=
  if x.1 = 0 ∨ x.2 = 0 then .num false 0 0 else let q := floorLog2 x.1 x.2 - 52; .num false (roundUnit x.1 x.2 q .rne) q

/-- A quotient of binary64 values, rounded to binary64; `d` is positive. -/
def Fp.div64 (x d : Fp) : Fp :=
  match x, d with
  | .num s m e, .num _ n f =>
    let a := Fp.ratio m e
    let b := Fp.ratio n f
    match f64 (a.1 * b.2, a.2 * b.1) with | .num _ k q => .num s k q | y => y
  | x, _ => x

/-- Coefficient `k` (R90): FP32, which binary64 holds exactly. -/
def Chip.coef (c : Chip) (k : Nat) : Fp := f32 (c.rd F.THR_PWR_COEF_VALUE 0 k)

/-- What an entry's work adds, by coefficient: MACs by format and riddle elements (R81). -/
def Entry.workAmounts (e : Entry) (o : Opnds) : List (Nat × Nat) :=
  let m := e.macs o
  (if e.op = Op.attend then [(4 + o.a.format, m / 2), (4 + o.c.format, m / 2)] else [(4 + (e.productAB o).1.format, m)]) ++ [(12, e.riddleElems o)]

/-- A level-3 queue pair runs under PROT, so that its bytes pass the GCM engine (R338). -/
def Chip.crossGcm (c : Chip) (s : Nat) : Bool :=
  match Table.find? (c.rd F.CMB_XS_QP_QPN 0 s) c.qps with | some q => q.prot | none => false

/-- What the bytes an entry books add, by coefficient (R81). -/
def Chip.byteAmounts (c : Chip) (n : Nat) (h : Head) (i : Nat) (e : Entry) (o : Opnds) (g : Group) : List (Nat × Nat) :=
  let mem := c.memPieces n h i e o g
  let on (t : Tier) := (mem.map (fun p => if p.1 = t then p.2.2 else 0)).sum
  let cl := c.entryLoad n e o g
  let ll := cl.links ++ c.mirrorLoad n e o g
  let both (l : List (Nat × Nat × Nat)) := (l.map (fun x => x.2.1 + x.2.2)).sum
  [(13, on .crib), (14, on .grn), (15, (ll.map (fun (l : LinkLoad) => l.outBytes + l.inBytes)).sum), (16, both cl.cross),
   (17, if e.op = Op.move ∧ bit e.subop 0 then o.a.rows * o.a.rowBytes else 0), (18, both (cl.cross.filter (fun x => c.crossGcm x.1))), (19, on .host)]

/-- Amounts by coefficient spread evenly over `slot` ticks from `t0`, repeated by the loops around it: innermost (count, period) first. -/
structure Spread where
  t0 : Nat
  slot : Nat
  amounts : List (Nat × Nat)
  reps : List (Nat × Nat)
  deriving DecidableEq, Repr

/-- The start ticks of every repetition. -/
def starts (t0 : Nat) : List (Nat × Nat) → List Nat
  | [] => [t0]
  | (k, p) :: t => (List.range k).flatMap (fun j => starts (t0 + j * p) t)

/-- Ticks of [a, a + n) inside window `w`. -/
def overlapTicks (a n w : Nat) : Nat := min (a + n) ((w + 1) * 16384) - max a (w * 16384)

/-- The amount of coefficient `k` that a spread puts in window `w`. -/
def Spread.inWindow (s : Spread) (k w : Nat) : Nat × Nat :=
  let ticks := ((starts s.t0 s.reps).map (fun a => overlapTicks a s.slot w)).sum
  (((s.amounts.filter (·.1 == k)).map (·.2)).sum * ticks, max 1 s.slot)

/-- The windows a spread overlaps. -/
def Spread.windows (s : Spread) : List Nat :=
  ((starts s.t0 s.reps).flatMap (fun a => (List.range ((a + s.slot - 1) / 16384 - a / 16384 + 1)).map (· + a / 16384))).eraseDups

/-- Power limit of a mode in W (R18). -/
def powerLimit : Mode → Nat
  | .full => 2800 | .balanced => 2300 | .linkFirst => 1950 | .quiet => 1300

/-- P of a window in binary64 (R81): each amount is rounded once, the products are summed in the order of the coefficients' numbers, divided by the
window's length of 2^20 beats, in pJ per W, and added to the static power (DESIGN CHOICE, entry 15). -/
def Chip.powerOf (c : Chip) (m : Mode) (l : List Spread) (w : Nat) : Fp :=
  let amount (k : Nat) : Fp := f64 (l.foldl (fun r s => fracAdd r (s.inWindow k w)) (0, 1))
  let energy : Fp := (List.range 16).foldl (fun (a : Fp) k => (a.addX ((c.coef (4 + k)).mulX (amount (4 + k))).to64).to64) (Fp.zero false)
  ((c.coef m.code).addX (energy.div64 (f64 (2 ^ 20 * 10000, 9)))).to64

/-- P of a window does not exceed 0.95 of the mode's limit (R81). -/
def Chip.powerOk (c : Chip) (m : Mode) (l : List Spread) (w : Nat) : Bool := !(f64 (95 * powerLimit m, 100)).lt (c.powerOf m l w)

/-! ### The walk over the entries (R79) -/

/-- An open LOOP of the walk: its last body index, the frame base and the frame's end around it, its iteration count and period, and the ends of
occupancy as they stood when it issued. -/
structure OpenLoop where
  last : Nat
  outer : Nat := 0
  outerEnd : Option Nat := none
  count : Nat := 1
  period : Nat := 1
  thr : Nat := 0
  mov : Nat := 0
  chan : Nat := 0
  prevEnd : Nat := 0
  deriving DecidableEq, Repr

/-- What the walk carries: unit_free of thresher, mover and combine channel, the end of the previous entry, the frame, and what is booked. -/
structure Walker where
  thr : Nat := 0
  mov : Nat := 0
  chan : Nat := 0
  prevEnd : Nat := 0
  base : Nat := 0
  frameEnd : Option Nat := none
  loops : List OpenLoop := []
  books : List Booking := []
  spreads : List Spread := []
  deriving DecidableEq, Repr

/-- An end of occupancy after a loop: where the body moved it, it stands in the last iteration (R64, R82). -/
def OpenLoop.after (l : OpenLoop) (was now : Nat) : Nat := if now = was then now else now + (l.count - 1) * l.period

/-- Close the loops whose body ends before entry `i`: later entries stand after the loop. -/
def Walker.close (i : Nat) : Nat → Walker → Walker
  | 0, w => w
  | fuel + 1, w => match w.loops with
    | l :: t => if l.last < i then
        Walker.close i fuel { w with
          loops := t, base := l.outer, frameEnd := l.outerEnd, thr := l.after l.thr w.thr, mov := l.after l.mov w.mov
          chan := l.after l.chan w.chan, prevEnd := l.after l.prevEnd w.prevEnd }
      else w
    | [] => w

/-- An occupancy that ends at `t1` in the first iteration of every open loop stays, in every iteration, within each frame around it (R64, R74, R82). -/
def Walker.fits (w : Walker) (t1 : Nat) : Bool :=
  let ok (f : Option Nat) (t : Nat) : Bool := match f with | some f => decide (t ≤ f) | none => true
  (w.loops.foldl (fun (r : Bool × Nat) l => let t := r.2 + (l.count - 1) * l.period; (r.1 && ok l.outerEnd t, t)) (ok w.frameEnd t1, t1)).1

/-- The end of the top-level frame from entry `i` on, in ticks of the frame: the next BELL_WAIT outside the loops. -/
def Chip.nextWait (c : Chip) (n : Nat) : Nat → Nat → Option Nat
  | 0, _ => none
  | fuel + 1, i =>
    let e := c.entry n i
    if e.op = Op.bellWait then some (e.p32 * 16384)
    else if e.op = Op.loop then c.nextWait n fuel (i + e.body + 1)
    else c.nextWait n fuel (i + 1)

/-- Thresher clock in MHz (R18). -/
def thrMhz : Mode → Nat
  | .full => 1800 | .balanced => 1440 | .linkFirst => 1200 | .quiet => 900

/-- Descriptors of an entry's operands. -/
def Chip.opnds (c : Chip) (n : Nat) (e : Entry) : Opnds :=
  ⟨c.descAt n (e.desc 0), c.descAt n (e.desc 1), c.descAt n (e.desc 2), c.descAt n (e.desc 3)⟩

/-- The first refusal among operands, relations and absent units (R79). -/
def Chip.operandsWhy (c : Chip) (n : Nat) (h : Head) (e : Entry) : Option Nat :=
  let g := c.groupAt n e.group
  let o := c.opnds n e
  let each := (List.range 4).foldl (fun w k => match w with
    | some v => some v
    | none => if e.use k then c.operandWhy n h e g k else none) none
  each <|> (if e.isCombine then c.ringWhy n h e g <|> c.chaffWhy n h e g <|> c.combineWhy n e o g else computeWhy e o <|> c.xtsWhy n e o) <|>
  firstWhy [
    (e.isCombine && (c.entryLoad n e o g).links.any (fun l => !c.linkPresent l.link), Why.absent)]

/-- One stamped entry of the walk: occupancy, cycles, bookings, power (R79). `run` lengthens every slot by its headland (R76). -/
def Chip.walkStamped (c : Chip) (n : Nat) (h : Head) (m : Mode) (run : Bool) (i : Nat) (e : Entry) (w : Walker) : Nat ⊕ Walker :=
  let o := c.opnds n e
  let g := c.groupAt n e.group
  let t0 := w.base + e.issue
  let t1 := t0 + e.slot + h.land e
  let busy := max (if e.onThresher then w.thr else 0) (max (if e.onMover then w.mov else 0) (if e.isCombine then w.chan else 0))
  if decide (t0 < busy) || !w.fits t1 then .inl Why.stamp
  else if e.chain ∧ t0 < w.prevEnd then .inl Why.stamp
  else if (if e.op = Op.openShift then decide (e.slot < 743) else decide (e.slot * 64 * thrMhz m < e.cycles o * 900)) then .inl Why.slotShort
  else if e.isCombine && (c.entryLoad n e o g).links.any (fun l => !c.inService l.link) then .inl Why.service
  else
    let b1 := if run then t0 + e.slot + h.land e else t0 + e.slot
    let adds := c.demand n h i e o g
    let r := adds.foldl (fun (r : Nat ⊕ List Booking) d => match r with
      | .inl x => .inl x
      | .inr l =>
        let l := ⟨d.1, t0, b1, d.2⟩ :: l
        if c.withinCap m l d.1 then .inr l else .inl (reasonOf d.1)) (.inr w.books)
    match r with
    | .inl x => .inl x
    | .inr l =>
      let reps := w.loops.map (fun x => (x.count, x.period))
      let work : Spread := ⟨t0, e.slot, e.workAmounts o, reps⟩
      let moved : Spread := ⟨t0, b1 - t0, c.byteAmounts n h i e o g, reps⟩
      let sps := work :: moved :: w.spreads
      if !(moved.windows.all (c.powerOk m sps)) then .inl Why.power
      else .inr { w with
        books := l, spreads := sps, prevEnd := if e.op = Op.loop then t0 else t1
        thr := if e.onThresher then t1 else w.thr
        mov := if e.onMover then t1 else w.mov
        chan := if e.isCombine then t1 else w.chan }

/-- Advance the frame past entry `i` (R64): a LOOP opens a nested frame, a BELL_WAIT a new one with its own bookings. -/
def Chip.advanceFrame (c : Chip) (n : Nat) (h : Head) (i : Nat) (e : Entry) (w : Walker) : Walker :=
  if e.op = Op.loop then
    let t0 := w.base + e.issue
    { w with
      loops := ⟨i + e.body, w.base, w.frameEnd, e.p32, e.slot, w.thr, w.mov, w.chan, w.prevEnd⟩ :: w.loops
      base := t0, frameEnd := some (t0 + e.slot) }
  else if e.op = Op.bellWait then { frameEnd := c.nextWait n h.entryCount (i + 1) }
  else w

/-- The loop over the entries for one mode, from entry `i`: the index and reason of the first refusal. -/
def Chip.walkEntries (c : Chip) (n : Nat) (h : Head) (m : Mode) (run : Bool) : Nat → Nat → Walker → Option (Nat × Nat)
  | 0, _, _ => none
  | fuel + 1, i, w =>
    if h.entryCount ≤ i then none
    else
      let w := w.close i (w.loops.length + 1)
      if !c.tableOk (ctxSpace n) (c.entryVa n i) 32 then some (i, Why.mapping)
      else
        let e := c.entry n i
        match c.encodingWhy n h i e (w.loops.map (·.last)) <|> (if e.op = Op.updx then none else c.operandsWhy n h e) with
        | some r => some (i, r)
        | none =>
          if !isStead n then
            c.walkEntries n h m run fuel (i + 1)
              (if e.op = Op.loop then { w with loops := { last := i + e.body } :: w.loops } else w)
          else if e.unslotted then c.walkEntries n h m run fuel (i + 1) w
          else match c.walkStamped n h m run i e w with
            | .inl r => some (i, r)
            | .inr w => c.walkEntries n h m run fuel (i + 1) (c.advanceFrame n h i e w)

/-- A group descriptor of the fallow almanac is not that of the stead almanac at the same index, or the ring it names has another FORMAT or other extents
(R255). -/
def Chip.groupsDiffer (c : Chip) : Bool :=
  (List.range 256).any (fun k =>
    let g := c.groupAt 1 k
    let r := c.descAt 1 g.ring
    let s := c.descAt 0 g.ring
    c.groupBytes 1 k != c.groupBytes 0 k || (g.seats != 0 && (r.format != s.format || !r.sameShape s)))

/-- Admission of R79: none where it passes. HEAD is read from the table; `run` is the running test of R76. -/
def Chip.admission (c : Chip) (n : Nat) (run : Bool := false) : Option (Nat × Nat) :=
  if !c.tableOk (ctxSpace n) (c.entryVa n 0) 32 then some (0, Why.mapping)
  else
    let w := c.entryWords n 0
    let h := Head.parse w
    let zero : Option Nat :=
      firstWhy [(field (w.getD 0 0) 0 8 != Op.head || h.kind != ctxKind n || headRsv w || decide (h.entryCount < 2 ∨ 2 ^ 24 < h.entryCount),
        Why.structure_), (!bit h.modes c.modeNo, Why.mode)] <|>
      (if !isStead n then firstWhy [(decide (c.rd F.LFT_QUOTA_QUOTA 0 (n - 2) < h.loftSlices), Why.quota)]
       else firstWhy [
        (!c.posValid, Why.position), (!c.steadLevel, Why.service),
        (!c.surveyCurrent || h.modules != c.rd F.CLK_SURVEY_MODULES, Why.survey),
        (n == 1 && ((match (c.ctx 0).head with | some s => h.pairId != s.id || h.seed != s.seed | none => true) || c.groupsDiffer), Why.fallow),
        (decide (384 < h.loftSlices), Why.loft),
        (h.headland == 1 || decide (25 < h.headland), Why.structure_)])
    match zero with
    | some r => some (0, r)
    | none =>
      let modes := if isStead n then (List.range 4).filter (bit h.modes) else [c.modeNo]
      modes.foldl (fun r k => match r with
        | some x => some x
        | none => c.walkEntries n h (Mode.ofCode k) run h.entryCount 1 { frameEnd := if isStead n then c.nextWait n h.entryCount 1 else none }) none

/-- XTS slots that the MOVE entries of a context's table name (R333). -/
def Chip.xtsSlots (c : Chip) (n : Nat) (h : Head) : List Nat :=
  ((List.range h.entryCount).filterMap (fun i =>
    let e := c.entry n i
    if i ≠ 0 ∧ e.op = Op.move ∧ bit e.subop 0 then some e.p16 else none)).eraseDups

end Sys2Proof.Machine
end

