-- ==== Sys2Proof/Machine/Combine.lean ====
section
/-!
DEFINITION. Machine/Combine.lean: combines: the sheaf ring, triggered operations, frames, floors, reduction modes, the twin mirror of writes
(R111–R118, R138, R229–R258, R420, R455).
-/
namespace Sys2Proof.Machine

/-- Do something while an entry's translations are pinned (R149): they come before the shared cache, which is as it was afterwards. -/
def Chip.pinned (c : Chip) (pins : List XEnt) (f : Chip → Chip) : Chip :=
  let d := f { c with xcache := pins ++ c.xcache }
  { d with xcache := c.xcache }

/-! ### Mirrored writes (R420) -/

/-- The twin link a mirror frame takes: frames alternate over the twin links in service (log entry 17). -/
def Chip.twinLink (c : Chip) (k : Nat) : Option Nat :=
  match [30, 31].filter c.inService with
  | [] => none
  | [l] => some l
  | l :: m :: _ => some (if k % 2 = 0 then l else m)

/-- Send a byte string to the twin as mirror frames: a 16-byte prefix with the address, then up to 4,080 bytes. -/
def Chip.mirrorSend (c : Chip) (va : Nat) (data : List Byte) : Chip :=
  (List.range (ceilDiv data.length 4080)).foldl (fun c k => match c.twinLink k with
    | some l => c.sendFrame l ⟨2, 1, c.twinId, c.modId, false, 0, 0, toLE 16 (va + 4080 * k) ++ (data.drop (4080 * k)).take 4080⟩
    | none => c) c

/-- The crib and granary ranges (address, bytes) of the tensors that the descriptors of context 0 name (R422). -/
def Chip.steadRanges (c : Chip) (p : Desc → Bool) : List (Nat × Nat) :=
  (((List.range (c.rd F.ALM_DESC_COUNT_COUNT 0 0)).map (c.descAt 0)).filter p).flatMap (fun d =>
    (d.ranges.filter (fun r => r.2.2 == 1 || r.2.2 == 2)).map (fun r => (r.1, r.2.1)))

/-- The range, moved by MIRROR_OFS, belongs to a tensor of the position that this carrier holds (R425). -/
def Chip.ofPosition (c : Chip) (r : Nat × Nat) : Bool :=
  (c.steadRanges (fun _ => true)).any (fun t => decide (t.1 + c.mirrorOfs ≤ r.1 ∧ r.1 + r.2 ≤ t.1 + c.mirrorOfs + t.2))

/-- A write that an entry of context 0 or 1 made to a tensor is mirrored where the tensor, a lift or an attach asks for it (R420, R422, R425). -/
def Chip.mirrorRange (c : Chip) (n : Nat) (d : Desc) (r : Nat × Nat) : Chip :=
  let send (va : Nat) : Chip := c.mirrorSend va ((c.vaRead steadSpace r.1 r.2).1.map (·.1))
  if !isStead n then c
  else if c.rd F.FLT_TWIN_STATUS_STATE = 6 then if c.ofPosition r then send (r.1 - c.mirrorOfs) else c
  else if (d.mirrored && c.mirrorOn) || (c.mirrorAll && (d.tier == 1 || d.tier == 2)) then send r.1
  else c

/-- Write a whole tensor and mirror it. -/
def Chip.putTensor (c : Chip) (n : Nat) (d : Desc) (k : RndKey) (rows : List (List Fp)) : Ev × Chip :=
  let (ev, c) := c.writeTensor (ctxSpace n) d k rows
  (ev, d.written.foldl (fun c r => c.mirrorRange n d (r.1, r.2.1)) c)

/-- A run of elements in linear order cut at the rows of a tensor of `w` elements a row: row, first element, count. -/
def rowRuns (w : Nat) : Nat → Nat → Nat → List (Nat × Nat × Nat)
  | 0, _, _ => []
  | fuel + 1, x, n =>
    if n = 0 ∨ w = 0 then []
    else let k := min n (w - x % w); (x / w, x % w, k) :: rowRuns w fuel (x + k) (n - k)

/-- The row pieces of `n` elements from linear element `first` of a tensor. -/
def Desc.runs (d : Desc) (first n : Nat) : List (Nat × Nat × Nat) := rowRuns (d.dim 0) (n / max 1 (d.dim 0) + 2) first n

/-- A write of an entry to a run of elements is mirrored where its tensor asks for it (R420). -/
def Chip.mirrorRun (c : Chip) (n : Nat) (d : Desc) (first len : Nat) : Chip :=
  let c := (d.runs first len).foldl (fun c r => c.mirrorRange n d (d.rowVa r.1 + packedBytes d.format r.2.1, packedBytes d.format r.2.2)) c
  if d.scaleMode = 1 then c.mirrorRange n d (d.scaleVa + first / 32, len / 32) else c

/-! ### Sheaf contents -/

/-- Element patterns and block scales of a tensor in linear order, as stored; a poisoned element is the format's NaN or spoils its block. -/
def Chip.readBits (c : Chip) (space : Nat) (d : Desc) : List Nat × List Nat × Chip :=
  let r := if d.scaleMode = 1 then c.vaRead space d.scaleVa d.scaleBytes else ([], c)
  let rows := (List.range d.rows).foldl (fun (acc : List (Nat × Bool) × Chip) r =>
    let x := acc.2.vaRead space (d.rowVa r) d.rowBytes
    (acc.1 ++ (List.range (d.dim 0)).map (unpack d.format x.1), x.2)) ([], r.2)
  let scales := (List.range r.1.length).map (fun k =>
    let s := r.1.getD k (0, false)
    if s.2 || ((rows.1.drop (32 * k)).take 32).any (·.2) then 255 else s.1.toNat)
  (rows.1.map (fun p => if p.2 then (fmtOf d.format).nanCode else p.1), scales, rows.2)

/-- A sheaf's bytes: its elements packed, then its scales (R455). -/
def packSheaf (ring : Desc) (elems scales : List Nat) : List Byte := packElems ring.format elems ++ scales.map (fun s => BitVec.ofNat 8 s)

/-- How a sheaf's bytes lie: the format of its elements, whether block scales follow them, or 64-bit integers (R114, R455). -/
structure Lay where
  fmt : Nat
  scaled : Bool
  ints : Bool
  deriving DecidableEq, Repr

/-- A sheaf in the ring's format. -/
def Combine.ringLay (b : Combine) : Lay := ⟨b.ringD.format, b.ringD.scaleMode == 1, false⟩
/-- A WINNOWED sheaf on its way between steads. -/
def Combine.wireLay (b : Combine) : Lay := ⟨b.grp.wire, b.grp.wire != 4, false⟩
/-- A partial that enters level `l` (R244). -/
def Combine.layAt (b : Combine) (l : Nat) : Lay := if l = 3 ∧ b.winnowed then b.wireLay else { b.ringLay with ints := b.ints }

/-- Bytes of `n` elements, and of their scales. -/
def Lay.elemBytes (y : Lay) (n : Nat) : Nat := if y.ints then 8 * n else packedBytes y.fmt n
def Lay.scaleBytes (y : Lay) (n : Nat) : Nat := if y.ints || !y.scaled then 0 else n / 32
def Lay.bytes (y : Lay) (n : Nat) : Nat := y.elemBytes n + y.scaleBytes n

/-- The layout as a descriptor's. -/
def Lay.desc (y : Lay) (d : Desc) : Desc := { d with format := y.fmt, scaleMode := b2n y.scaled }

/-- Element `i` of a sheaf as it is read: NaN where its word or the byte of its scale is poisoned (R138). -/
def Lay.val (y : Lay) (d : Desc) (el sc : List MByte) (i : Nat) : Fp :=
  let s := sc.getD (i / 32) (0, false)
  elemValue (y.desc d) false (unpack y.fmt el i) (if s.2 then .nan else e8m0 s.1.toNat)

/-- Poison reaches element `i`. -/
def Lay.poisoned (y : Lay) (el sc : List MByte) (i : Nat) : Bool := (unpack y.fmt el i).2 || (y.scaled && (sc.getD (i / 32) (0, false)).2)

/-- The FP32 values of a sheaf. -/
def Lay.vals (y : Lay) (d : Desc) (n : Nat) (el sc : List MByte) : List Fp := (List.range n).map (fun i => (y.val d el sc i).to32)

/-- Events of reading a sheaf into FP32 (R93), poisoned elements among them (R138). -/
def Lay.events (y : Lay) (d : Desc) (n : Nat) (el sc : List MByte) : Ev :=
  let ev : Ev := if y.scaled then Ev.sum ((List.range n).map (fun i => (read32 (y.val d el sc i)).2)) else {}
  ev.add { nanIn := ((List.range n).filter (y.poisoned el sc)).length }

/-- The integers of a sheaf; none for a poisoned word, which reads as NaN (R249). -/
def Lay.integers (n : Nat) (el : List MByte) : List (Option Int) :=
  (List.range n).map (fun i => let d := (el.drop (8 * i)).take 8; if d.any (·.2) then none else some (sext 64 (ofLE (d.map (·.1)))))

/-- A sheaf's bytes as they are sent: an element that poison reaches goes as its format's NaN, or spoils its block; a poisoned integer has no NaN and goes
as a free value (log entry 225). -/
def Chip.sheafSent (c : Chip) (y : Lay) (n : Nat) (el sc : List MByte) : List Byte × Chip :=
  if !(el.any (·.2) || sc.any (·.2)) then ((el ++ sc).map (·.1), c)
  else if y.ints then
    (Lay.integers n el).foldl (fun (acc : List Byte × Chip) q => match q with
      | some v => (acc.1 ++ toLE 8 (wrap 64 v), acc.2)
      | none => let x := acc.2.free; (acc.1 ++ toLE 8 x.1, x.2)) ([], c)
  else
    let bits := (List.range n).map (fun i => let p := unpack y.fmt el i; if p.2 then (fmtOf y.fmt).nanCode else p.1)
    let scales := (List.range sc.length).map (fun k => if ((List.range 32).map (32 * k + ·)).any (y.poisoned el sc) then 255 else (sc.getD k (0, false)).1.toNat)
    (packElems y.fmt bits ++ scales.map (fun s => BitVec.ofNat 8 s), c)

/-- The FP32 values of a sheaf's bytes in a layout. -/
def Lay.ofBytes (y : Lay) (d : Desc) (n : Nat) (data : List Byte) : List Fp :=
  y.vals d n (clean (data.take (y.elemBytes n))) (clean (data.drop (y.elemBytes n)))

/-- Values narrowed to the source format to nearest even, as sheaf bytes, with their events. -/
def narrowSheaf (ring : Desc) (vals : List Fp) : List Byte × Ev :=
  let (e, s, ev) := narrowRow ring .nan (vals.map (fun v => (v, .rne)))
  (e ++ s, ev)

/-- Units of a combine's contribution: DIM2 indices under UNITS, else one (R112, R231). -/
def Combine.units (b : Combine) : Nat := if b.e.units then (b.desc 0).dim 2 else 1

/-- Sheaf `g` of MATMUL_RS of one unit, in the riddle's order (R236): segment (batch, N-tile, m) of 1,024 columns. -/
def productSheaf (e : Entry) (a b : Side) (units : Bool) (u se g : Nat) : List Fp :=
  let m := a.rowsA
  let nt := (e.mkn a.t.desc b.t.desc).2.2 / 1024
  (List.range se).map (fun i =>
    let seg := (g * se + i) / 1024
    let row := seg % m
    let t := seg / m % nt
    let batch := seg / (m * nt)
    let b2 := if units then u else batch % a.t.desc.dim 2
    let b3 := if units then batch else batch / a.t.desc.dim 2
    productElem a b (.num false 0 0) (f32 e.p32) row (1024 * t + i % 1024) b2 b3)

/-- An operand as a combine cuts it in linear order: the stored bits and scales where it is in the source format, else its FP32 values. -/
structure SrcData where
  bits : Bool
  el : List Nat
  sc : List Nat
  vals : List Fp
  deriving DecidableEq, Repr

/-- Format and scale mode are those of the ring. -/
def Combine.asRing (b : Combine) (d : Desc) : Bool := d.format == b.ringD.format && d.scaleMode == b.ringD.scaleMode

/-- Read an operand to be cut into sheaves; a read into FP32 counts its events (R93). An operand of a product travels without its channel scales, which the
product applies (R95, log entry 226). -/
def Chip.srcData (c : Chip) (b : Combine) (d : Desc) : SrcData × Ev × Chip :=
  if b.asRing d then let x := c.readBits b.space d; (⟨true, x.1, x.2.1, []⟩, {}, x.2.2)
  else let x := c.readTensor b.space d (b.isAg || b.isA2a); let y := x.1.to32; (⟨false, [], [], y.1.rows.flatten⟩, y.2, x.2)

/-- A run of elements; with scales both ends are multiples of 32. -/
def SrcData.cut (s : SrcData) (first n : Nat) : SrcData :=
  ⟨s.bits, (s.el.drop first).take n, (s.sc.drop (first / 32)).take (n / 32), (s.vals.drop first).take n⟩

/-- The elements of one DIM2 index in linear order (R231). -/
def SrcData.unit (s : SrcData) (d : Desc) (u : Nat) : SrcData :=
  let slab := d.dim 0 * d.dim 1
  let parts := (List.range (d.dim 3)).map (fun i3 => s.cut ((i3 * d.dim 2 + u) * slab) slab)
  ⟨s.bits, parts.flatMap (·.el), parts.flatMap (·.sc), parts.flatMap (·.vals)⟩

/-- A sheaf's bytes in the source format: the stored bits, or the values narrowed to nearest even (R111). -/
def SrcData.pack (s : SrcData) (ring : Desc) : List Byte × Ev := if s.bits then (packSheaf ring s.el s.sc, {}) else narrowSheaf ring s.vals

/-- The contribution of a position to sheaf `g`, one byte string in the source format per unit (R231, R236). -/
def Chip.contribution (c : Chip) (b : Combine) (pos g : Nat) : List (List Byte) × Ev × Chip :=
  let e := b.e
  let se := b.se
  if e.op = Op.matmulRs then
    let x := c.readTensor b.space (c.posDesc b pos 0) true
    let y := x.2.readTensor b.space (c.posDesc b pos 1) true
    let parts := (List.range b.units).map (fun u =>
      narrowSheaf b.ringD (productSheaf e ⟨x.1, e.trans 0⟩ ⟨y.1, e.trans 1⟩ e.units u se g))
    (parts.map (·.1), Ev.sum (parts.map (·.2)), y.2)
  else
    let d := c.posDesc b pos (if e.op = Op.agMatmul ∧ !bit e.subop 2 then 1 else 0)
    let (s, ev, c) := c.srcData b d
    let parts : List SrcData :=
      if e.units then (List.range b.units).map (fun u => (s.unit d u).cut (g * se) se)
      else if e.op = Op.a2aMatmul then [(s.unit d (g / max 1 b.sheaves)).cut (g % max 1 b.sheaves * se) se]
      else [s.cut ((if e.op = Op.agMatmul then g / b.grp.p else g) * se) se]
    let out := parts.map (fun x => x.pack b.ringD)
    (out.map (·.1), Ev.sum ((if g = 0 then ev else {}) :: out.map (·.2)), c)

/-! ### TALLY (R113–R115) -/

/-- The true exponent of a non-zero finite value. -/
def trueExp : Fp → Int
  | .num _ m e => let (n, d) := Fp.ratio m e; floorLog2 n d
  | _ => 0

/-- The local code of a block (R113). -/
def localCode (xs : List Fp) : Nat :=
  if xs.any (fun x => x.isNan || x.isInf) then 255
  else if xs.all Fp.isZero then 0
  else
    let e := (xs.filter (fun x => !x.isZero)).foldl (fun m x => max m (trueExp x)) (-1000)
    min 254 (max e (-126) + 127).toNat

/-- The codes of a sheaf, one per 32 elements. -/
def sheafCodes (vals : List Fp) : List Nat := (pieces 32 (vals.length / 32 + 1) vals).map localCode

/-- Element-wise maximum of code lists. -/
def maxCodes (a b : List Nat) : List Nat := (List.range (max a.length b.length)).map (fun i => max (a.getD i 0) (b.getD i 0))

/-- q = trunc (x / u), u = 2^(A − 46), A = a − 127 (R114); 0 under the special anchors; none for a NaN that poison made of the element since its code was
formed. -/
def tallyInt (a : Nat) (x : Fp) : Option Int :=
  if a = 0 ∨ a = 255 then some 0
  else match x with
    | .num s m e => let k := e - ((a : Int) - 173); let v : Nat := if 0 ≤ k then m * 2 ^ k.toNat else m / 2 ^ (-k).toNat; some (if s then -(v : Int) else v)
    | _ => none

/-- A sum of integers; none where one is a NaN. -/
def sumInts (l : List (Option Int)) : Option Int := l.foldl (fun s x => match s, x with | some a, some b => some (a + b) | _, _ => none) (some 0)

/-- 64-bit integers as they lie in a slot: a NaN is a poisoned word. -/
def packInts (l : List (Option Int)) : List MByte := l.flatMap (fun q => match q with
  | some i => clean (toLE 8 (wrap 64 i))
  | none => List.replicate 8 (0, true))

/-- T × u exactly (R115): +0 under anchor 0, NaN under 0xFF. -/
def tallyVal (a : Nat) (t : Int) : Fp :=
  if a = 255 then .nan else if a = 0 then .num false 0 0 else .num (decide (t < 0)) t.natAbs ((a : Int) - 173)

/-! ### The ring's slots (R238–R240) -/

/-- Change a combine and note its progress (R258). -/
def Chip.onComb (c : Chip) (ch : Nat) (f : Combine → Combine) : Chip :=
  match c.comb ch with | some b => c.setComb ch { f b with lastProgress := c.beat } | none => c
def Chip.onChain (c : Chip) (ch pos g : Nat) (f : Chain → Chain) : Chip := c.onComb ch (fun b => b.onChain pos g f)

/-- The state of slot `k` (R239). -/
def Combine.slotSt (b : Combine) (k : Nat) : SlotSt := match Table.find? k b.slots with | some s => s.st | none => .free
/-- Slots of the ring, and those that are FREE. -/
def Combine.slotCount (b : Combine) : Nat := b.ringD.dim 2
def Combine.freeSlots (b : Combine) : Nat := b.slotCount - b.slots.length

/-- The slot that holds something of a sheaf. -/
def Combine.slotOf (b : Combine) (pos g tag who : Nat) : Option (Nat × RingSlot) :=
  b.slots.find? (fun e => e.2.pos == pos && e.2.g == g && e.2.tag == tag && e.2.who == who)
/-- The same, from whichever module it came. -/
def Combine.slotAt (b : Combine) (pos g tag : Nat) : Option (Nat × RingSlot) := b.slots.find? (fun e => e.2.pos == pos && e.2.g == g && e.2.tag == tag)

/-- The engine assigns the lowest FREE slot. -/
def Combine.assign (b : Combine) (s : RingSlot) : Combine :=
  match (List.range b.slotCount).find? (fun k => b.slotSt k == .free) with
  | some k => { b with slots := Table.insert k s b.slots }
  | none => b

def Combine.onSlot (b : Combine) (k : Nat) (f : RingSlot → RingSlot) : Combine := { b with slots := b.slots.map (fun e => if e.1 = k then (k, f e.2) else e) }
/-- A slot is RELEASED. -/
def Combine.release (b : Combine) (k : Nat) : Combine := { b with slots := Table.erase k b.slots }

/-- Slots that serve outbound contributions: those to be sent, and own inputs that wait for a window place (R240). -/
def Combine.outUsed (b : Combine) : Nat :=
  (b.slots.filter (fun e => e.2.who == e.2.pos && (e.2.tag == 0 || (decide (e.2.tag ≤ 3) &&
    !(match b.chain e.2.pos e.2.g with | some x => x.win.contains e.2.tag | none => false))))).length

/-- Slots left for outbound contributions beside two window places at each active level; at least one (log entry 227). -/
def Combine.outRoom (b : Combine) : Nat := max 1 (b.slotCount - 2 * ((([1, 2, 3].filter b.active).map b.grp.size).sum))

/-- An outbound contribution may take a slot. -/
def Combine.outFree (b : Combine) : Bool := decide (b.outUsed < b.outRoom) && decide (0 < b.freeSlots)

/-- The combine once an owned sheaf is in flight at a level (R240): it is there already, or fewer than two others are and its own input and its children get
their slots; one slot stays for outbound contributions (log entry 227). -/
def Chip.windowed (c : Chip) (b : Combine) (pos g l : Nat) : Option Combine :=
  match b.chain pos g with
  | none => none
  | some x =>
    if x.win.contains l then some b
    else
      let others := (b.chains.filter (fun y => y.pos == pos && y.win.contains l && !y.reducedLv.contains l)).length
      let who := (if (b.slotOf pos g l pos).isSome then [] else [pos]) ++ c.children b pos l
      if 2 ≤ others ∨ b.freeSlots < who.length + (if b.outUsed = 0 then 1 else 0) then none
      else some ((who.foldl (fun b m => b.assign { st := .filling, pos := pos, g := g, tag := l, who := m }) b).onChain pos g (fun x => { x with win := l :: x.win }))

/-- Sheaves the array has consumed for a position. -/
def Combine.eatenOf (b : Combine) (pos : Nat) : Nat := (b.eaten.filter (·.pos == pos)).length

/-- The slot for something of a sheaf, with the combine that has it assigned; none while it must wait (R240). Gathered sheaves take slots only as far ahead of the
array as the ring is long, so that the next one always finds its place (log entry 227). -/
def Chip.slotFor (c : Chip) (b : Combine) (pos g tag who : Nat) : Option (Nat × Combine) :=
  match b.slotOf pos g tag who with
  | some (k, _) => some (k, b)
  | none =>
    let some_ (b : Combine) : Option (Nat × Combine) := (b.slotOf pos g tag who).map (fun e => (e.1, b))
    let new := b.assign { st := .filling, pos := pos, g := g, tag := tag, who := who }
    if 1 ≤ tag ∧ tag ≤ 3 then
      match c.windowed b pos g tag with
      | some b => some_ b
      | none => if who = pos ∧ b.outFree then some_ new else none
    else if tag = 0 ∧ who = pos ∧ (b.e.reduces ∨ (b.isA2a ∧ b.blockOf g ≠ pos)) then (if b.outFree then some_ new else none)
    else if tag = 8 ∧ b.isAg ∧ b.eatenOf pos + b.slotCount ≤ g then none
    else some_ new

/-- Addresses of a slot's elements and scales: STRIDE2 apart; scales in the ring's scale array, or behind the elements where it has none. -/
def Combine.slotVa (b : Combine) (k : Nat) : Nat := b.ringD.base + k * b.ringD.strides.getD 1 0
def Combine.slotScaleVa (b : Combine) (k : Nat) (y : Lay) : Nat :=
  if b.ringD.scaleMode = 1 then b.ringD.scaleVa + k * (b.se / 32) else b.slotVa k + y.elemBytes b.se

/-- Write bytes of a sheaf, from byte `ofs` of it, into a slot. -/
def Chip.slotWrite (c : Chip) (b : Combine) (k : Nat) (y : Lay) (ofs : Nat) (data : List MByte) : Chip :=
  let eb := y.elemBytes b.se
  let e := data.take (eb - ofs)
  let s := data.drop (eb - ofs)
  let c := if e.isEmpty then c else c.vaWrite b.space (b.slotVa k + ofs) e
  if s.isEmpty then c else c.vaWrite b.space (b.slotScaleVa k y + (max ofs eb - eb)) s

/-- The elements and scales in a slot, with their poison marks. -/
def Chip.slotRead (c : Chip) (b : Combine) (k : Nat) (y : Lay) : List MByte × List MByte × Chip :=
  let x := c.vaRead b.space (b.slotVa k) (y.elemBytes b.se)
  if y.scaleBytes b.se = 0 then (x.1, [], x.2)
  else let s := x.2.vaRead b.space (b.slotScaleVa k y) (y.scaleBytes b.se); (x.1, s.1, s.2)

/-! ### Frames (R243) -/

/-- FLOW of a combine's frames. -/
def Combine.flow (b : Combine) (ch l : Nat) (down : Bool) : Nat := (if ch = 0 then b.e.group else b.grp.tgroup) + l * 256 + b2n down * 1024

/-- TYPE of a sheaf's frames to a module: RELAY where it only passes an A2A block on (R243, R247). -/
def Combine.dataTyp (b : Combine) (target g : Nat) : Nat := if b.isA2a && target != b.blockOf g then 5 else 1

/-- Send a sheaf's bytes, or anchor codes, from one tree position to another; level 3 goes to ORT (R243–R246). Sheaves sent are counted (R259). -/
def Chip.sendSheaf (c : Chip) (ch : Nat) (b : Combine) (pos target typ l g : Nat) (down : Bool) (data : List Byte) : Chip :=
  let n := framesOf data.length
  let part (k : Nat) : List Byte := (data.drop (4096 * k)).take 4096
  let c := if typ = 1 ∨ typ = 5 then c.count F.CMB_SHEAVES_OUT_COUNT else c
  if 256 ≤ target then
    { c with xsOut := c.xsOut ++ (List.range n).map (fun k => ⟨target - 256, typ, b.flow ch l down, g * 1024 + k, part k⟩) }
  else (List.range n).foldl (fun c k => c.sendFrame (c.peerLink pos target)
      ⟨if ch = 0 then 0 else 4, typ, target, pos, false, b.flow ch l down, g * 1024 + k, part k⟩) c

/-- What of a sheaf goes to a position's chain: the tag it lies under. -/
def Combine.tagOf (b : Combine) (typ l : Nat) (down : Bool) : Nat :=
  if typ = 5 then 16 else if down || b.e.op == Op.stageRecv then 8 else l

/-- A whole sheaf is placed for a position: one on the down path, or staged, waits for DOWN. -/
def Chip.sheafPlaced (c : Chip) (ch pos g tag l : Nat) : Chip :=
  if tag = 8 then c.onChain ch pos g (fun x => { x with down := true, downFrom := l }) else c

/-- Layout of a sheaf under a tag. -/
def Combine.layTag (b : Combine) (tag : Nat) : Lay := if 1 ≤ tag ∧ tag ≤ 3 then b.layAt tag else b.ringLay

/-- A sheaf goes from a position this module carries to another one it carries (R256): none while it has no slot there. -/
def Chip.placeHere (c : Chip) (ch : Nat) (b : Combine) (pos target typ l g : Nat) (down : Bool) (data : List Byte) : Option Chip :=
  if down && b.isAr then some (c.onChain ch target g (fun x => { x with down := true, downData := data, downFrom := l }))
  else
    let tag := b.tagOf typ l down
    match (b.chain target g).bind (fun _ => c.slotFor b target g tag pos) with
    | none => none
    | some (k, b) =>
      let c := (c.setComb ch (b.onSlot k (fun s => { s with st := .ready }))).slotWrite b k (b.layTag tag) 0 (clean data)
      some ((c.sheafPlaced ch target g tag l))

/-- The layout of what a position sends: a partial for a level, else a sheaf of the ring. -/
def Combine.sendLay (b : Combine) (l : Nat) (down : Bool) : Lay := if b.e.reduces && !down then b.layAt l else b.ringLay

/-- The slot a sheaf is sent from. -/
def Combine.sendSlot (b : Combine) (pos g : Nat) (down : Bool) : Option (Nat × RingSlot) := if down then b.slotAt pos g 8 else b.slotOf pos g 0 pos

/-- SEND to a position (R241, R244): none where it must wait for the peer's GRANT (R257), or for a slot of a position this module carries itself. -/
def Chip.sendTo (c : Chip) (ch pos target l g : Nat) (down : Bool) : Option Chip :=
  match c.comb ch with
  | none => none
  | some b =>
    let here := c.carriedHere target
    if ch = 1 ∧ target < 256 ∧ !here ∧ !b.grants.contains (target, l, g) then none
    else
      let typ := b.dataTyp target g
      let s := if down && b.isAr then none else b.sendSlot pos g down
      let (data, c) : List Byte × Chip := match s with
        | some (k, _) => let x := c.slotRead b k (b.sendLay l down); x.2.2.sheafSent (b.sendLay l down) b.se x.1 x.2.1
        | none => ((match b.chain pos g with | some x => x.downData | none => []), c)
      if here then c.placeHere ch b pos target typ l g down data
      else
        let c := c.sendSheaf ch b pos target typ l g down data
        some (match s with
          | some (k, _) => c.onComb ch (fun b => b.onSlot k (fun s => { s with sends := s.sends ++ [(target, l, down)] }))
          | none => c)

/-- SEND, at once or once it may. -/
def Chip.sendOrWait (c : Chip) (ch pos target l g : Nat) (down : Bool) : Chip :=
  match c.sendTo ch pos target l g down with
  | some c => c
  | none => c.onChain ch pos g (fun x => { x with waiting := x.waiting ++ [(target, l, down)] })

/-- Only the acknowledgement of its sends keeps a slot from being FREE. -/
def Chip.spend (c : Chip) (ch pos g tag who : Nat) : Chip :=
  c.onComb ch (fun b => match b.slotOf pos g tag who with | some (k, _) => b.onSlot k (fun s => { s with spent := true }) | none => b)

/-- A contribution or a partial leaves its position (R241). -/
def Chip.sendPart (c : Chip) (ch pos target l g : Nat) : Chip := (c.sendOrWait ch pos target l g false).spend ch pos g 0 pos

/-! ### CHAIN_SETUP, PRODUCED, anchors (R241, R242, R250) -/

/-- The modules of the row and column that send this position a sheaf, with the level of their frames: each is granted a slot on the tenant
channel (R247, R248, R257). -/
def Chip.sendersOf (c : Chip) (b : Combine) (pos g : Nat) : List (Nat × Nat) :=
  let row := ((bitsOf b.grp.seats 16).filter (· ≠ seatOf pos)).map (fun s => (0, rickOf pos * 16 + s))
  let col := ((bitsOf b.grp.ricks 16).filter (· ≠ rickOf pos)).map (fun r => (0, r * 16 + seatOf pos))
  if b.e.op = Op.stageRecv then [(0, b.grp.peer)]
  else if b.isA2a then (if b.blockOf g = pos then row ++ col else if b.relays pos g then row else [])
  else
    (if b.e.reduces then (c.ownedLevels b pos g).flatMap (fun l => (c.children b pos l).map (fun m => (l, m))) else []) ++
    (match c.downSource b pos g with | some t => [t] | none => [])

/-- Operations that the stead almanacs' combines may need at once: they are kept from the tenant channel, so that the limit never binds an admitted combine
(R242, log entry 228). -/
def Chip.opsKept (c : Chip) : Nat :=
  let kept (n : Nat) : Nat := let x := c.ctx n; if x.st = .admitted ∨ x.st = .running ∨ x.st = .held then x.ops else 0
  max (kept 0) (kept 1)

/-- CHAIN_SETUP: a sheaf's chain is set up while the operations in flight stay within 4,096 (R242); on the tenant channel its senders are to be granted a
slot (R257). -/
def Chip.chainSetup (c : Chip) (ch pos g : Nat) : Chip :=
  match c.comb ch with
  | none => c
  | some b =>
    let x : Chain := { pos := pos, g := g, ungranted := if ch = 0 then [] else (c.sendersOf b pos g).filter (fun t => t.2 < 256) }
    let ops := c.opsInFlight + c.pendingOps b x
    if !(c.positionsOf b).contains pos || !(b.grp.names pos && c.ownStead b.grp) || decide (b.total ≤ g) || (b.chain pos g).isSome ||
       decide (4096 < ops) || (ch == 1 && decide (4096 < c.combineOps b + c.pendingOps b x + c.opsKept)) then c
    else
      let c := c.onComb ch (fun b => { b with chains := b.chains ++ [x] })
      c.wr F.CMB_TRIG_PEAK_PEAK (max (c.rd F.CMB_TRIG_PEAK_PEAK) ops)

/-- The chaff step of R118 on a partial: what is sent on, as wire bytes, and the chaff and flags after. -/
def Chip.winnow (c : Chip) (b : Combine) (pos g : Nat) (vals : List Fp) : List Byte × Chip :=
  let gr := b.grp
  let d := { b.chaffD with base := b.chaffD.base + c.posOfs pos }
  let h := match (c.ctx b.ctx).head with | some h => h.seed | none => 0
  let key : RndKey := ⟨b.e.rnd, h, b.step, gr.chaff⟩
  let first := g / (gr.n1 * gr.n2) * b.se
  let coord (i : Nat) : Nat × Nat × Nat × Nat := let x := first + i; let rc := d.rowCoord (x / d.dim 0); (x % d.dim 0, rc.1, rc.2.1, rc.2.2)
  let addr (i : Nat) : Nat := let x := first + i; d.rowVa (x / d.dim 0) + 4 * (x % d.dim 0)
  let (old, c) := (List.range vals.length).foldl (fun (acc : List Fp × Chip) i =>
    let m := acc.2.vaRead b.space (addr i) 4
    (acc.1 ++ [if m.1.any (·.2) then Fp.nan else f32 (ofLE (m.1.map (·.1)))], m.2)) ([], c)
  let z := (List.range vals.length).map (fun i => (vals.getD i .nan).add (old.getD i .nan))
  let (eb, sb, ev) := narrowRow (b.wireLay.desc b.ringD) .nan ((List.range z.length).map (fun i => let q := coord i; (z.getD i .nan, key.at q.1 q.2.1 q.2.2.1 q.2.2.2)))
  let w := b.wireLay.ofBytes b.ringD z.length (eb ++ sb)
  let new := (List.range z.length).map (fun i => let x := z.getD i .nan
    if x.isNan ∨ x.isInf then Fp.num false 0 0 else x.sub (w.getD i .nan))
  let nf := (z.filter (fun x => x.isNan || x.isInf)).length
  let c := (List.range new.length).foldl (fun c i => c.vaWrite b.space (addr i) (clean (toLE 4 (narrowFloat 0 (new.getD i .nan) .rne).1))) c
  let c := c.mirrorRun b.ctx d first new.length
  (eb ++ sb, c.ariEvents (ariScope b.ctx) (ev.add { chaffNf := nf, nanIn := (old.filter Fp.isNan).length }))

/-- What stands in a slot on its way above level `below` (R241, R244): it becomes the position's own input of the next active level, or is sent to that level's
owner; under WINNOWED a partial that leaves the last level within the stead is narrowed with its chaff first (R251). With no active level it is the result. -/
def Chip.enterLevel (c : Chip) (ch pos g below k : Nat) : Chip :=
  match c.comb ch with
  | none => c
  | some b =>
    let y : Lay := { b.ringLay with ints := b.ints }
    match b.above below with
    | none =>
      let x := c.slotRead b k y
      let vals : List (Option Nat) := if b.ints then (Lay.integers b.se x.1).map (Option.map (wrap 64))
        else (y.vals b.ringD b.se x.1 x.2.1).map (fun v => some (narrowFloat 0 v .rne).1)
      (x.2.2.onComb ch (fun b => b.release k)).onChain ch pos g (fun x => { x with result := some vals })
    | some l =>
      let c := if l = 3 ∧ b.winnowed then
          let x := c.slotRead b k y
          let a := match b.chain pos g with | some x => x.anchors.getD [] | none => []
          let vals := if b.ints then (List.range b.se).map (fun i => match (Lay.integers b.se x.1).getD i none with
              | some q => (tallyVal (a.getD (i / 32) 0) q).to32
              | none => .nan)
            else y.vals b.ringD b.se x.1 x.2.1
          let z := x.2.2.winnow b pos g vals
          z.2.slotWrite b k b.wireLay 0 (clean z.1)
        else c
      let o := c.ownerOf b pos l g
      if o = pos then
        c.onComb ch (fun b =>
          let b := match b.slotOf pos g l pos with | some (j, _) => if j = k then b else b.release j | none => b
          b.onSlot k (fun s => { s with tag := l, who := pos, st := .ready }))
      else (c.onComb ch (fun b => b.onSlot k (fun s => { s with tag := 0, who := pos, st := .ready }))).sendPart ch pos o l g

/-- Levels whose owners pass anchor codes: the active ones, within the stead under WINNOWED (R250, R251). -/
def Combine.anchorLevel (b : Combine) (l : Nat) : Bool := b.active l && !(l == 3 && b.winnowed)

/-- The level and the owner to which a position sends its anchor codes; none at the top. -/
def Chip.anchorTarget (c : Chip) (b : Combine) (pos g : Nat) : Option (Nat × Nat) :=
  ([1, 2, 3].find? (fun l => b.anchorLevel l && !c.owns b pos l g)).map (fun l => (l, c.ownerOf b pos l g))

/-- Anchors reach a position from level `l`: it holds them and passes them to its children of the levels below (R250). Only AR, AG and BCAST have a down
path that FLOW marks (R243), and anchors are none of its results. -/
def Chip.anchorsDown : Nat → Chip → Nat → Nat → Nat → Nat → List Nat → Chip
  | 0, c, _, _, _, _, _ => c
  | fuel + 1, c, ch, pos, g, l, codes =>
    match c.comb ch with
    | none => c
    | some b =>
      let c := c.onChain ch pos g (fun x => { x with anchors := some codes })
      ([3, 2, 1].filter (fun k => decide (k < l) && b.anchorLevel k && c.owns b pos k g)).foldl (fun c k => (c.children b pos k).foldl (fun c m =>
        if c.carriedHere m then Chip.anchorsDown fuel c ch m g k codes
        else c.sendSheaf ch b pos m 3 k g false (codes.map (fun n => BitVec.ofNat 8 n))) c) c

/-- A position's codes and every child's are in: their maximum goes up the tree, or, at the root, back down (R250). -/
def Chip.anchorsUpTo : Nat → Chip → Nat → Nat → Nat → Chip
  | 0, c, _, _, _ => c
  | fuel + 1, c, ch, pos, g =>
    match c.comb ch with
    | none => c
    | some b => match b.chain pos g with
      | none => c
      | some x =>
        let own := x.codes.any (fun k => k.1 == 0)
        let all := ([1, 2, 3].filter (fun l => b.anchorLevel l && c.owns b pos l g)).all (fun l =>
          (c.children b pos l).all (fun m => x.codes.any (fun k => k.1 == l && k.2.1 == m)))
        if !(own && all) || x.anchors.isSome then c
        else
          let codes := x.codes.foldl (fun a k => maxCodes a k.2.2) []
          match c.anchorTarget b pos g with
          | some (l, m) =>
            if c.carriedHere m then Chip.anchorsUpTo fuel (c.onChain ch m g (fun x => { x with codes := (l, pos, codes) :: x.codes })) ch m g
            else c.sendSheaf ch b pos m 2 l g false (codes.map (fun n => BitVec.ofNat 8 n))
          | none => Chip.anchorsDown 4 c ch pos g 4 codes

/-- Anchor codes go up from a position of a sheaf's tree. -/
def Chip.anchorsUp (c : Chip) (ch pos g : Nat) : Chip := Chip.anchorsUpTo 4 c ch pos g

/-- Where a position's own sheaf is made: into the slot of its input at the first level, of a gathered or broadcast sheaf, or of what it sends. -/
def Chip.ownSlot (c : Chip) (b : Combine) (pos g : Nat) : Option (Nat × Combine) :=
  if b.e.reduces then
    match b.above 0 with
    | some l => c.slotFor b pos g (if c.ownerOf b pos l g = pos then l else 0) pos
    | none => c.slotFor b pos g 0 pos
  else if b.isAg ∨ b.e.op = Op.bcast then c.slotFor b pos g 8 pos
  else c.slotFor b pos g 0 pos

/-- Beats the riddle has waited on a full ring (R240, R259), on either channel. -/
def Chip.riddleWaited (c : Chip) : Nat := (c.cmb.map (fun e => match e.2.waitFrom with | some t => c.beat - t | none => 0)).sum

/-- The riddle of MATMUL_RS waits from now on, or no longer; what it has waited is counted. -/
def Chip.riddleWait (c : Chip) (ch : Nat) (wait : Bool) : Chip :=
  match c.comb ch with
  | none => c
  | some b =>
    let c := match b.waitFrom with | some t => if wait then c else c.count F.CMB_RING_WAIT_BEATS (c.beat - t) | none => c
    c.setComb ch { b with waitFrom := if !wait || b.e.op != Op.matmulRs then none else some (b.waitFrom.getD c.beat) }

/-- PRODUCED (R241, R250): S segments are written into a slot, which becomes the position's own input or is sent; they wait while the ring has no slot for
them (R240), from the beat at which they are made. In TALLY the sheaf's local codes go up first. -/
def Chip.produced (c : Chip) (ch pos g beat : Nat) : Chip :=
  match c.comb ch with
  | none => c
  | some b => match b.chain pos g with
    | none => c
    | some x =>
      let e := b.e
      if x.produced || !c.makes b pos g then c
      else match c.ownSlot b pos g with
        | none => (c.advanceTo beat).riddleWait ch true
        | some (k, b) =>
          let c := (((c.advanceTo beat).setComb ch b).riddleWait ch false)
          let (parts, ev, c) := c.contribution b pos g
          let c := (c.slotWrite b k b.ringLay 0 (clean (parts.headD []))).ariEvents (ariScope b.ctx) ev
          let c := (c.onComb ch (fun b => b.onSlot k (fun s => { s with st := .ready }))).onChain ch pos g (fun x => { x with
            produced := true, units := parts.drop 1 })
          if e.reduces then
            if b.ints then
              let codes := parts.foldl (fun a p => maxCodes a (sheafCodes (b.ringLay.ofBytes b.ringD b.se p))) []
              (c.onChain ch pos g (fun x => { x with codes := (0, pos, codes) :: x.codes })).anchorsUp ch pos g
            else c.enterLevel ch pos g 0 k
          else if e.op = Op.stageSend then c.sendPart ch pos b.grp.peer 0 g
          else if b.isA2a then
            let m := b.blockOf g
            if m = pos then c
            else c.sendPart ch pos (if rickOf m = rickOf pos ∨ seatOf m = seatOf pos then m else rickOf pos * 16 + seatOf m) 0 g
          else c.sheafPlaced ch pos g 8 4

/-- ANCHORED (R241, R250): with its anchors held, a contribution becomes 64-bit integers in its slot and is sent or kept. -/
def Chip.anchored (c : Chip) (ch pos g : Nat) : Chip :=
  match c.comb ch with
  | none => c
  | some b => match b.chain pos g, b.slots.find? (fun e => e.2.pos == pos && e.2.g == g && e.2.who == pos && e.2.st == .ready) with
    | some x, some (k, _) => match x.anchors with
      | some a =>
        if x.anchored || !x.produced then c
        else
          let s := c.slotRead b k b.ringLay
          let vals := b.ringLay.vals b.ringD b.se s.1 s.2.1 :: x.units.map (b.ringLay.ofBytes b.ringD b.se)
          let ints := (List.range b.se).map (fun i => sumInts (vals.map (fun v => tallyInt (a.getD (i / 32) 0) (v.getD i .nan))))
          let ev : Ev := { nanIn := ((List.range b.se).filter (b.ringLay.poisoned s.1 s.2.1)).length }
          let c := (s.2.2.slotWrite b k { b.ringLay with ints := true } 0 (packInts ints)).ariEvents (ariScope b.ctx) ev
          (c.onChain ch pos g (fun x => { x with anchored := true, units := [] })).enterLevel ch pos g 0 k
      | none => c
    | _, _ => c

/-! ### ARRIVED, REDUCED, ROOT, DOWN (R241, R246, R249, R252) -/

/-- ARRIVED: own input and every child sheaf are placed at a level; one of the 16 floors starts. -/
def Chip.arrived (c : Chip) (ch pos g l : Nat) : Chip :=
  match c.comb ch with
  | none => c
  | some b => match b.chain pos g, c.windowed b pos g l with
    | some x, some b =>
      let ready := (pos :: c.children b pos l).all (fun m => match b.slotOf pos g l m with | some e => e.2.st == .ready | none => false)
      if b.e.reduces && b.active l && c.owns b pos l g && ready && x.floor.isNone && !x.reducedLv.contains l && decide (c.floorsBusy < 16) &&
         (!b.ints || x.anchored || decide (b.above 0 ≠ some l)) then
        (c.setComb ch b).onChain ch pos g (fun x => { x with floor := some l })
      else c
    | _, _ => c

/-- The order in which a floor adds: own first, then the children; at level 3 under WINNOWED ascending stead number (R118, R235). -/
def Chip.addOrder (c : Chip) (b : Combine) (pos l : Nat) : List Nat :=
  if l = 3 ∧ b.winnowed then
    (if b.grp.n3 ≤ 1 then [pos] else (bitsOf b.grp.steads 16).map (fun s => if s = c.steadId then pos else 256 + s))
  else pos :: c.children b pos l

/-- REDUCED: a floor completes a level (R111, R114, R118, R249). The partial, rounded to the source format, is in the own-input slot and goes to the next level;
at the top it is the root's. The children's slots are released. -/
def Chip.reduced (c : Chip) (ch pos g : Nat) : Chip :=
  match c.comb ch with
  | none => c
  | some b => match b.chain pos g with
    | none => c
    | some x => match x.floor, b.slotOf pos g (x.floor.getD 0) pos with
      | some l, some (k, _) =>
        let y := b.layAt l
        let (ins, c) := (c.addOrder b pos l).foldl (fun (acc : List (List MByte × List MByte) × Chip) m => match b.slotOf pos g l m with
          | some (j, _) => let r := acc.2.slotRead b j y; (acc.1 ++ [(r.1, r.2.1)], r.2.2)
          | none => acc) ([], c)
        let c := (c.onChain ch pos g (fun x => { x with floor := none, reducedLv := l :: x.reducedLv })).onComb ch (fun b =>
          (c.children b pos l).foldl (fun b m => match b.slotOf pos g l m with | some (j, _) => b.release j | none => b) b)
        let top := b.above l == none
        let finish (c : Chip) (r : List (Option Nat)) : Chip :=
          (c.onComb ch (fun b => b.release k)).onChain ch pos g (fun x => { x with result := some r })
        if y.ints then
          let vals := ins.map (fun d => Lay.integers b.se d.1)
          let sums := (List.range b.se).map (fun i => sumInts (vals.map (fun v => v.getD i none)))
          if top then finish c (sums.map (Option.map (wrap 64)))
          else (c.slotWrite b k y 0 (packInts sums)).enterLevel ch pos g l k
        else
          let vals := ins.map (fun d => y.vals b.ringD b.se d.1 d.2)
          let c := c.ariEvents (ariScope b.ctx) (Ev.sum (ins.map (fun d => y.events b.ringD b.se d.1 d.2)))
          let sums := (List.range b.se).map (fun i => match vals.map (fun v => v.getD i Fp.nan) with
            | [] => Fp.nan
            | v :: t => t.foldl Fp.add v)
          if top then finish c (sums.map (fun v => some (narrowFloat 0 v .rne).1))
          else
            let (p, ev) := narrowSheaf b.ringD sums
            ((c.slotWrite b k b.ringLay 0 (clean p)).ariEvents (ariScope b.ctx) ev).enterLevel ch pos g l k
      | _, _ => c

/-- Write a run of values at linear element `first` of a tensor, narrowed with its rounding: its element bytes and then its scale bytes, the events. -/
def Chip.writeRun (c : Chip) (n : Nat) (d : Desc) (key : RndKey) (first : Nat) (vals : List Fp) : List Byte × Ev × Chip :=
  let sc := if d.scaleMode = 2 then (c.vaRead (ctxSpace n) d.scaleVa d.scaleBytes).1.map (·.1) else []
  let out := (d.runs first vals.length).foldl (fun (acc : List Byte × List Byte × Ev × Chip) r =>
    let (i1, i2, i3) := d.rowCoord r.1
    let done := r.1 * d.dim 0 + r.2.1 - first
    let (eb, sb, ev) := narrowRow d (f32 (leAt sc (4 * i1) 4)) ((List.range r.2.2).map (fun j =>
      (vals.getD (done + j) .nan, key.at (r.2.1 + j) i1 i2 i3)))
    let c := acc.2.2.2.vaWrite (ctxSpace n) (d.rowVa r.1 + packedBytes d.format r.2.1) (clean eb)
    let c := if d.scaleMode = 1 then c.vaWrite (ctxSpace n) (d.scaleVa + (first + done) / 32) (clean sb) else c
    (acc.1 ++ eb, acc.2.1 ++ sb, acc.2.2.1.add ev, c)) ([], [], {}, c)
  (out.1 ++ out.2.1, out.2.2.1, out.2.2.2.mirrorRun n d first vals.length)

/-- Values of a run of a tensor read into FP32, with the events of that (R93). -/
def Chip.readRun (c : Chip) (n : Nat) (d : Desc) (first len : Nat) : List Fp × Ev :=
  let x := (((c.readTensor (ctxSpace n) d).1.rows.flatten.drop first).take len).map read32
  (x.map (·.1), Ev.sum (x.map (·.2)))

/-- The rounding key of a destination. -/
def Chip.keyOf (c : Chip) (b : Combine) (desc : Nat) : RndKey :=
  ⟨b.e.rnd, match (c.ctx b.ctx).head with | some h => h.seed | none => 0, b.step, desc⟩

/-- The UPDX parameters (R72). -/
def updParams (w : List Nat) : UpdParams :=
  ⟨f32 (w.getD 1 0), f32 (w.getD 2 0), f32 (w.getD 3 0), f32 (w.getD 4 0), f32 (w.getD 5 0), f32 (w.getD 6 0), f32 (w.getD 7 0)⟩

/-- ROOT (R115, R231, R241, R252): the top-level reduction is narrowed and written to D, or applied as an update; AR sends it down. -/
def Chip.rootOp (c : Chip) (ch pos g : Nat) : Chip :=
  match c.comb ch with
  | none => c
  | some b => match b.chain pos g with
    | none => c
    | some x => match x.result with
      | none => c
      | some r =>
        if x.rooted then c
        else
          let e := b.e
          let a := x.anchors.getD []
          let exact := b.ints && !b.winnowed
          let vals := (List.range b.se).map (fun i =>
            match r.getD i none with
            | none => Fp.nan
            | some v => if exact then tallyVal (a.getD (i / 32) 0) (sext 64 v) else f32 v)
          let nf := if exact then (a.filter (· == 255)).length else 0
          let k := g / b.grp.p
          let scope := ariScope b.ctx
          let c := c.onChain ch pos g (fun x => { x with rooted := true })
          if e.op = Op.rsUpdate then
            let dB := c.posDesc b pos 1
            let dC := c.posDesc b pos 2
            let dD := c.posDesc b pos 3
            let first := k * b.se
            let key := c.keyOf b (e.desc 1)
            let gr := (List.range b.se).map (fun i =>
              let rc := dB.rowCoord ((first + i) / dB.dim 0)
              decodeElem 0 (narrowFloat 0 (vals.getD i .nan) (key.at ((first + i) % dB.dim 0) rc.1 rc.2.1 rc.2.2)).1)
            let (w, evB) := c.readRun b.ctx dB first b.se
            let (m, evC) := c.readRun b.ctx dC first b.se
            let (v, evD) : List Fp × Ev := if e.use 3 then c.readRun b.ctx dD first b.se else ([], {})
            let upd := updAll e.recipe (updParams b.upd) gr w m v
            let (_, ev1, c) := c.writeRun b.ctx dB key first (upd.map (·.1))
            let (_, ev2, c) := c.writeRun b.ctx dC (c.keyOf b (e.desc 2)) first (upd.map (·.2.1))
            let (ev3, c) := if e.use 3 then let y := c.writeRun b.ctx dD (c.keyOf b (e.desc 3)) first (upd.map (·.2.2)); (y.2.1, y.2.2) else ({}, c)
            c.ariEvents scope ((Ev.sum [evB, evC, evD, ev1, ev2, ev3]).add { tallyNf := nf })
          else
            let out := vals.map (fun v => if e.p16 = 0 then v else riddle1 e.p16 v.to32)
            let dD := c.posDesc b pos 3
            let first := if e.op = Op.ar then g * b.se else k * b.se
            let (bytes, ev, c) := c.writeRun b.ctx dD (c.keyOf b (e.desc 3)) first out
            let c := c.ariEvents scope (ev.add { tallyNf := nf })
            if e.op = Op.ar then c.onChain ch pos g (fun x => { x with down := true, downData := bytes, downFrom := 4 }) else c

/-- Write a sheaf's bits to D unchanged: its element bytes, then its scale bytes, poison included. -/
def Chip.writeBits (c : Chip) (n : Nat) (d : Desc) (first len : Nat) (el sc : List MByte) : Chip :=
  let c := (d.runs first len).foldl (fun c r =>
    let done := r.1 * d.dim 0 + r.2.1 - first
    c.vaWrite (ctxSpace n) (d.rowVa r.1 + packedBytes d.format r.2.1) ((el.drop (packedBytes d.format done)).take (packedBytes d.format r.2.2))) c
  let c := if d.scaleMode = 1 then c.vaWrite (ctxSpace n) (d.scaleVa + first / 32) (sc.take (len / 32)) else c
  c.mirrorRun n d first len

/-- A result of AR is written to D as it came (R246). -/
def Chip.writeResult (c : Chip) (b : Combine) (pos g : Nat) (data : List Byte) : Chip :=
  let d := c.posDesc b pos 3
  let n := packedBytes d.format b.se
  c.writeBits b.ctx d (g * b.se) b.se (clean (data.take n)) (clean (data.drop n))

/-- A broadcast or staged sheaf is written from its slot to D: as it stands where D is in the ring's format, else narrowed with the entry's RND. -/
def Chip.writeMoved (c : Chip) (b : Combine) (pos g k : Nat) : Chip :=
  let d := c.posDesc b pos 3
  let x := c.slotRead b k b.ringLay
  if b.asRing d then x.2.2.writeBits b.ctx d (g * b.se) b.se x.1 x.2.1
  else
    let (_, ev, c) := x.2.2.writeRun b.ctx d (c.keyOf b (b.e.desc 3)) (g * b.se) (b.ringLay.vals b.ringD b.se x.1 x.2.1)
    c.ariEvents (ariScope b.ctx) (ev.add (b.ringLay.events b.ringD b.se x.1 x.2.1))

/-- DOWN (R241, R246, R248): a result, gathered or broadcast sheaf goes to the members below and is written, or stands READY for the array. -/
def Chip.downOp (c : Chip) (ch pos g : Nat) : Chip :=
  match c.comb ch with
  | none => c
  | some b => match b.chain pos g with
    | none => c
    | some x =>
      if !x.down || x.downDone then c
      else
        let c := (b.levelsBelow x.downFrom).foldl (fun c l => (c.children b pos l).foldl (fun c m => c.sendOrWait ch pos m l g true) c) c
        let c := c.onChain ch pos g (fun x => { x with downDone := true })
        if b.isAr then (if x.rooted then c else c.writeResult b pos g x.downData)
        else match b.slotAt pos g 8 with
          | some (k, s) => if b.isAg then c else (c.writeMoved b pos g k).spend ch pos g 8 s.who
          | none => c

/-! ### Placing frames (R240, R243, R257) -/

/-- The oldest frame of a channel's VC in a link's receive buffer that its client has not taken. -/
def Chip.peekRx (c : Chip) (k vc : Nat) : Option LFrame :=
  ((c.link k).rx.find? (fun r => !r.placed && !r.forward && r.frame.vc == vc)).map (·.frame)

/-- The client takes that frame. -/
def Chip.takeRx (c : Chip) (k vc : Nat) : Chip := c.clientTakes k (fun f => f.vc == vc)

/-- Bytes of a sheaf whose frames have a level and a direction. -/
def Combine.expectBytes (b : Combine) (l : Nat) (down : Bool) : Nat :=
  if down && b.isAr then
    let d := b.desc 3
    packedBytes d.format b.se + (if d.scaleMode = 1 then b.se / 32 else 0)
  else (b.sendLay l down).bytes b.se

/-- Bytes of a sheaf's anchor codes: one for 32 elements (R113). -/
def Combine.anchorBytes (b : Combine) : Nat := b.se / 32

/-- Put a frame of what is assembled outside the ring under a tag of its chain; what came whole leaves it and is given to `fin`. -/
def Chip.assemble (c : Chip) (ch : Nat) (b : Combine) (pos who tag need g k : Nat) (data : List Byte) (fin : Chip → List Byte → Chip) : Chip :=
  match b.chain pos g with
  | none => c
  | some x =>
    let other (i : SheafIn) : Bool := !(i.level == tag && i.who == who)
    let i := ((x.ins.filter (fun i => !other i)).head?).getD { level := tag, who := who }
    let fr := Table.insert k data (Table.erase k i.frames)
    if framesOf need ≤ fr.length then
      fin (c.onChain ch pos g (fun x => { x with ins := x.ins.filter other })) (fr.flatMap (·.2))
    else c.onChain ch pos g (fun x => { x with ins := { i with frames := fr } :: x.ins.filter other })

/-- A DATA or RELAY frame goes to its place in a slot; with the last one the sheaf is READY and counted. None while no slot or window place is free. -/
def Chip.placeFrame (c : Chip) (ch : Nat) (b : Combine) (pos who typ l g k : Nat) (down : Bool) (data : List Byte) : Option Chip :=
  let need := b.expectBytes l down
  let drop := c.count F.CMB_DROP_COUNT
  if framesOf need ≤ k then some drop
  else if down && b.isAr then
    some (c.assemble ch b pos who (l + 8) need g k data (fun c bytes =>
      (c.count F.CMB_SHEAVES_IN_COUNT).onChain ch pos g (fun x => { x with down := true, downData := bytes, downFrom := l })))
  else
    let tag := b.tagOf typ l down
    match c.slotFor b pos g tag who with
    | none => none
    | some (j, b) =>
      match Table.find? j b.slots with
      | none => none
      | some s =>
        if s.st = .ready then some drop
        else
          let fr := k :: s.frames.filter (· ≠ k)
          let whole := decide (framesOf need ≤ fr.length)
          let c := (c.setComb ch b).slotWrite b j (b.layTag tag) (4096 * k) (clean (data.take (min 4096 (need - 4096 * k))))
          let c := c.onComb ch (fun b => b.onSlot j (fun s => { s with frames := fr, st := if whole then .ready else .filling }))
          some (if whole then (c.count F.CMB_SHEAVES_IN_COUNT).sheafPlaced ch pos g tag (if down then l else 0) else c)

/-- An ANCHOR_UP or ANCHOR_DOWN frame: whole codes go on up the tree, or are held and go on down (R250). -/
def Chip.placeAnchor (c : Chip) (ch : Nat) (b : Combine) (pos who l g k : Nat) (up : Bool) (data : List Byte) : Chip :=
  c.assemble ch b pos who (if up then 32 + l else 48 + l) b.anchorBytes g k data (fun c bytes =>
    let codes := bytes.map (·.toNat)
    if up then (c.onChain ch pos g (fun x => { x with codes := (l, who, codes) :: x.codes.filter (fun k => ¬ (k.1 = l ∧ k.2.1 = who)) })).anchorsUp ch pos g
    else Chip.anchorsDown 4 c ch pos g l codes)

/-- A frame's level, direction and sender are those of its sheaf's chain (R243). -/
def Chip.expects (c : Chip) (ch : Nat) (b : Combine) (pos src typ l g : Nat) (down : Bool) : Bool :=
  let up := b.e.reduces && !down && b.active l && c.owns b pos l g && (c.children b pos l).contains src
  if typ = 4 then ch == 1 && !down
  else if b.isA2a then l == 0 && !down && b.grp.names src && (if typ = 1 then b.blockOf g == pos else typ == 5 && b.relays pos g)
  else if b.e.op = Op.stageRecv then typ == 1 && l == 0 && !down && src == b.grp.peer
  else if typ = 1 then up || (down && c.downSource b pos g == some (l, src))
  else if typ = 2 then b.ints && up && b.anchorLevel l
  else typ == 3 && b.ints && !down && c.anchorTarget b pos g == some (l, src)

/-- A tenant group's frames reach only the bound instance (R257). -/
def Chip.tgroupOk (c : Chip) (b : Combine) : Bool := c.on F.CMB_TGRP_VALID 0 b.grp.tgroup && c.rd F.CMB_TGRP_INSTANCE 0 b.grp.tgroup + 2 == b.ctx

/-- The position that level-3 traffic of a sheaf is for: the one that owns the sheaf within the stead. -/
def Chip.xsPos (c : Chip) (b : Combine) (g : Nat) : Nat := (c.positions.find? (fun p => c.owns b p 2 g)).getD c.modId

/-- What becomes of a combine frame from position `src` to position `pos`: none while it waits for its chain, a slot or a window place, else the state after
(R240, R243, R257). -/
def Chip.combineFrame (c : Chip) (ch src pos typ flow ctx : Nat) (data : List Byte) : Option Chip :=
  let drop := c.count F.CMB_DROP_COUNT
  let l := field flow 8 2
  let down := bit flow 10
  let g := ctx / 1024
  match c.comb ch with
  | none => some drop
  | some b =>
    if field flow 0 8 ≠ (if ch = 0 then b.e.group else b.grp.tgroup) ∨ field flow 11 5 ≠ 0 ∨ b.total ≤ g ∨ (ch = 1 ∧ !c.tgroupOk b) ∨ !c.member b.grp then some drop
    else if !([1, 2, 3, 4, 5].contains typ) then some drop
    else match b.chain pos g with
      | none => none
      | some _ =>
        if !c.expects ch b pos src typ l g down then some drop
        else if typ = 1 ∨ typ = 5 then c.placeFrame ch b pos src typ l g (ctx % 1024) down data
        else if typ = 4 then some (c.onComb ch (fun b => { b with grants := (src, l, g) :: b.grants }))
        else if b.anchorBytes ≤ 4096 * (ctx % 1024) then some drop
        else some (c.placeAnchor ch b pos src l g (ctx % 1024) (typ == 2) data)

/-- COMBINE_DATA, ANCHOR_UP, ANCHOR_DOWN, GRANT and WINDOW_PLACE_FREE: the oldest frame of the channel on a link is taken if it is of a type
listed and its place is free; else it holds its own link's credit (R208, R240). -/
def Chip.combineTake (c : Chip) (k vc : Nat) (types : List Nat) : Chip :=
  match c.peekRx k vc with
  | none => c
  | some f =>
    if !(vc == 0 || vc == 4) || !(types.contains f.typ || (types.contains 1 && !([1, 2, 3, 4, 5].contains f.typ))) then c
    else match c.combineFrame (if vc = 0 then 0 else 1) f.src f.dest f.typ f.flow f.ctx f.payload with
      | some d => d.takeRx k vc
      | none => c

/-! ### RELAY, SENT, completion (R241, R247, R253, R258) -/

/-- RELAY: a sheaf placed here for a member of another rick goes on its column link, on the tenant channel once that member has granted it. -/
def Chip.relayOp (c : Chip) (ch g src : Nat) : Chip :=
  match c.comb ch with
  | none => c
  | some b => match b.slots.find? (fun e => e.2.g == g && e.2.tag == 16 && e.2.who == src) with
    | none => c
    | some (k, s) =>
      let m := b.blockOf g
      if s.st ≠ .ready ∨ s.spent ∨ (ch = 1 ∧ !b.grants.contains (m, 0, g)) then c
      else
        let x := c.slotRead b k b.ringLay
        let (data, c) := x.2.2.sheafSent b.ringLay b.se x.1 x.2.1
        let gone (b : Combine) (sends : List (Nat × Nat × Bool)) : Combine :=
          (b.onSlot k (fun s => { s with spent := true, sends := sends })).onChain s.pos g (fun x => { x with relayed := src :: x.relayed })
        if c.carriedHere m then
          match c.placeHere ch b src m 1 0 g false data with
          | some c => c.onComb ch (fun b => gone b [])
          | none => c
        else (c.sendSheaf ch b src m 1 0 g false data).onComb ch (fun b => gone b [(m, 0, false)])

/-- A frame belongs to a sheaf that a position sends; relayed blocks keep the position they come from. -/
def ofSheaf (ch pos g : Nat) (any : Bool) (f : LFrame) : Bool :=
  f.vc == (if ch = 0 then 0 else 4) && f.ctx / 1024 == g && (any || f.src == pos)

/-- Every frame a position sent for a sheaf has been acknowledged, by the link and by ORT. What still stands on the lost module's own links has been sent
again to its carrier (R256). -/
def Chip.allAcked (c : Chip) (ch : Nat) (b : Combine) (pos g : Nat) : Bool :=
  (List.range 32).all (fun k =>
    let open_ (f : LFrame) : Bool := ofSheaf ch pos g b.isA2a f && (c.carrierOf f.dest == f.dest || c.peerLink f.src f.dest == k)
    !((c.link k).txq.any (fun e => open_ e.1)) && !((c.link k).replay.any (fun r => open_ r.frame))) &&
  !c.xsOut.any (fun m => m.ctx / 1024 == g)

/-- A chain's work on this module is finished, but for acknowledgements. -/
def Chip.chainWork (c : Chip) (b : Combine) (x : Chain) : Bool :=
  (x.produced || !c.makes b x.pos x.g) && (!b.ints || x.anchored) && x.waiting == [] &&
  (!b.e.reduces || ((c.ownedLevels b x.pos x.g).all x.reducedLv.contains && (x.rooted || !c.isRoot b x.pos x.g))) &&
  (x.downDone || !b.hasDown) && (!b.relays x.pos x.g || decide (b.grp.n1 ≤ x.relayed.length + 1))

/-- The sends of a sheaf are acknowledged. -/
def Combine.acked (b : Combine) (pos g : Nat) : Combine :=
  { b with slots := b.slots.map (fun e => if e.2.pos = pos ∧ e.2.g = g then (e.1, { e.2 with sends := [] }) else e) }

/-- SENT (R241): the frames of a sheaf are acknowledged, and the slots they were sent from are released. -/
def Chip.sentOp (c : Chip) (ch pos g : Nat) : Chip :=
  match c.comb ch with
  | none => c
  | some b => match b.chain pos g with
    | some x =>
      if !c.allAcked ch b pos g then c
      else (c.onComb ch (fun b => b.acked pos g)).onChain ch pos g (fun y => { y with sent := y.sent || c.chainWork b x })
    | none => c

/-- The array consumes what stands READY for it, in the order of its product: gathered sheaves in ascending number (R246, R253), blocks in ascending place, each
once all its sheaves are READY (R247). -/
def Chip.consume (c : Chip) (ch pos : Nat) : Chip :=
  match c.comb ch with
  | none => c
  | some b =>
    let n := b.eatenOf pos
    let per := max 1 b.sheaves
    let keys : List (Nat × Nat × Nat) :=
      if b.isAg then (match b.slotAt pos n 8 with | some e => [(n, 8, e.2.who)] | none => [])
      else if b.isA2a ∧ n < b.total then
        let q := n / per
        (List.range per).map (fun i => (b.rank pos * per + i, 0, maskAt b.grp.ricks (q / b.grp.n1) * 16 + maskAt b.grp.seats (q % b.grp.n1)))
      else []
    let ready (t : Nat × Nat × Nat) : Bool :=
      (match b.slotOf pos t.1 t.2.1 t.2.2 with | some e => e.2.st == .ready && !e.2.spent | none => false) &&
      (!b.isAg || (match b.chain pos t.1 with | some x => x.downDone | none => false))
    if keys = [] ∨ !keys.all ready then c
    else keys.foldl (fun c t => match b.slotOf pos t.1 t.2.1 t.2.2 with
      | some (k, _) =>
        let x := c.slotRead b k b.ringLay
        (x.2.2.onComb ch (fun b => { b with eaten := b.eaten ++ [⟨pos, t.1, t.2.2, x.1, x.2.1⟩] })).spend ch pos t.1 t.2.1 t.2.2
      | none => c) c

/-- Slots whose use is over and whose sends are acknowledged become FREE. -/
def Combine.reap (b : Combine) : Combine :=
  { b with slots := b.slots.filter (fun e => !(e.2.spent && e.2.sends.isEmpty &&
      (match b.chain e.2.pos e.2.g with | some x => x.waiting == [] | none => true))) }

/-- What a grant to a sender keeps a slot for (R257): its sheaf, or, of a block that a module of the column passes on, those of its whole row. -/
def Combine.grantTags (b : Combine) (pos g l m : Nat) (down : Bool) : List (Nat × Nat) :=
  if down && b.isAr then []
  else if b.isA2a ∧ b.blockOf g = pos ∧ rickOf m ≠ rickOf pos then (bitsOf b.grp.seats 16).map (fun s => (0, rickOf m * 16 + s))
  else [(b.tagOf (if b.relays pos g then 5 else 1) l down, m)]

/-- A GRANT to each sender of a chain for which slots are free (R257). -/
def Chip.grantChain (c : Chip) (ch pos g : Nat) : Chip :=
  match c.comb ch with
  | none => c
  | some b => match b.chain pos g with
    | none => c
    | some x => x.ungranted.foldl (fun c t =>
      match c.comb ch with
      | none => c
      | some b =>
        let down := b.hasDown && c.downSource b pos g == some t
        match (b.grantTags pos g t.1 t.2 down).foldl (fun (o : Option Combine) s => o.bind (fun b => (c.slotFor b pos g s.1 s.2).map (·.2))) (some b) with
        | none => c
        | some b =>
          ((c.setComb ch b).onChain ch pos g (fun x => { x with ungranted := x.ungranted.filter (· ≠ t) })).sendFrame (c.peerLink pos t.2)
            ⟨4, 4, t.2, pos, false, b.flow ch t.1 false, g * 1024, []⟩) c

/-- Sends of a chain that waited are made if they may be now. -/
def Chip.retrySends (c : Chip) (ch pos g : Nat) : Chip :=
  match (c.comb ch).bind (fun b => b.chain pos g) with
  | none => c
  | some x => x.waiting.foldl (fun c t => match c.sendTo ch pos t.1 t.2.1 g t.2.2 with
    | some c => c.onChain ch pos g (fun x => { x with waiting := x.waiting.filter (· ≠ t) })
    | none => c) c

/-- What follows from an operation of a combine: the array consumes, slots become FREE, and grants and sends that waited for them go out. -/
def Chip.pumpRing (c : Chip) (ch : Nat) : Chip :=
  match c.comb ch with
  | none => c
  | some b =>
    let c := if b.isAg ∨ b.isA2a then (c.positionsOf b).foldl (fun c p => (List.range (max b.total 1)).foldl (fun c _ => c.consume ch p) c) c else c
    let c := b.chains.foldl (fun c x => c.retrySends ch x.pos x.g) c
    let c := match c.comb ch with | some b => c.setComb ch b.reap | none => c
    if ch = 0 then c else b.chains.foldl (fun c x => c.grantChain ch x.pos x.g) c

/-- A combine's operation runs with the pins of its entry (R149); mirrored writes it makes are part of its transfer (R420). -/
def Chip.inComb (c : Chip) (ch : Nat) (f : Chip → Chip) : Chip :=
  match c.comb ch with
  | none => f c
  | some b =>
    let d := c.pinned b.pins (fun c => (f c).pumpRing ch)
    let new := c.mirrorNew d
    match d.comb ch with | some b => if new = [] then d else d.setComb ch { b with mirror := b.mirror ++ new } | none => d

/-- Every chain of a combine is set up and finished on this module, every slot is FREE, and the array has what it consumes (R239, R253). -/
def Chip.combineDone (c : Chip) (b : Combine) : Bool :=
  !c.member b.grp || (b.slots.isEmpty && !c.mirrorPending b.mirror && (c.positionsOf b).all (fun pos => !b.grp.names pos ||
    ((List.range b.total).all (fun g => match b.chain pos g with | some x => c.chainWork b x && (x.sent || !c.sendsAny b pos g) | none => false) &&
     (!b.isAg || b.eatenOf pos == b.sheaves) && (!b.isA2a || b.eatenOf pos == b.total))))

/-! ### Product parts (R236, R246, R247) -/

/-- The logical coordinates (row, column) of the gathered operand's elements in the order it is cut (R236). -/
def gatherOrder (isA : Bool) (rows cols tile : Nat) : List (Nat × Nat) :=
  if isA then (List.range (ceilDiv cols tile)).flatMap (fun t => (List.range rows).flatMap (fun r =>
    (List.range (min tile (cols - t * tile))).map (fun j => (r, t * tile + j))))
  else (List.range (ceilDiv cols 1024)).flatMap (fun nt => (List.range (ceilDiv rows tile)).flatMap (fun kt =>
    (List.range (min tile (rows - kt * tile))).flatMap (fun r => (List.range (min 1024 (cols - nt * 1024))).map (fun j =>
      (kt * tile + r, nt * 1024 + j)))))

/-- Channel scales of a descriptor, by DIM1 index (R68, R96). -/
def Chip.chanScales (c : Chip) (space : Nat) (d : Desc) : List Fp × Chip :=
  if d.scaleMode ≠ 2 then ([], c)
  else
    let x := c.vaRead space d.scaleVa d.scaleBytes
    ((List.range (d.dim 1)).map (fun i => let s := (x.1.drop (4 * i)).take 4; if s.any (·.2) then Fp.nan else f32 (ofLE (s.map (·.1)))), x.2)

/-- The values of sheaves the array consumed, in the order given. -/
def Combine.eatenVals (b : Combine) (l : List Eaten) : List Fp :=
  l.flatMap (fun x => (List.range b.se).map (b.ringLay.val b.ringD x.elems x.scales))

/-- The gathered operand as a tensor of C's shape, from the sheaves the array consumed, with C's channel scales. -/
def Chip.gathered (c : Chip) (b : Combine) (pos : Nat) : Tens × Chip :=
  let e := b.e
  let d := b.desc 2
  let isA := bit e.subop 2
  let tr := e.trans (if isA then 0 else 1)
  let vals := b.eatenVals (b.eaten.filter (·.pos == pos))
  let rows := if tr then d.dim 0 else d.dim 1
  let cols := if tr then d.dim 1 else d.dim 0
  let order := gatherOrder isA rows cols (1536 * macsPerCycle d.format)
  let per := d.dim 0 * d.dim 1
  let s := c.chanScales b.space { d with scaleVa := d.scaleVa + c.posOfs pos }
  ({ desc := d
     rows := (List.range d.rows).map (fun r =>
       let (i1, i2, i3) := d.rowCoord r
       (List.range (d.dim 0)).map (fun i0 =>
         let k := order.idxOf (if tr then (i0, i1) else (i1, i0))
         vals.getD ((i3 * d.dim 2 + i2) * per + k) .nan))
     chan := s.1 }, s.2)

/-- The dispatched blocks as A′ (R247), in ascending member position, with A's channel scales. -/
def Chip.dispatched (c : Chip) (b : Combine) (pos : Nat) : Tens × Chip :=
  let d := c.posDesc b pos 0
  let got := b.eaten.filter (·.pos == pos)
  let block (q : Nat) : List Fp := b.eatenVals ((got.drop (q * max 1 b.sheaves)).take (max 1 b.sheaves))
  let s := c.chanScales b.space d
  ({ desc := d
     rows := (List.range d.rows).map (fun r =>
       let (i1, i2, i3) := d.rowCoord r
       ((block i2).drop ((i3 * d.dim 1 + i1) * d.dim 0)).take (d.dim 0))
     chan := s.1 }, s.2)

/-- The product of AG_MATMUL or A2A_MATMUL for a position, written to D (R95, R231). -/
def Chip.combineProduct (c : Chip) (b : Combine) (pos : Nat) : Chip :=
  let e := b.e
  let x := if b.isAg then c.gathered b pos else c.dispatched b pos
  let first := b.isA2a || bit e.subop 2
  let y := x.2.readTensor b.space (c.posDesc b pos (if first then 1 else 0)) true
  let a := if first then x.1 else y.1
  let bb := if first then y.1 else x.1
  let dD := c.posDesc b pos 3
  let rows := mapRows (riddle1 e.p16) (product ⟨a, e.trans 0⟩ ⟨bb, e.trans 1⟩ none (f32 e.p32) dD)
  let (ev, c) := y.2.putTensor b.ctx dD (c.keyOf b (e.desc 3)) rows
  c.ariEvents (ariScope b.ctx) (ev.add { nanIn := a.nans + bb.nans })

/-- NaN elements that a reduction reads as operands, each once, as they are when it issues (R123, log entry 217). -/
def Chip.combineNans (c : Chip) (b : Combine) (pos : Nat) : Nat :=
  let ks := if b.e.op = Op.matmulRs then [0, 1] else if b.e.op = Op.rsUpdate then (if b.e.use 3 then [0, 1, 2, 3] else [0, 1, 2]) else if b.isAr then [0] else []
  nansOf (ks.map (fun k => (c.readTensor b.space (c.posDesc b pos k)).1))

/-- The NaN operands of a position are counted. -/
def Chip.countNans (c : Chip) (ch pos : Nat) : Chip :=
  match c.comb ch with
  | some b => if c.member b.grp ∧ b.grp.names pos then c.pinned b.pins (fun c => c.ariEvents (ariScope b.ctx) { nanIn := c.combineNans b pos }) else c
  | none => c

/-- A combine begins on its channel (R229) with every slot FREE (R239); the channel's fields read from it. -/
def Chip.startCombine (c : Chip) (n : Nat) (i : Issued) : Chip :=
  let ch := if isStead n then 0 else 1
  let e := Entry.parse i.words
  let c := c.setComb ch { c.combineOf n i.idx i.step i.words i.upd i.descs e.group with lastProgress := c.beat, pins := i.pins, lone := i.lone }
  let c : Chip := match c.comb ch with | some b => (c.positionsOf b).foldl (fun (c : Chip) p => c.countNans ch p) c | none => c
  if ch = 0 then ((c.wr F.CMB_STATUS_STEAD_BUSY 1).wr F.CMB_STATUS_GROUP e.group).wr F.CMB_STATUS_OPCODE e.op
  else c.wr F.CMB_STATUS_TENANT_BUSY 1

/-- A channel is free: chains are discarded and slots are FREE. -/
def Chip.endCombine (c : Chip) (ch : Nat) : Chip :=
  let c := c.riddleWait ch false
  let c : Chip := { c with cmb := Table.erase ch c.cmb, xsOut := if ch = 0 then [] else c.xsOut
                           qps := if ch = 0 then c.qps.map (fun e => (e.1, { e.2 with xsOff := 0 })) else c.qps }
  if ch = 0 then ((c.wr F.CMB_STATUS_STEAD_BUSY 0).wr F.CMB_STATUS_GROUP 0).wr F.CMB_STATUS_OPCODE 0 else c.wr F.CMB_STATUS_TENANT_BUSY 0

/-- D, and the update tensors of RS_UPDATE, become undefined (R254, R258). -/
def Chip.combineUndef (c : Chip) (b : Combine) : Chip :=
  (if b.e.op = Op.rsUpdate then [1, 2, 3] else [3]).foldl (fun c k => if b.e.use k then c.undefTensor b.space (b.desc k) else c) c

/-! ### Twin loss (R239, R256) -/

/-- A contributor is declared lost: slots that its sheaves were filling are HELD (R239). -/
def Chip.holdSlots (c : Chip) (lost : Nat) : Chip :=
  match c.comb 0 with
  | some b => c.setComb 0 { b with slots := b.slots.map (fun e => if e.2.who = lost ∧ e.2.pos ≠ lost ∧ e.2.st = .filling then (e.1, { e.2 with st := .held }) else e) }
  | none => c

/-- A queued frame from this module's combine to the lost position. -/
def toLost (lost : Nat) (e : LFrame × Option Nat) : Bool := e.1.vc == 0 && e.1.dest == lost && e.2.isNone

/-- At the switch bell HELD slots are the carrier's to fill, from the first frame on, and what the lost module has not acknowledged goes to the carrier
instead (R256): the sheaves that still stand in slots whole, other queued frames as they are; on the carrier these come to its own receive buffer. -/
def Chip.redirect (c : Chip) (lost : Nat) : Chip :=
  match c.comb 0 with
  | none => c
  | some b =>
    let b := { b with slots := b.slots.map (fun e => if e.2.st = .held then (e.1, { e.2 with st := .filling, frames := [] }) else e) }
    let again := b.slots.flatMap (fun e => (e.2.sends.filter (fun t => t.1 = lost)).map (fun t => (e.1, e.2, t)))
    let whole (f : LFrame) : Bool := (f.typ == 1 || f.typ == 5) && !(b.isAr && bit f.flow 10)
    let c := (List.range 32).foldl (fun c k =>
      let moved := ((c.link k).txq.filter (toLost lost)).map (·.1)
      let c := c.onLink k (fun l => { l with txq := l.txq.filter (fun e => !toLost lost e) })
      (moved.filter (fun f => !whole f)).foldl (fun c f =>
        if c.carriedHere lost then c.onLink k (fun l => { l with rx := l.rx ++ [{ frame := f, placed := false, forward := false }] })
        else c.sendFrame (c.peerLink f.src lost) f) c) (c.setComb 0 b)
    again.foldl (fun c (x : Nat × RingSlot × Nat × Nat × Bool) =>
      let c := c.onComb 0 (fun b => b.onSlot x.1 (fun s => { s with sends := s.sends.filter (· ≠ x.2.2) }))
      c.sendOrWait 0 x.2.1.pos lost x.2.2.2.1 x.2.1.g x.2.2.2.2) c

end Sys2Proof.Machine
end

