-- ==== Sys2Proof/Machine/Shift.lean ====
section
/-!
DEFINITION. Machine/Shift.lean: shifts of the thresher unit, share credit, spills and restores of loft slices, shift settings
(R83–R90, R131–R134).
-/
namespace Sys2Proof.Machine

/-! ### Ownership and open time (R83) -/

/-- An OPEN_SHIFT window is open. -/
def Chip.inWindow (c : Chip) : Bool := match c.thr.window with | some e => decide (c.beat < e) | none => false

/-- The thresher unit serves shifts now. -/
def Chip.isOpen (c : Chip) : Bool := !c.steadOwns || c.inWindow

def Chip.onThr (c : Chip) (f : Thr → Thr) : Chip := { c with thr := f c.thr }

/-- Active settings of an instance (R84). -/
def Chip.shiftSet (c : Chip) (i : Nat) : ShiftSet := Table.getD c.thr.active i {}

/-- QUANTUM in beats: units of 10 µs. -/
def ShiftSet.beats (s : ShiftSet) : Nat := s.quantum * 9000

/-- D of R84 in beats: 2,520 cycles at 0.9 GHz. -/
def drainBeats : Nat := 2520

/-- The drain at the clock in force, in beats. -/
def Chip.drainNow (c : Chip) : Nat := ceilDiv (2520 * 900) (thrMhz c.mode)

/-- Share credit up to now (R85), in 1/1,024 beat: it accrues at SHARE in open time and is capped at one QUANTUM. -/
def Chip.accrue (c : Chip) : Chip :=
  let stop := if c.steadOwns then (match c.thr.window with | some e => min c.beat e | none => c.thr.creditAt) else c.beat
  let dt := stop - c.thr.creditAt
  let credit := (c.thr.active.filter (fun e => e.2.share ≠ 0)).foldl (fun t e =>
    let v : Int := min (Table.getD t e.1 0 + e.2.share * dt) (e.2.beats * 1024)
    Table.setD t e.1 0 v) c.thr.credit
  c.onThr (fun t => { t with credit := credit, creditAt := c.beat })

/-! ### Slices (R88, R131, R133, R134) -/

/-- `dst` with [d, d + n) holding what `src` holds in [s, s + n), bit for bit, poison included. -/
def Mem.copyFrom (dst : Mem) (d : Nat) (src : Mem) (s n : Nat) : Mem :=
  let m := dst.zero d n
  let open_ := (src.undef.flatMap (fun r => (List.range (min r.hi (s + n) - max r.lo s)).map (· + max r.lo s))).filter
    (fun a => (Table.find? a src.cells).isNone)
  let m := (src.cells.filter (fun e => decide (s ≤ e.1 ∧ e.1 < s + n))).foldl (fun (m : Mem) e => m.put (d + (e.1 - s)) e.2) m
  let m := open_.foldl (fun (m : Mem) a => m.put (d + (a - s)) (src.get a)) m
  (src.poison.filter (fun w => decide (s ≤ w ∧ w < s + n))).foldl (fun (m : Mem) w => m.setPoison (d + (w - s)) 1) m

/-- A slice of an instance is spilled to its spill region (R133). -/
def Chip.spillSlice (c : Chip) (i j : Nat) : Chip :=
  match (c.slices i)[j]? with
  | some (.resident p) =>
    let a := c.spillAddr i j
    let c := c.touch .crib a sliceBytes
    let c : Chip := if c.stackUp (a / 2 ^ 36) then { c with crib := c.crib.copyFrom a c.loft (p * sliceBytes) sliceBytes } else c
    { c.count F.LFT_SPILLS_COUNT with allot := Table.insert i ((c.slices i).set j .spilled) (Table.erase i c.allot) }
  | _ => c

/-- A slice is restored, or placed all zero, in the lowest free physical slice (R131, R133); nothing happens while none is free. -/
def Chip.restoreSlice (c : Chip) (i j : Nat) : Chip :=
  match c.freeSlices with
  | [] => c
  | p :: _ =>
    let put (c : Chip) : Chip :=
      let c := c.takeSlice p
      { c with allot := Table.insert i ((c.slices i).set j (.resident p)) (Table.erase i c.allot) }
    match (c.slices i)[j]? with
    | some .spilled =>
      let a := c.spillAddr i j
      let c := c.touch .crib a sliceBytes
      put (if c.stackUp (a / 2 ^ 36) then { c with loft := c.loft.copyFrom (p * sliceBytes) c.crib a sliceBytes }
        else { c with loft := (c.loft.zero (p * sliceBytes) sliceBytes).setPoison (p * sliceBytes) sliceBytes })
    | some .blank => put { c with loft := c.loft.zero (p * sliceBytes) sliceBytes }
    | _ => c

/-- Resident slices of instances other than `keep`, least recently run first (R88). -/
def Chip.victims (c : Chip) (keep : List Nat) : List (Nat × Nat) :=
  let insts := (c.allot.map (·.1)).filter (fun i => decide (i < 512) && !keep.contains i)
  let order := insts.mergeSort (fun a b => decide (Table.getD c.thr.lastEnd a 0 < Table.getD c.thr.lastEnd b 0 ∨
    (Table.getD c.thr.lastEnd a 0 = Table.getD c.thr.lastEnd b 0 ∧ a ≤ b)))
  order.flatMap (fun i => (List.range (c.slices i).length).filterMap (fun j =>
    match (c.slices i)[j]? with | some (SliceLoc.resident _) => some (i, j) | _ => none))

/-- The instance that holds or switches into a shift. -/
def Chip.shiftInst (c : Chip) : Option Nat := c.thr.shift.map (·.inst)

/-- Slices the stead allotment still needs beyond the free ones, between RUN of a stead almanac and its start bell (R134). -/
def Chip.steadNeed (c : Chip) : Nat :=
  if [0, 1].any (fun n => (c.ctx n).startBell.isSome) && !c.steadOwns then c.allotSize steadSpace - c.freeSlices.length else 0

/-- Slices of a running shift's instance that the stead allotment needs: what spilling every other instance leaves short. -/
def Chip.givesUp (c : Chip) (i : Nat) : Nat :=
  let others := (c.victims [i]).length
  min (c.steadNeed - others) (((c.slices i).filter (fun l => match l with | .resident _ => true | _ => false)).length)

/-- The start bell that RUN of a stead or fallow almanac named, in beats. -/
def Chip.startBeat (c : Chip) : Option Nat :=
  ([0, 1].filterMap (fun n => (c.ctx n).startBell)).foldl (fun (m : Option Nat) b => some (match m with | some x => min x (b * bellBeats) | none => b * bellBeats)) none

/-- The spill deadline of an instance (R134): the start bell less 2.2 µs for each slice it gives up. -/
def Chip.spillDeadline (c : Chip) (i : Nat) : Option Nat := c.startBeat.map (fun b => b - 1980 * c.givesUp i)

/-- Spills due for the stead allotment, keeping the slices of a shift in progress (R134). -/
def Chip.planSpills (c : Chip) : Chip :=
  let keep := match c.shiftInst with | some i => [i] | none => []
  c.onThr (fun t => { t with spills := (c.victims keep).take c.steadNeed })

/-- SLICE_SPILL_COMPLETE: the oldest spill under way ends. -/
def Chip.spillComplete (c : Chip) : Chip :=
  match c.thr.spills with
  | [] => c
  | (i, j) :: rest => (c.onThr (fun t => { t with spills := rest })).spillSlice i j

/-! ### Shifts (R85, R86) -/

/-- The end of the open window as R86 counts it for an instance: none where it has no end. -/
def Chip.windowEnd (c : Chip) (i : Nat) : Option Nat :=
  if c.inWindow then c.thr.window
  else if c.steadOwns then some c.beat
  else c.spillDeadline i

/-- The shift in progress ends (R85, R86): its time and switch are charged, its almanac's cache entries are free (R60), and slices the stead allotment
needs are spilled next. -/
def Chip.endShift (c : Chip) : Chip :=
  match c.thr.shift with
  | none => c
  | some s =>
    let c := c.accrue
    let held : Int := (c.beat - s.start : Nat)
    let c := c.onThr (fun t => { t with
      shift := none
      credit := Table.setD t.credit s.inst 0 (Table.getD t.credit s.inst 0 - held * 1024)
      lastEnd := Table.insert s.inst c.beat (Table.erase s.inst t.lastEnd)
      lastInst := some s.inst })
    let c := c.onCtx (s.inst + 2) (fun x => { x with cached := [] })
    if c.steadNeed = 0 then c else c.planSpills

/-- The shift of an instance ends at once, if it holds one. -/
def Chip.endShiftOf (c : Chip) (i : Nat) : Chip := if c.shiftInst = some i then c.endShift else c

/-- A shift whose switch has ended gets its length (R86): QUANTUM or the open window remaining less D, whichever is smaller; it does not start
where less than 50 µs + D remains. -/
def Chip.fixShift (c : Chip) : Chip :=
  match c.thr.shift with
  | none => c
  | some s =>
    let go := max s.go c.beat
    let q := (c.shiftSet s.inst).beats
    match c.windowEnd s.inst with
    | none => c.onThr (fun t => { t with shift := some { s with go := go, stop := go + q } })
    | some e =>
      if e < go + 45000 + drainBeats then c.endShift
      else c.onThr (fun t => { t with shift := some { s with go := go, stop := go + min q (e - go - drainBeats) } })

/-- An entry of a local almanac is ready: RUNNING, not asked to stop, not at END, and its CHAIN condition holds. -/
def Chip.entryReady (c : Chip) (i : Nat) : Bool :=
  let n := i + 2
  let x := c.ctx n
  let e := c.entry n x.next
  x.st == .running && x.stopReq.isNone && e.op != Op.end_ && (!e.chain || !x.inFlight.any (fun f => f.idx == x.lastIssued))

/-- Slices that the stead allotment holds (R88, R165). -/
def Chip.steadSlices (c : Chip) : Nat := if c.steadOwns then (c.slices steadSpace).length else 0

/-- Instances that may have the next shift: in service, an entry ready, and a quota that fits beside the stead allotment (R85, R88). -/
def Chip.shiftReady (c : Chip) : List Nat :=
  (List.range 512).filter (fun i => c.rd F.INS_STATUS_STATE i == 1 && c.entryReady i &&
    decide (c.rd F.LFT_QUOTA_QUOTA 0 i + c.steadSlices ≤ 384))

/-- The later of two moments: the end of an instance's last shift, and the moment its almanac entered RUNNING. -/
def Chip.waitsFrom (c : Chip) (i : Nat) : Nat := max (Table.getD c.thr.lastEnd i 0) (c.ctx (i + 2)).ready

/-- Instance `a` goes before `b` among those of R85. -/
def Chip.before (c : Chip) (a b : Nat) : Bool :=
  let pa := (c.shiftSet a).priority
  let pb := (c.shiftSet b).priority
  decide (pb < pa) || (pa == pb && (decide (c.waitsFrom a < c.waitsFrom b) || (c.waitsFrom a == c.waitsFrom b && decide (a < b))))

/-- The next instance (R85). -/
def Chip.chooseInst (c : Chip) : Option Nat :=
  let ready := c.shiftReady
  let pos := ready.filter (fun i => decide (0 < Table.getD c.thr.credit i 0))
  (if pos = [] then ready else pos).foldl (fun (m : Option Nat) i => match m with
    | none => some i
    | some a => if c.before i a then some i else some a) none

/-- The switch into an instance's shift begins: slices beyond the free ones are spilled, its own are restored (R86, R88). -/
def Chip.switchTo (c : Chip) (i : Nat) (miss : List Nat) (drain : Nat) : Chip :=
  let spills := (c.victims [i]).take (miss.length - c.freeSlices.length)
  let c := if c.thr.lastInst = some i then c else c.wr F.THR_SWITCH_COUNT (c.rd F.THR_SWITCH_COUNT + 1)
  let c := c.onThr (fun t => { t with
    shift := some { inst := i, start := c.beat, go := c.beat + drain, stop := 0, restore := miss }, spills := t.spills ++ spills })
  let c := c.onCtx (i + 2) (fun x => { x with started := true })
  if miss = [] then c.fixShift else c

/-- A shift is given to an instance where 50 µs + D of the window remains (R86). -/
def Chip.beginShift (c : Chip) (i : Nat) : Chip :=
  let miss := (List.range (c.slices i).length).filter (fun j => match (c.slices i)[j]? with | some (SliceLoc.resident _) => false | _ => true)
  let drain := if c.thr.lastInst = some i then 0 else c.drainNow
  match c.windowEnd i with
  | some e => if e < c.beat + drain + 45000 + drainBeats then c else c.switchTo i miss drain
  | none => c.switchTo i miss drain

/-- SLICE_RESTORE_COMPLETE (R133): the next slice of the incoming shift is in place; after the last one its length is fixed. -/
def Chip.restoreComplete (c : Chip) : Chip :=
  match c.thr.shift with
  | some s => match s.restore with
    | j :: rest =>
      if c.freeSlices = [] then c
      else
        let c := (c.restoreSlice s.inst j).onThr (fun t => { t with shift := some { s with restore := rest } })
        if rest = [] then c.fixShift else c
    | [] => c
  | none => c

/-- SHIFT_BOUNDARY (R83, R85–R87): the shift in progress ends at its length, admitted settings become active, and the next instance is chosen
while the unit is open and no HOLD holds. -/
def Chip.shiftBoundary (c : Chip) : Chip :=
  let switching := match c.thr.shift with | some s => s.restore != [] | none => false
  if switching then c
  else
    let c := match c.thr.shift with | some s => (c.advanceTo s.stop).endShift | none => c
    let c := c.accrue
    let c := match c.thr.admitted with
      | some a => c.onThr (fun t => { t with active := a, admitted := none })
      | none => c
    let c := if c.inWindow then c else c.onThr (fun t => { t with window := none })
    if c.mst == .safe || c.hold.held || !c.isOpen then c
    else match c.chooseInst with
      | some i => c.beginShift i
      | none => c

/-- SPILL_DEADLINE (R86, R134): a shift that would run past its instance's spill deadline ends there. -/
def Chip.spillDeadlineReached (c : Chip) : Chip :=
  match c.thr.shift with
  | some s => match c.spillDeadline s.inst with
    | some d => if s.restore = [] ∧ s.stop ≤ d then c else (c.advanceTo d).endShift
    | none => c
  | none => c

/-- The stead allotment follows the HEAD in context 0 (R131) while no stead or fallow almanac holds it: a new size has no defined content. -/
def Chip.sizeStead (c : Chip) : Chip :=
  if c.steadOwns ∨ (c.slices steadSpace).length = c.allotSize steadSpace then c
  else { c with freeCtr := c.freeCtr + 1
                allot := Table.setD c.allot steadSpace [] (List.replicate (c.allotSize steadSpace) (.unheld c.freeCtr)) }

/-- RUN of context 0 leaves the contents of the stead allotment undefined (R132). -/
def Chip.openStead (c : Chip) : Chip :=
  if c.steadOwns then
    { c with freeCtr := c.freeCtr + 1
             loft := (c.slices steadSpace).foldl (fun (m : Mem) l => match l with
               | .resident p => m.undefine c.freeCtr (p * sliceBytes) sliceBytes
               | _ => m) c.loft }
  else { c with freeCtr := c.freeCtr + 1
                allot := Table.setD c.allot steadSpace [] (List.replicate (c.allotSize steadSpace) (.unheld c.freeCtr)) }

/-- The stead allotment takes the slices it lacks (R88, R134): every spill it needs is done; what it has not held since RUN has no defined content. -/
def Chip.placeStead (c : Chip) : Chip :=
  if c.steadOwns then c
  else
    let keep := match c.shiftInst with | some i => [i] | none => []
    let c := ((c.victims keep).take c.steadNeed).foldl (fun c v => c.spillSlice v.1 v.2) c
    let c := c.onThr (fun t => { t with spills := [] })
    let sl := c.slices steadSpace
    let r := sl.foldl (fun (r : List SliceLoc × List Nat × Mem) l => match l, r.2.1 with
      | .unheld tag, p :: ps => (r.1 ++ [.resident p], ps, r.2.2.undefine tag (p * sliceBytes) sliceBytes)
      | l, ps => (r.1 ++ [l], ps, r.2.2)) ([], c.freeSlices.filter (fun p => !sl.contains (.resident p)), c.loft)
    { c with loft := r.2.2, allot := Table.setD c.allot steadSpace [] r.1 }

/-! ### Settings (R84, R87, R90) -/

/-- The pending settings, instance by instance, where they differ from reset. -/
def Chip.pendingSet (c : Chip) : Table ShiftSet :=
  (List.range 512).filterMap (fun i =>
    let s : ShiftSet := ⟨c.rd F.THR_SHIFT_CFG_SHARE 0 i, c.rd F.THR_SHIFT_CFG_PRIORITY 0 i, c.rd F.THR_SHIFT_CFG_QUANTUM 0 i, c.rd F.THR_SHIFT_STAGE_STAGE 0 i⟩
    if s = {} then none else some (i, s))

/-- The pending settings of an instance are written from `s`. -/
def Chip.wrPending (c : Chip) (i : Nat) (s : ShiftSet) : Chip :=
  (((c.wr F.THR_SHIFT_CFG_SHARE s.share 0 i).wr F.THR_SHIFT_CFG_PRIORITY s.priority 0 i).wr F.THR_SHIFT_CFG_QUANTUM s.quantum 0 i).wr F.THR_SHIFT_STAGE_STAGE s.stage 0 i

/-- THR_APPLY (R90): the whole pending set goes to admission; APPLY reads 1 meanwhile. -/
def Chip.thrApply (c : Chip) : Chip :=
  if c.thr.applying.isSome then c
  else (c.wr F.THR_SHIFT_CMD_APPLY 1).onThr (fun t => { t with applying := some c.pendingSet })

/-- The share a setting takes under R84, as a fraction: SHARE / 1,024 × (QUANTUM + D + STAGE) / QUANTUM in units of 100 ns. -/
def ShiftSet.load (s : ShiftSet) : Nat × Nat := (s.share * (100 * s.quantum + 28 + s.stage), 1024 * 100 * max 1 s.quantum)

/-- The lowest-numbered instance at which the running sum first exceeds 1 (R84). -/
def firstOver : Nat × Nat → Table ShiftSet → Option Nat
  | _, [] => none
  | acc, (i, s) :: t =>
    let acc := if s.share = 0 then acc else fracAdd acc s.load
    if acc.2 < acc.1 then some i else firstOver acc t

/-- THR_APPLY_RESULT (R84, R87, R90): admitted settings wait for the next shift boundary; a refused set is discarded and the pending copy is
reloaded from the active set. -/
def Chip.thrApplyResult (c : Chip) : Chip :=
  match c.thr.applying with
  | none => c
  | some set =>
    let c := (c.wr F.THR_SHIFT_CMD_APPLY 0).onThr (fun t => { t with applying := none })
    match firstOver (0, 1) set with
    | none => (c.wr F.THR_SHIFT_CMD_RESULT 0).onThr (fun t => { t with admitted := some set })
    | some i =>
      let c := (c.wr F.THR_SHIFT_CMD_RESULT 1).wr F.THR_SHIFT_CMD_FIRST i
      (List.range 512).foldl (fun c i => c.wrPending i (c.shiftSet i)) c

/-- An instance reset restores active and pending settings to the reset values (R90). -/
def Chip.resetShifts (c : Chip) (i : Nat) : Chip :=
  (c.wrPending i {}).onThr (fun t => { t with
    active := Table.erase i t.active, admitted := t.admitted.map (Table.erase i), applying := t.applying.map (Table.erase i)
    credit := Table.erase i t.credit })

/-- THR_STATUS.OWNER (R90): 0 idle, 1 stead or fallow almanac, 2 instance, 3 switching. -/
def Chip.thrOwner (c : Chip) : Nat :=
  match c.thr.shift with
  | some s => if s.restore ≠ [] ∨ c.beat < s.go then 3 else 2
  | none => if c.steadOwns && !c.inWindow then 1 else 0

end Sys2Proof.Machine
end

