-- ==== Sys2Proof/Machine/Almanac.lean ====
section
/-!
DEFINITION. Machine/Almanac.lean: almanac contexts and their commands, admission and re-admission, issue and completion of entries, chaff clearing
(R59–R67, R72–R78, R82, R107, R121, R125, R149, R187, R253, R254, R258, R361).
-/
namespace Sys2Proof.Machine

/-! ### Commands (R75, R78, R89) -/

def Chip.almErr (c : Chip) (n e : Nat) : Chip := c.wr F.ALM_STATE_CMD_ERR e 0 n
def Chip.almReason (c : Chip) (n r : Nat) : Chip := c.wr F.ALM_STATE_REASON r 0 n

/-- Instance `i` is being reset. -/
def Chip.insResetting (c : Chip) (i : Nat) : Bool := c.rd F.INS_STATUS_STATE i == 2

/-- CMD_ERR of a command given in a context (R75): the first cause of rejection, 0 where it is accepted. -/
def Chip.almGate (c : Chip) (n : Nat) (ok : AlmState → Bool) (busy : Bool) : Nat :=
  if 2 ≤ n ∧ c.insResetting (n - 2) then 4
  else if (c.ctx n).adm.isSome || busy then 2
  else if !ok (c.ctx n).st then 1 else 0

/-- Give a command to a context: CMD_ERR is written, and the effect follows where it is 0. -/
def Chip.almCommand (c : Chip) (n : Nat) (ok : AlmState → Bool) (busy : Bool) (f : Chip → Chip) : Chip :=
  let e := c.almGate n ok busy
  if e = 0 then f (c.almErr n 0) else c.almErr n e

/-- CHAFF_CLEAR is under way (R125). -/
def Chip.chaffBusy (c : Chip) : Bool := c.on F.ARI_CHAFF_STATUS_BUSY

/-! ### Chaff (R120, R121, R125) -/

/-- The chaff descriptors that WINNOWED combines of context 0's almanac name, with the entries that name them. -/
def Chip.chaffNamed (c : Chip) : List (Nat × Entry) :=
  match (c.ctx 0).head with
  | none => []
  | some h => (List.range h.entryCount).filterMap (fun i =>
      let e := c.entry 0 i
      if i ≠ 0 ∧ e.reduces ∧ e.mode = 2 ∧ c.tableOk steadSpace (c.groupVa 0 e.group) 64 then some ((c.groupAt 0 e.group).chaff, e) else none)

/-- A chaff descriptor meets R120, and its extent translates to granary pages with the W right. -/
def Chip.chaffClearable (c : Chip) (k : Nat) (e : Entry) : Bool :=
  let g := c.groupAt 0 e.group
  let d := c.descAt 0 k
  let se := 1024 * (c.descAt 0 g.ring).dim 1
  let shard := e.sheafElems (c.opnds 0 e) / max 1 se / max 1 (g.n1 * g.n2) * se
  decide (k < c.rd F.ALM_DESC_COUNT_COUNT 0 0) && c.tableOk steadSpace (c.descVa 0 k) 64 && !d.rsv && d.format == 0 && d.scaleMode == 0 &&
  d.tier == 2 && d.shapeOk && d.alignOk && d.dim 0 == 1024 && d.count == shard &&
  d.ranges.all (fun r => (runs r.1 r.2.1).all (fun x => match c.look steadSpace x.1 .write with | .ok .grn _ _ => true | _ => false))

/-- +0 is written to every element of a tensor of the stead space. -/
def Chip.zeroTensor (c : Chip) (d : Desc) : Chip :=
  d.ranges.foldl (fun c r => c.vaWrite steadSpace r.1 (clean (List.replicate r.2.1 0))) c

/-- LOAD of context 0 clears the chaff its almanac names (R121). -/
def Chip.loadChaff (c : Chip) : Chip :=
  c.chaffNamed.foldl (fun c x => if c.chaffClearable x.1 x.2 then c.zeroTensor (c.descAt 0 x.1) else c) c

/-- CHAFF_CLEAR (R125): accepted from the manager alone, refused with the first reason that applies, or BUSY until the last write completes. A chosen
descriptor that fails R120 or does not translate is left as it is (log entry 215). -/
def Chip.chaffClearStart (c : Chip) (src : Nat) : Chip :=
  if src ≠ 0x3FF ∨ c.chaffBusy then c
  else
    let all := c.on F.ARI_CHAFF_DESC_ALL
    let named := c.chaffNamed
    let chosen := if all then named else named.filter (fun x => x.1 == c.rd F.ARI_CHAFF_DESC_DESC)
    let act := [0, 1].any (fun n => let s := (c.ctx n).st; s == .running || s == .held)
    let r := if (c.ctx 0).st = .empty then 3 else if act then 1 else if !all && chosen.isEmpty then 2 else 0
    if r ≠ 0 then c.wr F.ARI_CHAFF_STATUS_RESULT r
    else
      let c : Chip := { c with chaffClear := (chosen.filter (fun x => c.chaffClearable x.1 x.2)).flatMap (fun x =>
        (c.descAt 0 x.1).ranges.map (fun r => (r.1, r.2.1))) }
      ((c.wr F.ARI_CHAFF_STATUS_BUSY 1).wr F.ARI_CHAFF_CMD_CLEAR 1).wr F.ARI_CHAFF_STATUS_RESULT 0

/-- CHAFF_CLEAR_DONE: the last write completes and BUSY clears. -/
def Chip.chaffClearDone (c : Chip) : Chip :=
  if !c.chaffBusy then c
  else
    let c := c.chaffClear.foldl (fun c r => c.vaWrite steadSpace r.1 (clean (List.replicate r.2 0))) c
    let c : Chip := { c with chaffClear := [] }
    (c.wr F.ARI_CHAFF_STATUS_BUSY 0).wr F.ARI_CHAFF_CMD_CLEAR 0

/-! ### LOAD and UNLOAD (R75) -/

/-- A HEAD as LOAD reads it: its fields, or the reason that refuses it. -/
def Chip.readHead (c : Chip) (n : Nat) : Head ⊕ Nat :=
  if c.rd F.ALM_BASE_VA 0 n % 32 ≠ 0 then .inr Why.structure_
  else if !c.tableOk (ctxSpace n) (c.entryVa n 0) 32 then .inr Why.mapping
  else
    let w := c.entryWords n 0
    let h := Head.parse w
    if field (w.getD 0 0) 0 8 ≠ Op.head ∨ h.kind ≠ ctxKind n ∨ headRsv w ∨ h.entryCount < 2 ∨ 2 ^ 24 < h.entryCount then .inr Why.structure_
    else .inl h

/-- LOAD of a context. -/
def Chip.almLoad (c : Chip) (n : Nat) : Chip :=
  c.almCommand n (fun s => s.idle) (decide (n < 2) && c.chaffBusy) (fun c =>
    match c.readHead n with
    | .inr r => (((c.setCtx n { st := .refused }).almReason n r).wr F.ALM_FAIL_IDX_INDEX 0 0 n).sizeStead
    | .inl h =>
      let c := ((c.setCtx n { st := .loaded, head := some h }).almReason n 0).sizeStead
      if n = 0 then c.loadChaff else c)

/-- UNLOAD of a context. -/
def Chip.almUnload (c : Chip) (n : Nat) : Chip :=
  c.almCommand n (fun s => s == .loaded || s == .refused || s == .done) false (fun c => ((c.setCtx n {}).almReason n 0).sizeStead)

/-! ### Admission (R76, R78, R79) -/

/-- Admission of a kind begins in a context: BUSY, with the hardware state as it stands now. -/
def Chip.beginAdmission (c : Chip) (n : Nat) (k : AdmKind) : Chip :=
  let why := c.admission n (k == .running || k == .rerun)
  let h := if c.tableOk (ctxSpace n) (c.entryVa n 0) 32 then some (Head.parse (c.entryWords n 0)) else none
  c.onCtx n (fun x => { x with adm := some k, admWhy := why, admHead := h })

/-- ADMIT of a context; of a HELD stead or fallow almanac it runs the running test again (R76). -/
def Chip.almAdmit (c : Chip) (n : Nat) : Chip :=
  c.almCommand n (fun s => s == .loaded || s == .refused || s == .done || (s == .held && isStead n)) false (fun c =>
    c.beginAdmission n (if (c.ctx n).st = .held then .rerun else .first))

/-- An almanac's HEAD includes a mode. -/
def Ctx.includes (x : Ctx) (m : Nat) : Bool := match x.head with | some h => bit h.modes m | none => true

/-- Re-admission of a context (R76): an ADMITTED almanac takes the full test, a RUNNING or HELD stead or fallow almanac the running test; while an
admission runs it follows that one (R78). A stead almanac that runs in a mode it excludes waits in HELD for its mode and takes the test then (R22). -/
def Chip.readmitCtx (c : Chip) (n : Nat) : Chip :=
  let x := c.ctx n
  if x.adm.isSome then c.onCtx n (fun x => { x with admAgain := true })
  else if x.st = .admitted then c.beginAdmission n .again
  else if isStead n ∧ (x.st = .running ∨ x.st = .held) then (if n = 0 ∧ !x.includes c.modeNo then c else c.beginAdmission n .running)
  else c

/-- Re-admission of every context that R76 names. -/
def Chip.readmitAll (c : Chip) : Chip := (c.ctxs.map (·.1)).foldl Chip.readmitCtx c

/-- The reason and index of a refusal. -/
def Chip.refuseAt (c : Chip) (n : Nat) (w : Nat × Nat) : Chip := (c.almReason n w.2).wr F.ALM_FAIL_IDX_INDEX w.1 0 n

/-- The outcome of an admission (R75, R76, R79, R190). -/
def Chip.admissionOutcome (c : Chip) (n : Nat) (k : AdmKind) (why : Option (Nat × Nat)) (h : Option Head) : Chip :=
  let pass (c : Chip) : Chip := c.passCauses (fun o => match o with | .reeval m => m == n || k == .first | _ => false)
  match k, why with
  | .first, none =>
    let c := (c.onCtx n (fun x => { x with st := .admitted, head := h })).almReason n 0
    let c := c.onCtx n (fun x => { x with xts := match h with | some h => c.xtsSlots n h | none => [] })
    if isStead n ∧ ¬ [0, 1].any (fun m => (c.ctx m).st == .held) then pass c else c
  | .first, some w => (c.onCtx n (fun x => { x with st := .refused })).refuseAt n w
  | .again, none => c
  | .again, some w => (c.onCtx n (fun x => if x.st = .admitted then { x with st := .loaded, startBell := none, xts := [] } else x)).refuseAt n w
  | .rerun, none => pass ((c.onCtx n (fun x => { x with failHold := false })).almReason n 0)
  | .running, none => c
  | _, some w =>
    let s := (c.ctx n).st
    if (s = .running ∨ s = .held) ∧ !(c.ownCauses.contains (.reeval n)) then
      ((c.onCtx n (fun x => { x with failHold := true })).refuseAt n w).originate 1 (.reeval n)
    else c.refuseAt n w

/-- The most triggered operations that a combine of a stead or fallow almanac needs (R242). -/
def Chip.mostOps (c : Chip) (n : Nat) (h : Option Head) : Nat :=
  match h with
  | some h => if isStead n then (List.range h.entryCount).foldl (fun m i => let e := c.entry n i; if i ≠ 0 ∧ e.isCombine then max m (c.opsOf n e) else m) 0 else 0
  | none => 0

/-- ADMISSION_COMPLETE: the admission of a context posts what it found; one that a change meanwhile asked for follows. -/
def Chip.admissionComplete (c : Chip) (n : Nat) : Chip :=
  let x := c.ctx n
  match x.adm with
  | none => c
  | some k =>
    let c := c.onCtx n (fun x => { x with adm := none, admWhy := none, admHead := none, admAgain := false })
    let c := c.admissionOutcome n k x.admWhy x.admHead
    let c := if x.admWhy = none then c.onCtx n (fun x => { x with ops := c.mostOps n x.head }) else c
    if x.admAgain then c.readmitCtx n else c

/-- REEVAL_HOLD (R75): an almanac whose running test failed goes to HELD at the hold bell in force, with every other that runs. -/
def Chip.reevalHold (c : Chip) (n : Nat) : Chip :=
  let x := c.ctx n
  if x.st = .running ∧ x.failHold then
    (if c.ownCauses.contains (.reeval n) then c else c.originate 1 (.reeval n)).holdBellReached
  else c

/-! ### RUN, STOP, DONE (R75, R77, R132, R134, R254) -/

/-- RUN of a context: a stead or fallow almanac waits for its start bell and the loft spill begins; a local one is RUNNING and waits for a shift. -/
def Chip.almRun (c : Chip) (n : Nat) : Chip :=
  c.almCommand n (· == .admitted) (decide (n < 2) && c.chaffBusy) (fun c =>
    if isStead n then
      let b := c.rd F.ALM_START_BELL 0 n
      if b < c.bell + 2 then c.almErr n 3
      else
        let c := if n = 0 then c.openStead else c
        let c := ((c.onCtx n (fun x => { x with startBell := some b })).wr F.ALM_STEP_STEP 0 0 n).wr F.ALM_HELD_BELLS 0 0 n
        let c := c.planSpills
        match c.thr.shift with
        | some s => match c.spillDeadline s.inst with
          | some d => if d ≤ c.beat ∧ d < s.stop then c.endShift else c
          | none => c
        | none => c
    else
      ((c.onCtx n (fun x => { x with
          st := .running, next := 1, frames := [], ready := c.beat, started := false, inFlight := [], cached := [], stopReq := none, lastIssued := 0 })).wr
        F.ALM_STEP_STEP 0 0 n).wr F.ALM_HELD_BELLS 0 0 n)

/-- STOP of a context: it ends at the next bell boundary, or when its entry in progress completes. -/
def Chip.almStop (c : Chip) (n : Nat) : Chip :=
  c.almCommand n (fun s => s == .running || s == .held) false (fun c => c.onCtx n (fun x => { x with stopReq := some (c.bell + 1) }))

/-- Operands that an entry writes. -/
def Entry.outputs (e : Entry) : List Nat :=
  if e.op = Op.update ∨ e.op = Op.rsUpdate then [1, 2, 3] else if e.op = Op.stageSend ∨ e.op = Op.fence then [] else [3]

def Issued.e (i : Issued) : Entry := Entry.parse i.words
def Issued.desc (i : Issued) (k : Nat) : Desc := Desc.parse (bytesOf (i.descs.getD k []))
def Issued.opnds (i : Issued) : Opnds := ⟨i.desc 0, i.desc 1, i.desc 2, i.desc 3⟩

/-- The channel of a context (R229). -/
def chanOf (n : Nat) : Nat := if isStead n then 0 else 1

/-- A combine in flight whose channel has been busy begins once the channel is free (R229). -/
def Chip.pumpChannel (c : Chip) (ch : Nat) : Chip :=
  match c.comb ch with
  | some _ => c
  | none =>
    let l := c.ctxs.flatMap (fun (x : Nat × Ctx) => if chanOf x.1 = ch then
      (x.2.inFlight.filter (fun (i : Issued) => i.e.isCombine && !i.stall && i.sent.isNone)).map (fun i => (x.1, i)) else [])
    match l with
    | [] => c
    | (n, i) :: _ => c.startCombine n i

/-- Entries in progress are dropped as their almanac ends: their results are undefined, and a combine's chains are discarded (R75, R254). -/
def Chip.dropFlight (c : Chip) (n : Nat) : Chip :=
  let fl := (c.ctx n).inFlight
  let c := (fl.filter (·.sent.isNone)).foldl (fun c (i : Issued) => c.pinned i.pins (fun c =>
    i.e.outputs.foldl (fun c k => if i.e.use k then c.undefTensor (ctxSpace n) (i.desc k) else c) c)) c
  let c := c.onCtx n (fun x => { x with inFlight := [] })
  match c.comb (chanOf n) with
  | some b => if b.ctx = n then (c.endCombine (chanOf n)).pumpChannel (chanOf n) else c
  | none => c

/-- An almanac reaches DONE with a reason (R75). -/
def Chip.almDone (c : Chip) (n reason : Nat) : Chip :=
  let c := (if isStead n then c.accrue else c).dropFlight n
  let c := (c.onCtx n (fun x => { x with
    st := .done, frames := [], startBell := none, bellWait := none, stopReq := none, failHold := false, cached := [], started := false, xts := [] })).almReason n reason
  if isStead n then c.passCauses (fun o => match o with | .late m _ => m == n | _ => false)
  else c.endShiftOf (n - 2)

/-- STOP_TAKES_EFFECT (R75): at the next bell boundary, or for a local almanac with no entry in progress. -/
def Chip.stopTakesEffect (c : Chip) (n : Nat) : Chip :=
  let x := c.ctx n
  match x.stopReq with
  | some b =>
    if isStead n then (c.advanceTo (b * bellBeats)).almDone n Why.stopped
    else if x.inFlight = [] then c.almDone n Why.stopped
    else c
  | none => c

/-- START_BELL_REACHED (R77, R132): the almanac enters RUNNING and its top-level frame begins, unless HOLD is in force. -/
def Chip.startBellReached (c : Chip) (n : Nat) : Chip :=
  let x := c.ctx n
  match x.startBell with
  | some b =>
    let c := c.advanceTo (b * bellBeats)
    let held : Bool := match c.hold.bell with | some h => decide (h ≤ b) | none => false
    if x.st ≠ .admitted then c.onCtx n (fun x => { x with startBell := none })
    else if c.mst = .safe then c.onCtx n (fun x => { x with startBell := none })
    else if held then c
    else
      let c := c.endShift.accrue
      let c := c.placeStead
      c.onCtx n (fun x => { x with
        st := .running, startBell := none, next := 1, frames := [{ origin := b * bellBeats }], bellWait := none, inFlight := [], cached := []
        started := true, lastIssued := 0, failHold := false, stopReq := none })
  | none => c

/-! ### Fetching and translating entries (R60, R149) -/

/-- The leaf that an address has now, for pinning. -/
def Chip.leafOf (c : Chip) (space va : Nat) : Option XEnt :=
  match c.cachedLeaf space va with
  | some e => some e
  | none => match c.walk space va with
    | some (.leaf l e, _) => some ⟨space, l, va / levelBytes l, e, false⟩
    | _ => none

/-- A pinned failure: a page that grants nothing. -/
def noPage (space va : Nat) : XEnt := ⟨space, 0, va / 2 ^ 16, 3, false⟩

/-- Ranges an entry touches: each with the accesses it needs and whether a miss stalls it. -/
def Chip.entryRanges (c : Chip) (n : Nat) (e : Entry) (o : Opnds) : List (Nat × Nat × List Acs × Bool) :=
  let g := c.groupAt n e.group
  let ds := [o.a, o.b, o.c, o.d]
  let ops := (List.range 4).flatMap (fun k => if c.touches e g k then
    (ds.getD k o.a).ranges.map (fun r => (r.1, r.2.1, e.accs k, (ds.getD k o.a).stall)) else [])
  let extra (d : Desc) (n : Nat) : List (Nat × Nat × List Acs × Bool) := [(d.base, n, [Acs.read, Acs.write], false)]
  if !e.isCombine then ops
  else
    let ring := c.descAt n g.ring
    ops ++ extra ring ((ring.dim 2 - 1) * ring.strides.getD 1 0 + packedBytes ring.format (1024 * ring.dim 1)) ++
      (if ring.scaleMode = 1 then [(ring.scaleVa, ring.scaleBytes, [Acs.read, Acs.write], false)] else []) ++
      (if e.mode = 2 then (c.descAt n g.chaff).ranges.map (fun r => (r.1, r.2.1, [Acs.read, Acs.write], false)) else [])

/-- The unit that asks for an entry's translations (R155): 0 thresher, 1 mover, 2 combine engine. -/
def Entry.requester (e : Entry) : Nat := if e.isCombine then 2 else if e.op = Op.move ∨ e.op = Op.fence then 1 else 0

/-- What an access pins of its page: the leaf, though it lacks a right, or a page that grants nothing. -/
def Chip.pinOf (c : Chip) (space va : Nat) (r : XRes) : XEnt :=
  match r with
  | .ok _ _ _ => (c.leafOf space va).getD (noPage space va)
  | .right => (c.leafOf space va).getD (noPage space va)
  | _ => noPage space va

/-- Translate the pages of a stead or fallow entry as it is streamed (R149): pins, and whether any failed. Nothing stalls; a walk that ends at an absent,
host-resolve or malformed entry sends its request with STALLED = 0 (R146, R154). -/
def Chip.steadPins (c : Chip) (requester : Nat) (rs : List (Nat × Nat × List Acs × Bool)) : List XEnt × Bool × Chip :=
  (rs.flatMap (fun r => (runs r.1 r.2.1).map (fun x => (x.1, r.2.2.1)))).foldl (fun (acc : List XEnt × Bool × Chip) x =>
    x.2.foldl (fun (acc : List XEnt × Bool × Chip) a =>
      let (r, c) := acc.2.2.xlateQuiet steadSpace x.1 a (some (engineOf requester))
      let c := match r with
        | .fault cause level =>
          ((if cause = Cause.malformed then c.count F.XLT_WALK_ERR_COUNT else c).sendFault steadSpace x.1 a cause level requester false .none).2
        | _ => c
      (c.pinOf steadSpace x.1 r :: acc.1, acc.2.1 || (match r with | .ok _ _ _ => false | _ => true), c)) acc) ([], false, c)

/-- Translate the pages of a local entry at issue (R149, R154): pins, whether it waits for a reply, whether some access failed. -/
def Chip.localPins (c : Chip) (n idx requester : Nat) (mayStall : Bool) (rs : List (Nat × Nat × List Acs × Bool)) : List XEnt × Bool × Bool × Chip :=
  let sp := ctxSpace n
  (rs.flatMap (fun r => (runs r.1 r.2.1).map (fun x => (x.1, r.2.2.1, r.2.2.2)))).foldl (fun (acc : List XEnt × Bool × Bool × Chip) x =>
    x.2.1.foldl (fun (acc : List XEnt × Bool × Bool × Chip) a =>
      let (r, wait, c) := acc.2.2.2.xlateFault sp x.1 a requester (x.2.2 && mayStall) (.entry n idx)
      let ok : Bool := match r with | .ok _ _ _ => true | _ => false
      (c.pinOf sp x.1 r :: acc.1, acc.2.1 || wait, acc.2.2.1 || (!ok && !wait), c)) acc) ([], false, false, c)

/-- The operand descriptors of an entry, as words, where it uses them. -/
def Chip.entryDescs (c : Chip) (n : Nat) (e : Entry) : List (List Nat) :=
  (List.range 4).map (fun k => if e.use k then wordsOf 16 (c.descBytes n (e.desc k)) else [])
def opndsOf (ds : List (List Nat)) : Opnds :=
  let d (k : Nat) := Desc.parse (bytesOf (ds.getD k []))
  ⟨d 0, d 1, d 2, d 3⟩

/-- The almanac cache has room for another entry of a context (R60): 49,152 entries serve the stead and fallow almanacs, 16,384 the local almanac that
holds the current shift. -/
def Chip.cacheRoom (c : Chip) (n : Nat) : Bool :=
  if isStead n then decide ((c.ctx 0).cached.length + (c.ctx 1).cached.length < 49152)
  else c.shiftInst == some (n - 2) && decide (((c.ctxs.filter (fun x => !isStead x.1)).map (·.2.cached.length)).sum < 16384)

/-- An entry is read from its table: its words, a stead or fallow entry's translations with them; any failure of it is one event. -/
def Chip.fetch (c : Chip) (n idx : Nat) : (List Nat × List XEnt) × Chip :=
  let ok := c.tableOk (ctxSpace n) (c.entryVa n idx) 32
  let words := if ok then c.entryWords n idx else List.replicate 8 0
  let e := Entry.parse words
  if isStead n then
    let (pins, bad, c) := c.steadPins e.requester (c.entryRanges n e (opndsOf (c.entryDescs n e)))
    ((words, pins), if bad || !ok then c.event Flt.xltStead else c)
  else ((words, []), if ok then c else c.instEvent (n - 2) 1)

/-- An entry may be cached ahead of issue: it lies in the table of an almanac that waits to run or runs, is not cached, and there is room for it. -/
def Chip.fillable (c : Chip) (n idx : Nat) : Bool :=
  let x := c.ctx n
  (match x.head with | some h => decide (0 < idx ∧ idx < h.entryCount) | none => false) && c.cacheRoom n && (Table.find? idx x.cached).isNone &&
  (x.st == .running || x.st == .held || x.st == .admitted)

/-- An entry is in the cache. -/
def Chip.cached (c : Chip) (n idx : Nat) (e : List Nat × List XEnt) : Chip := c.onCtx n (fun x => { x with cached := Table.insert idx e x.cached })

/-- ALMANAC_CACHE_FILL: an entry arrives in the cache ahead of its issue. -/
def Chip.cacheFill (c : Chip) (n idx : Nat) : Chip :=
  if c.fillable n idx then let r := c.fetch n idx; r.2.cached n idx r.1 else c

/-- The words and pins of an entry that is to issue: from the cache, or fetched now, cached where there is room. -/
def Chip.fetched (c : Chip) (n idx : Nat) : (List Nat × List XEnt) × Chip :=
  match Table.find? idx (c.ctx n).cached with
  | some e => (e, c)
  | none => let r := c.fetch n idx; (r.1, if c.fillable n idx then r.2.cached n idx r.1 else r.2)

/-! ### Issue (R63, R64, R66) -/

/-- Past entry `next` of a local almanac: bodies that end there begin their next iteration or close (R64). -/
def unwind : Nat → Nat → List Frame → Nat × List Frame
  | 0, i, fs => (i, fs)
  | fuel + 1, i, fs => match fs with
    | f :: t =>
      if f.loopIdx = 0 ∨ i ≤ f.loopIdx + f.body then (i, fs)
      else if f.iter + 1 < f.count then (f.loopIdx + 1, { f with iter := f.iter + 1, origin := f.origin + f.period * 64 } :: t)
      else unwind fuel i t
    | [] => (i, fs)

/-- The sequencer of a local almanac moves on past its present entry. -/
def Ctx.advance (x : Ctx) : Ctx := let r := unwind (x.frames.length + 1) (x.next + 1) x.frames; { x with next := r.1, frames := r.2 }

/-- STEP and UPDX entries of a local almanac pass without issuing: STEP advances the step number (R72, R74). -/
def Chip.skipUnstamped (c : Chip) (n : Nat) : Nat → Chip
  | 0 => c
  | fuel + 1 =>
    let op := (c.entry n (c.ctx n).next).op
    if op = Op.step then
      ((c.wr F.ALM_STEP_STEP (c.rd F.ALM_STEP_STEP 0 n + 1) 0 n).onCtx n Ctx.advance).skipUnstamped n fuel
    else if op = Op.updx then (c.onCtx n Ctx.advance).skipUnstamped n fuel
    else c

/-- Entries that can pass between two issues at most: each of the table once for every iteration an open frame has left (R64). -/
def Ctx.passes (x : Ctx) (h : Head) : Nat := h.entryCount * (1 + (x.frames.map (fun f => f.count - f.iter)).sum)

/-- Every entry that passes without issuing is passed. -/
def Chip.skip (c : Chip) (n : Nat) : Chip :=
  match (c.ctx n).head with | some h => c.skipUnstamped n ((c.ctx n).passes h) | none => c

/-- An entry goes to its unit: it is in flight, ALM_PC names it, the thresher's busy cycles are added, and a combine begins on its channel. -/
def Chip.toUnit (c : Chip) (n : Nat) (i : Issued) : Chip :=
  let e := i.e
  let c := c.onCtx n (fun x => { x with inFlight := x.inFlight ++ [i] })
  let c := if e.onThresher then c.wr F.THR_BUSY_CYCLES (c.rd F.THR_BUSY_CYCLES + e.cycles i.opnds) else c
  if e.isCombine && !i.stall then c.pumpChannel (chanOf n) else c

/-- What every issued local entry leaves: its index in ALM_PC, the sequencer past it, and its place in the cache free. -/
def Chip.issued (c : Chip) (n idx : Nat) : Chip :=
  (c.wr F.ALM_PC_INDEX idx 0 n).onCtx n (fun x => { x.advance with cached := Table.erase idx x.cached, lastIssued := idx })

/-- The frame of a LOOP's body; its first iteration starts at `start` (R64). -/
def loopFrame (idx start : Nat) (e : Entry) : Frame := { origin := start, loopIdx := idx, body := e.body, count := e.p32, period := e.slot }

/-- A local LOOP opens its nested frame (R64). -/
def Chip.openLoop (c : Chip) (n idx start : Nat) (e : Entry) : Chip :=
  (c.wr F.ALM_PC_INDEX idx 0 n).onCtx n (fun x => { x with
    next := idx + 1, cached := Table.erase idx x.cached, lastIssued := idx, frames := loopFrame idx start e :: x.frames })

/-! ### The order of stamps (R63, R64; log entry 198) -/

/-- Entry `i` as the sequencer holds it: from the almanac cache, else from the table. -/
def Chip.seqEntry (c : Chip) (n i : Nat) : Entry :=
  match Table.find? i (c.ctx n).cached with
  | some e => Entry.parse e.1
  | none => c.entry n i

/-- The entries of a frame itself from `i` to `last`, each with its beat: that of its stamp, for a STEP without one that of the entry before it, `t` at
first. UPDX has no moment of its own, bodies of nested loops are passed over, and END or a BELL_WAIT ends the frame. -/
def Chip.direct (c : Chip) (n origin last : Nat) : Nat → Nat → Nat → List (Nat × Nat)
  | 0, _, _ => []
  | fuel + 1, i, t =>
    if last < i then []
    else
      let e := c.seqEntry n i
      let b := origin + 64 * e.issue
      if e.op = Op.end_ then []
      else if e.op = Op.updx then c.direct n origin last fuel (i + 1) t
      else if e.op = Op.step ∧ !e.stamp then (t, i) :: c.direct n origin last fuel (i + 1) t
      else if e.op = Op.bellWait then [(b, i)]
      else (b, i) :: c.direct n origin last fuel (i + 1 + (if e.op = Op.loop then e.body else 0)) b

/-- Entries of a frame that have not issued in its present iteration. -/
def Chip.unissued (c : Chip) (n : Nat) (h : Head) (f : Frame) : List (Nat × Nat) :=
  (c.direct n f.origin (if f.body = 0 then h.entryCount - 1 else f.loopIdx + f.body) h.entryCount (f.loopIdx + 1) f.origin).filter
    (fun x => !f.passed.contains x.2)

/-- An entry that is to issue: its beat, its index, the place of its frame among the open ones. -/
structure Due where
  beat : Nat
  idx : Nat
  frame : Nat
  deriving DecidableEq, Repr

/-- `a` issues before `b`: by beat, then by place in the table. -/
def Due.before (a b : Due) : Bool := decide (a.beat < b.beat) || (a.beat == b.beat && decide (a.idx < b.idx))

/-- Entries of every open frame that have not issued. -/
def Chip.dues (c : Chip) (n : Nat) : List Due :=
  match (c.ctx n).head with
  | some h => (List.range (c.ctx n).frames.length).flatMap (fun k =>
      (c.unissued n h ((c.ctx n).frames.getD k { origin := 0 })).map (fun x => ⟨x.1, x.2, k⟩))
  | none => []

/-- The entry that issues next in a stead or fallow almanac. -/
def Chip.firstDue (c : Chip) (n : Nat) : Option Due :=
  (c.dues n).foldl (fun r d => match r with | some m => if d.before m then some d else some m | none => some d) none

/-- An entry has issued: its frame goes on, a LOOP body to its next iteration or to its end once all its entries have (R64). -/
def Chip.passDue (c : Chip) (n : Nat) (d : Due) : Chip :=
  match (c.ctx n).head, (c.ctx n).frames[d.frame]? with
  | some h, some f =>
    let g := { f with passed := d.idx :: f.passed }
    let r : List Frame :=
      if f.body = 0 ∨ c.unissued n h g ≠ [] then [g]
      else if f.iter + 1 < f.count then [{ f with iter := f.iter + 1, origin := f.origin + 64 * f.period, passed := [] }]
      else []
    c.onCtx n (fun x => { x with frames := x.frames.take d.frame ++ r ++ x.frames.drop (d.frame + 1) })
  | _, _ => c

/-- STEP entries that come before the next stamped entry, up to a beat where one is given, advance the step number (R72). -/
def Chip.takeSteps (c : Chip) (n : Nat) (upTo : Option Nat) : Nat → Chip
  | 0 => c
  | fuel + 1 => match c.firstDue n with
    | some d =>
      if (c.seqEntry n d.idx).op = Op.step ∧ upTo.all (fun t => decide (d.beat ≤ t)) then
        ((c.wr F.ALM_STEP_STEP (c.rd F.ALM_STEP_STEP 0 n + 1) 0 n).passDue n d).takeSteps n upTo fuel
      else c
    | none => c

/-- Every STEP entry that comes before the next stamped entry is taken. -/
def Chip.steps (c : Chip) (n : Nat) (upTo : Option Nat) : Chip :=
  match (c.ctx n).head with | some h => c.takeSteps n upTo ((c.ctx n).passes h) | none => c

/-- What an issued stamped entry leaves: its index in ALM_PC, the sequencer past it, and the STEP entries of its beat taken. -/
def Chip.stampedAt (c : Chip) (n : Nat) (u : Due) : Chip :=
  ((c.wr F.ALM_PC_INDEX u.idx 0 n).onCtx n (fun x => { x with cached := Table.erase u.idx x.cached, lastIssued := u.idx })).passDue n u

/-- The index of the BELL_WAIT that the top-level frame has reached, else that of the last entry issued. -/
def Chip.waitIdx (c : Chip) (n : Nat) : Nat :=
  match ((c.ctx n).frames.flatMap (fun f => if f.body = 0 then f.passed else [])).find? (fun i => (c.seqEntry n i).op == Op.bellWait) with
  | some i => i
  | none => (c.ctx n).lastIssued

/-- Wire bytes a tick that admission booked for a stamped entry's slot. -/
def Chip.wireShare (c : Chip) (n : Nat) (h : Head) (i : Nat) (e : Entry) : Nat :=
  ceilDiv (((c.demand n h i e (c.opnds n e) (c.groupAt n e.group)).filter (·.1 == Res.wireOut)).map (·.2)).sum (max 1 e.slot)

/-- STAMPED_ENTRY_ISSUE (R63): the stamped entry whose beat comes next issues at that beat, whatever the data paths do. None issues whose beat is at
or after a hold bell named. -/
def Chip.stampedIssue (c : Chip) (n : Nat) : Chip :=
  let d := c.steps n none
  let x := d.ctx n
  match d.firstDue n, x.head with
  | some u, some h =>
    if x.st ≠ .running ∨ ¬ isStead n then c
    else
      let ((w, pins), d) := d.fetched n u.idx
      let e := Entry.parse w
      let blocked : Bool := match d.hold.bell with | some b => decide (b * bellBeats ≤ u.beat) | none => false
      if blocked ∨ e.op = Op.step then c
      else
        let d := d.advanceTo u.beat
        let step := d.rd F.ALM_STEP_STEP 0 n
        let g := d.stampedAt n u
        let g :=
          if e.op = Op.loop then g.onCtx n (fun x => { x with frames := loopFrame u.idx u.beat e :: x.frames })
          else if e.op = Op.bellWait then
            g.onCtx n (fun y => { y with bellWait := some ((y.frames.getD u.frame { origin := 0 }).origin / bellBeats + e.p32) })
          else if e.op = Op.openShift then g.accrue.onThr (fun th => { th with window := some (u.beat + 64 * e.slot) })
          else if e.op = Op.nop then g
          else
            g.toUnit n {
              idx := u.idx, words := w, upd := d.entryWords n (u.idx + 1), descs := d.entryDescs n e, step := step, issue := u.beat
              slotEnd := u.beat + 64 * e.slot, occEnd := u.beat + 64 * (e.slot + h.land e), pins := pins, wire := d.wireShare n h u.idx e }
        g.steps n (some u.beat)
  | _, _ => c

/-- The thresher unit, mover or channel that a local entry needs is free (R66): no earlier entry of a local almanac occupies it. -/
def Chip.unitFree (c : Chip) (n : Nat) (e : Entry) : Bool :=
  let fl (p : Entry → Bool) (stead : Bool) : Bool := c.ctxs.any (fun x => (stead || !isStead x.1) && x.2.inFlight.any (fun i => p i.e))
  (!e.onThresher || (c.shiftInst == some (n - 2) && (match c.thr.shift with | some s => s.restore == [] | none => false) && !fl Entry.onThresher false)) &&
  (!e.onMover || !fl Entry.onMover true) && (!e.isCombine || ((c.comb 1).isNone && !fl Entry.isCombine false))

/-- LOCAL_ENTRY_ISSUE (R66): the next entry of a local almanac issues once its unit is free and its CHAIN condition holds; it translates at
issue and may stall (R149). BELL_WAIT and OPEN_SHIFT pass. -/
def Chip.localIssue (c : Chip) (n : Nat) : Chip :=
  let d := c.skip n
  let x := d.ctx n
  match x.head with
  | some h =>
    if x.st ≠ .running ∨ isStead n ∨ c.insResetting (n - 2) ∨ ¬ x.started ∨ x.stopReq.isSome ∨ h.entryCount ≤ x.next then c
    else
      let ((w, _), d) := d.fetched n x.next
      let e := Entry.parse w
      if e.op = Op.end_ ∨ (e.chain ∧ x.inFlight.any (fun f => f.idx == x.lastIssued)) then c
      else
        if e.op = Op.loop then d.openLoop n x.next 0 e
        else if e.op = Op.nop ∨ e.op = Op.bellWait ∨ e.op = Op.openShift then d.issued n x.next
        else if !d.unitFree n e then c
        else
          let d := match d.thr.shift with | some s => if e.onThresher then d.advanceTo s.go else d | none => d
          let ds := d.entryDescs n e
          let (pins, wait, fail, d) := d.localPins n x.next e.requester true (d.entryRanges n e (opndsOf ds))
          let d := if fail then d.instEvent (n - 2) 1 else d
          let i : Issued := {
            idx := x.next, words := w, upd := d.entryWords n (x.next + 1), descs := ds, step := d.rd F.ALM_STEP_STEP 0 n
            issue := d.beat, slotEnd := d.beat, occEnd := d.beat, stall := wait, fail := fail, pins := pins }
          (d.issued n x.next).toUnit n i
  | none => c

/-- An entry that waited for a fault reply translates again (R158): after RETRY it may stall again, after FAIL it does not. -/
def Chip.reissue (c : Chip) (n idx : Nat) (mayStall : Bool) : Chip :=
  match (c.ctx n).inFlight.find? (fun i => i.idx == idx && i.stall) with
  | none => c
  | some i =>
    let (pins, wait, fail, c) := c.localPins n idx i.e.requester mayStall (c.entryRanges n i.e i.opnds)
    let c := if fail && !i.fail then c.instEvent (n - 2) 1 else c
    let j : Issued := { i with stall := wait, fail := i.fail || fail, pins := pins }
    let c := c.onCtx n (fun x => { x with inFlight := x.inFlight.map (fun k => if k = i then j else k) })
    if j.e.isCombine && !j.stall then c.pumpChannel (chanOf n) else c

/-- BELL_WAIT_FRAME_START (R64): a new top-level frame begins at the bell the BELL_WAIT named, once every entry of the frame it ends has issued. -/
def Chip.bellWaitStart (c : Chip) (n : Nat) : Chip :=
  let d := c.steps n none
  let x := d.ctx n
  match x.bellWait with
  | some b =>
    let held : Bool := match d.hold.bell with | some h => decide (h ≤ b) | none => false
    if x.st ≠ .running ∨ held ∨ d.firstDue n ≠ none then c
    else (d.advanceTo (b * bellBeats)).onCtx n (fun x => { x with
      bellWait := none, frames := [{ origin := b * bellBeats, loopIdx := d.waitIdx n }] })
  | none => c

/-! ### The work of an entry (R72–R74, R95, R108–R110, R344, R456) -/

/-- The rounding key of an entry's destination. -/
def Chip.roundKey (c : Chip) (n : Nat) (i : Issued) (k : Nat) : RndKey :=
  ⟨i.e.rnd, match (c.ctx n).head with | some h => h.seed | none => 0, i.step, i.e.desc k⟩

/-- Write rows to operand `k` of an entry and count the events. -/
def Chip.putResult (c : Chip) (n : Nat) (i : Issued) (k : Nat) (rows : List (List Fp)) (ev : Ev) : Chip :=
  let (e, c) := c.putTensor n (i.desc k) (c.roundKey n i k) rows
  c.ariEvents (ariScope n) (e.add ev)

/-- MATMUL and MATMUL_ACC. -/
def Chip.doProduct (c : Chip) (n : Nat) (i : Issued) (acc : Bool) : Chip :=
  let e := i.e
  let (a, c) := c.readTensor (ctxSpace n) (i.desc 0) true
  let (b, c) := c.readTensor (ctxSpace n) (i.desc 1) true
  let (t, c) := if acc then c.readTensor (ctxSpace n) (i.desc 2) else (a, c)
  let rows := product ⟨a, e.trans 0⟩ ⟨b, e.trans 1⟩ (if acc then some t else none) (f32 e.p32) (i.desc 3)
  c.putResult n i 3 (mapRows (riddle1 e.p16) rows) { nanIn := nansOf (if acc then [a, b, t] else [a, b]) }

/-- ATTEND: the scores take the channel scales of an INT8 Q and K after their dot products. -/
def Chip.doAttend (c : Chip) (n : Nat) (i : Issued) : Chip :=
  let e := i.e
  let (q, c) := c.readTensor (ctxSpace n) (i.desc 0) true
  let (k, c) := c.readTensor (ctxSpace n) (i.desc 1) true
  let (v, c) := c.readTensor (ctxSpace n) (i.desc 2)
  c.putResult n i 3 (attend ⟨q, e.trans 0⟩ ⟨k, e.trans 1⟩ v (bit e.subop 0) (f32 e.p32) (i.desc 3)) { nanIn := nansOf [q, k, v] }

/-- A tensor read as FP32 values, with the events of the read but for its NaN elements, and with their addresses. -/
def Chip.read32 (c : Chip) (n : Nat) (d : Desc) : Tens × Ev × List Nat × Chip :=
  let (t, c) := c.readTensor (ctxSpace n) d
  let (u, ev) := t.to32
  (u, ev, t.nanAt, c)

/-- EWISE, ROWRED, NORM and CONVERT. -/
def Chip.doRiddle (c : Chip) (n : Nat) (i : Issued) : Chip :=
  let e := i.e
  let (a, ea, na, c) := c.read32 n (i.desc 0)
  let (b, eb, nb, c) := if e.use 1 then c.read32 n (i.desc 1) else (a, {}, [], c)
  let (t, et, nt, c) := if e.use 2 then c.read32 n (i.desc 2) else (a, {}, [], c)
  let rows : List (List Fp) :=
    if e.op = Op.ewise then
      (if e.use 1 then List.zipWith (fun x y => List.zipWith (riddle2 e.p16) x y) a.rows b.rows else mapRows (riddle1 e.p16) a.rows)
    else if e.op = Op.rowred then a.rows.map (fun r => [rowRed e.subop r])
    else if e.op = Op.norm then
      (List.range a.rows.length).map (fun r => normRow e.subop (f32 e.p32) (a.rows.getD r []) (normOperand b (i.desc 0) r)
        (if e.use 2 then some (normOperand t (i.desc 0) r) else none))
    else a.rows
  c.putResult n i 3 rows (((ea.add eb).add et).add { nanIn := (na ++ nb ++ nt).eraseDups.length })

/-- UPDATE (R74): B, C and D are read, stepped in FP32 and written back, each narrowed once. -/
def Chip.doUpdate (c : Chip) (n : Nat) (i : Issued) : Chip :=
  let e := i.e
  let (g, eg, ng, c) := c.read32 n (i.desc 0)
  let (w, ew, nw, c) := c.read32 n (i.desc 1)
  let (m, em, nm, c) := c.read32 n (i.desc 2)
  let (v, ev, nv, c) := if e.use 3 then c.read32 n (i.desc 3) else (m, {}, [], c)
  let out := updAll e.recipe (updParams i.upd) g.rows.flatten w.rows.flatten m.rows.flatten (if e.use 3 then v.rows.flatten else [])
  let c := c.putResult n i 1 (relayout (i.desc 1) [out.map (·.1)]) ((((eg.add ew).add em).add ev).add { nanIn := (ng ++ nw ++ nm ++ nv).eraseDups.length })
  let c := c.putResult n i 2 (relayout (i.desc 2) [out.map (·.2.1)]) {}
  if e.use 3 then c.putResult n i 3 (relayout (i.desc 3) [out.map (·.2.2)]) {} else c

/-- The element bytes of a tensor in linear order, with their poison marks. -/
def Chip.readRows (c : Chip) (n : Nat) (d : Desc) : List MByte × Chip :=
  (List.range d.rows).foldl (fun (acc : List MByte × Chip) r =>
    let (b, c) := acc.2.vaRead (ctxSpace n) (d.rowVa r) d.rowBytes
    (acc.1 ++ b, c)) ([], c)

/-- MOVE (R72, R344): bytes and poison marks are copied, through an XTS slot where SUBOP asks for it; a block scale array goes along as it is,
a per-channel one is never written (R100). -/
def Chip.doMove (c : Chip) (n : Nat) (i : Issued) : Chip :=
  let e := i.e
  let a := i.desc 0
  let d := i.desc 3
  let (data, c) := c.readRows n a
  let (data, c) : List MByte × Chip := if bit e.subop 0 then
      let k := c.keySlot 1 e.p16
      (List.zip (k.xts (bit e.subop 1) e.p32 (data.map (·.1))) (data.map (·.2)), c.count F.CPH_XTS_SECT_COUNT (data.length / k.sectorBytes))
    else (data, c)
  let (sc, c) := if a.scaleMode = 1 then c.vaRead (ctxSpace n) a.scaleVa a.scaleBytes else ([], c)
  let c := (List.range d.rows).foldl (fun c r => c.vaWrite (ctxSpace n) (d.rowVa r) ((data.drop (r * d.rowBytes)).take d.rowBytes)) c
  let c := if d.scaleMode = 1 then c.vaWrite (ctxSpace n) d.scaleVa sc else c
  d.written.foldl (fun c r => c.mirrorRange n d (r.1, r.2.1)) c

/-- What is left of a combine at its completion: the product of AG_MATMUL and A2A_MATMUL. -/
def Chip.doCombineEnd (c : Chip) (n : Nat) (i : Issued) : Chip :=
  match c.comb (chanOf n) with
  | some b =>
    if b.ctx ≠ n ∨ b.idx ≠ i.idx then c
    else
      let c := if !c.member b.grp then c
        else (c.positionsOf b).foldl (fun c pos => if b.grp.names pos ∧ (b.isAg ∨ b.isA2a) then c.combineProduct b pos else c) c
      c.endCombine (chanOf n)
  | none => c

/-- The work of an entry on its unit. -/
def Chip.doWork (c : Chip) (n : Nat) (i : Issued) : Chip :=
  let e := i.e
  c.pinned i.pins (fun c =>
    if e.op = Op.matmul then c.doProduct n i false
    else if e.op = Op.matmulAcc then c.doProduct n i true
    else if e.op = Op.attend then c.doAttend n i
    else if e.op = Op.ewise ∨ e.op = Op.rowred ∨ e.op = Op.norm ∨ e.op = Op.convert then c.doRiddle n i
    else if e.op = Op.update then c.doUpdate n i
    else if e.op = Op.move then c.doMove n i
    else if e.isCombine then c.doCombineEnd n i
    else c)

/-- A combine in flight has finished on its channel (R253). -/
def Chip.workReady (c : Chip) (n : Nat) (i : Issued) : Bool :=
  !i.stall && i.e.op != Op.fence &&
  (!i.e.isCombine || i.sent.isSome || (match c.comb (chanOf n) with | some b => b.ctx == n && b.idx == i.idx && c.combineDone b | none => false))

/-- Entry `idx` in flight, the oldest of that index. -/
def Ctx.flight (x : Ctx) (idx : Nat) : Option Issued := x.inFlight.find? (fun i => i.idx == idx)

/-- An entry leaves its unit. -/
def Chip.leaveUnit (c : Chip) (n : Nat) (i : Issued) : Chip :=
  let c := c.onCtx n (fun x => { x with inFlight := x.inFlight.erase i })
  if i.e.isCombine then c.pumpChannel (chanOf n) else c

/-- A late transfer's cause has passed (R190). -/
def Chip.latePassed (c : Chip) (n : Nat) (i : Issued) : Chip :=
  if i.late then c.passCauses (fun o => o == .late n i.idx) else c

/-- An entry in flight becomes another record of the same entry. -/
def Chip.setFlight (c : Chip) (n : Nat) (i j : Issued) : Chip :=
  c.onCtx n (fun x => { x with inFlight := x.inFlight.map (fun k => if k = i then j else k) })

/-- The work of an entry in flight is done. Its transfer is complete, and the entry leaves its unit, once the twin has placed the writes mirrored to
it (R187, R420). -/
def Chip.finish (c : Chip) (n : Nat) (i : Issued) : Chip :=
  match i.sent with
  | some l => if c.mirrorPending l then c else (c.leaveUnit n i).latePassed n i
  | none =>
    let d := c.doWork n i
    let l := c.mirrorNew d
    if l = [] then (d.leaveUnit n i).latePassed n i else d.setFlight n i { i with sent := some l, pins := [] }

/-- ENTRY_COMPLETE (R65): memory errors the entry met are taken (R137), its work completes and its unit is free; END makes the almanac DONE once
every entry before it has completed. -/
def Chip.entryComplete (c : Chip) (n idx : Nat) (ecc : List MemErr) : Chip :=
  let x := c.ctx n
  match x.flight idx with
  | some i => if c.workReady n i ∧ !i.late then (ecc.foldl Chip.memError c).finish n i else c
  | none =>
    let d := if isStead n then c.steps n none else c.skip n
    let y := d.ctx n
    let last : Bool := if isStead n then d.firstDue n == none && (match y.head with | some h => idx + 1 == h.entryCount | none => false)
      else y.next == idx
    if y.st = .running ∧ y.inFlight = [] ∧ last ∧ (d.entry n idx).op = Op.end_ ∧ y.bellWait = none then
      let e := d.entry n idx
      let d := if isStead n && e.stamp then d.advanceTo ((y.frames.getLast?.getD { origin := 0 }).origin + 64 * e.issue) else d
      (d.wr F.ALM_PC_INDEX idx 0 n).almDone n 0
    else c

/-- The work of an entry ends by itself within its slot: that of the thresher unit alone (R65). -/
def Entry.inSlot (e : Entry) : Bool := !e.isCombine && e.op != Op.move && e.op != Op.fence && e.op != Op.update

/-- OCCUPANCY_END_CHECK (R187): at the last beat of a stamped entry's occupancy what is complete ends, and a transfer that is not complete raises LATE
and originates HOLD. -/
def Chip.occupancyEndCheck (c : Chip) (n idx : Nat) : Chip :=
  match (c.ctx n).flight idx with
  | some i =>
    if !isStead n || i.late then c
    else
      let c := c.advanceTo (i.occEnd - 1)
      let d := if i.sent.isSome || i.e.inSlot || (i.e.isCombine && c.workReady n i) then c.finish n i else c
      match (d.ctx n).inFlight.find? (fun j => j.idx == idx && j.issue == i.issue) with
      | some j =>
        ((d.setFlight n j { j with late := true }).count F.CLK_LATE_COUNT |>.event Flt.late).originate 0 (.late n idx)
      | none => d
  | none => c

/-- TRANSFER_COMPLETE (R187, R190): a late transfer completes, and its cause of HOLD has passed. -/
def Chip.transferComplete (c : Chip) (n idx : Nat) : Chip :=
  match (c.ctx n).flight idx with
  | some i => if i.late ∧ c.workReady n i then c.finish n i else c
  | none => c

/-- FENCE_CONDITION_MET (R361): every earlier entry of the almanac has completed, so its writes are performed; a host scope needs the host port, and
the zero-length read that the module sent behind those writes, at an address the spec leaves open, has been answered (log entry 233). -/
def Chip.fenceMet (c : Chip) (n idx : Nat) : Chip :=
  let x := c.ctx n
  match x.flight idx with
  | some i =>
    let earlier := x.inFlight.takeWhile (fun k => k != i)
    if i.e.op = Op.fence ∧ earlier = [] ∧ (i.e.subop = 1 ∨ c.hostUp) then
      let (a, c) := if i.e.subop = 1 then (0, c) else c.free
      ((if i.e.subop = 1 then c else c.emit (.hostRead (fnOf (ctxSpace n)) a 0)).leaveUnit n i).latePassed n i
    else c
  | none => c

/-- TENANT_COMBINE_TIMEOUT (R258): a tenant combine without progress completes with undefined results and the instance's fault source rises. -/
def Chip.tenantTimeout (c : Chip) : Chip :=
  match c.comb 1 with
  | none => c
  | some b =>
    let c := c.advanceTo (b.lastProgress + c.rd F.CMB_TWAIT_MS * 900000)
    let c := (c.pinned b.pins (fun c => c.combineUndef b)).endCombine 1
    let c := c.instEvent (b.ctx - 2) 2
    match (c.ctx b.ctx).flight b.idx with
    | some i => c.leaveUnit b.ctx i
    | none => c.pumpChannel 1

end Sys2Proof.Machine
end

