-- ==== Sys2Proof/Machine/Frame.lean ====
section
/-!
DEFINITION. Machine/Frame.lean: the bytes of Ethernet frames from the destination address to the frame check sequence, in network byte order (R3, R8,
R291, R309, R310, R312). The fields that the spec leaves open are free values (log entry 232).
-/
namespace Sys2Proof.Machine

/-! ### Internet checksums -/

/-- Sum of the 16-bit words of a byte string, a last odd byte filled with zero. -/
def sum16 : List Byte → Nat
  | [] => 0
  | [a] => a.toNat * 256
  | a :: b :: t => a.toNat * 256 + b.toNat + sum16 t

/-- The one's complement sum of the 16-bit words of a byte string. -/
def onesSum (l : List Byte) : Nat := let s := sum16 l; if s = 0 then 0 else (s - 1) % 65535 + 1

/-- The checksum field that makes the sum all ones. -/
def inetCsum (l : List Byte) : Nat := 65535 - onesSum l

/-- The pseudo-header of a UDP datagram of `n` bytes. -/
def pseudoHeader (v6 : Bool) (sip dip n : Nat) : List Byte :=
  if v6 then toBE 16 sip ++ toBE 16 dip ++ toBE 4 n ++ toBE 4 17 else toBE 4 sip ++ toBE 4 dip ++ toBE 2 17 ++ toBE 2 n

/-- A UDP datagram with its checksum, a computed zero sent as all ones (R291). -/
def udpBytes (v6 : Bool) (sip dip sport dport : Nat) (data : List Byte) : List Byte :=
  let n := 8 + data.length
  let hd := toBE 2 sport ++ toBE 2 dport ++ toBE 2 n
  let k := inetCsum (pseudoHeader v6 sip dip n ++ hd ++ data)
  hd ++ toBE 2 (if k = 0 then 0xFFFF else k) ++ data

/-! ### IP -/

/-- An IPv4 or IPv6 packet that carries a UDP datagram, with its DSCP. `fresh` numbers the free values: ECN, flow label or identification and DF, hop
limit. -/
def ipBytes (fresh : Nat) (v6 : Bool) (dscp sip dip : Nat) (udp : List Byte) : List Byte :=
  let tos := dscp % 64 * 4 + Config.ipField 0 fresh % 4
  let hop := Config.ipField 2 fresh % 256
  if v6 then
    toBE 4 (6 * 2 ^ 28 + tos * 2 ^ 20 + Config.ipField 1 fresh % 2 ^ 20) ++ toBE 2 udp.length ++ toBE 1 17 ++ toBE 1 hop ++ toBE 16 sip ++ toBE 16 dip ++ udp
  else
    let a := toBE 1 0x45 ++ toBE 1 tos ++ toBE 2 (20 + udp.length) ++ toBE 2 (Config.ipField 1 fresh % 65536) ++
      toBE 2 (Config.ipField 1 fresh / 65536 % 2 * 2 ^ 14) ++ toBE 1 hop ++ toBE 1 17
    let z := toBE 4 sip ++ toBE 4 dip
    a ++ toBE 2 (inetCsum (a ++ z)) ++ z ++ udp

/-- The UDP datagram of an IP packet: version, DSCP, addresses, datagram. None for another protocol, a fragment, a bad header checksum, or a length that
the bytes do not give. -/
def ipParse (b : List Byte) : Option (Bool × Nat × Nat × Nat × List Byte) :=
  let at_ (o n : Nat) : Nat := ofBE ((b.drop o).take n)
  let v := at_ 0 1 / 16
  if v = 6 then
    if b.length < 40 + at_ 4 2 ∨ at_ 6 1 ≠ 17 then none
    else some (true, at_ 0 4 / 2 ^ 22 % 64, at_ 8 16, at_ 24 16, (b.drop 40).take (at_ 4 2))
  else if v = 4 then
    let h := at_ 0 1 % 16 * 4
    if h < 20 ∨ at_ 2 2 < h ∨ b.length < at_ 2 2 ∨ at_ 9 1 ≠ 17 ∨ at_ 6 2 % 2 ^ 14 ≠ 0 ∨ onesSum (b.take h) ≠ 65535 then none
    else some (false, at_ 1 1 / 4, at_ 12 4, at_ 16 4, (b.drop h).take (at_ 2 2 - h))
  else none

/-- A UDP datagram: ports, checksum, data; none where its length field does not fit. -/
def udpParse (v6 : Bool) (sip dip : Nat) (u : List Byte) : Option (Nat × Nat × Csum × List Byte) :=
  let at_ (o n : Nat) : Nat := ofBE ((u.drop o).take n)
  let n := at_ 4 2
  if n < 8 ∨ u.length < n then none
  else
    let csum : Csum := if at_ 6 2 = 0 then .absent else if onesSum (pseudoHeader v6 sip dip n ++ u.take n) = 65535 then .good else .bad
    some (at_ 0 2, at_ 2 2, csum, (u.take n).drop 8)

/-! ### Ethernet -/

/-- Ethernet types. -/
def etIpv4 : Nat := 0x0800
def etIpv6 : Nat := 0x86DD
def etTag : Nat := 0x8100
def etAs : Nat := 0x88F7
def etMac : Nat := 0x8808

/-- The MAC control payload of a PFC frame: its opcode, the priorities it names, and eight quanta. -/
def pfcBytes (quanta : List (Nat × Nat)) : List Byte :=
  let q (p : Nat) : Nat := match quanta.find? (fun x => x.1 == p) with | some x => x.2 | none => 0
  toBE 2 0x0101 ++ toBE 2 ((List.range 8).foldl (fun a p => if quanta.any (fun x => x.1 == p) then a + 2 ^ p else a) 0) ++ (List.range 8).flatMap (fun p => toBE 2 (q p))

/-- Type and payload of a frame. -/
def EBody.bytes (fresh : Nat) : EBody → List Byte
  | .ort v6 dscp sip dip sport dport _ udp => toBE 2 (if v6 then etIpv6 else etIpv4) ++ ipBytes fresh v6 dscp sip dip (udpBytes v6 sip dip sport dport udp)
  | .as msg => toBE 2 etAs ++ msg
  | .pfc quanta => toBE 2 etMac ++ pfcBytes quanta
  | .mac => toBE 2 etMac
  | .other => []

/-- A frame's bytes: addresses, tag, type and payload, filled to 60 bytes, and the frame check sequence (R4, R309). -/
def EFrame.bytes (fresh : Nat) (f : EFrame) : List Byte :=
  let tag := match f.vlan with
    | some (pcp, vid) => toBE 2 etTag ++ toBE 2 (pcp % 8 * 2 ^ 13 + Config.ipField 3 fresh % 2 * 2 ^ 12 + vid % 2 ^ 12)
    | none => []
  let b := toBE 6 f.dmac ++ toBE 6 f.smac ++ tag ++ f.body.bytes fresh
  let b := b ++ List.replicate (60 - b.length) 0
  b ++ toLE 4 (crc32 b)

/-- The frame check sequence of a received frame fails. -/
def fcsFails (b : List Byte) : Bool := leAt b (b.length - 4) 4 != crc32 (b.take (b.length - 4))

/-- What a frame of an Ethernet type carries. -/
def EBody.parse (typ : Nat) (p : List Byte) : EBody :=
  if typ = etAs then .as p
  else if typ = etMac then
    if ofBE (p.take 2) = 0x0101 then
      .pfc ((List.range 8).filterMap (fun k => if bit (ofBE ((p.drop 2).take 2)) k then some (k, ofBE ((p.drop (4 + 2 * k)).take 2)) else none))
    else .mac
  else if typ = etIpv6 ∨ typ = etIpv4 then
    match ipParse p with
    | some (v6, dscp, sip, dip, u) =>
      if v6 != (typ == etIpv6) then .other
      else match udpParse v6 sip dip u with
        | some (sport, dport, csum, data) => .ort v6 dscp sip dip sport dport csum data
        | none => .other
    | none => .other
  else .other

/-- A received frame's fields from its bytes. -/
def EFrame.parse (b : List Byte) : EFrame :=
  let at_ (o n : Nat) : Nat := ofBE ((b.drop o).take n)
  let tagged := at_ 12 2 == etTag
  let o := if tagged then 18 else 14
  { dmac := at_ 0 6, smac := at_ 6 6, vlan := if tagged then some (at_ 14 2 / 2 ^ 13, at_ 14 2 % 2 ^ 12) else none, len := b.length
    body := EBody.parse (at_ (o - 2) 2) ((b.drop o).take (b.length - o - 4)) }

end Sys2Proof.Machine
end

