-- ==== Sys2Proof/Machine/Packet.lean ====
section
/-!
DEFINITION. Machine/Packet.lean: RME packets as byte strings, and their ways out: a VC1 frame, an Ethernet frame, or this module itself
(R215, R291, R292, R311, R312).
-/
namespace Sys2Proof.Machine

/-! ### Opcodes (R292) -/

namespace Ort
def send : Nat := 1
def write : Nat := 2
def readReq : Nat := 3
def readResp : Nat := 4
def fetchAdd : Nat := 5
def cmpSwap : Nat := 6
def atomicResp : Nat := 7
def ack : Nat := 8
def nak : Nat := 9
def credit : Nat := 10
def connect : Nat := 11
def accept : Nat := 12
def resetNotice : Nat := 13
def combine : Nat := 14
end Ort

/-- Opcodes with priority 6 and DSCP_CTRL (R291, R306, R312). -/
def ortControl (op : Nat) : Bool := 8 ≤ op && op ≤ 13

/-- The extension has a RADDR part. -/
def OrtPkt.hasRaddr (p : OrtPkt) : Bool := (p.op == Ort.write && p.msgFirst) || p.op == Ort.readReq || p.op == Ort.fetchAdd || p.op == Ort.cmpSwap
/-- The extension has an ATOMIC part. -/
def OrtPkt.isAtomic (p : OrtPkt) : Bool := p.op == Ort.fetchAdd || p.op == Ort.cmpSwap
/-- Bytes of the extension. -/
def OrtPkt.extLen (p : OrtPkt) : Nat := if p.op = Ort.combine then 16 else 16 * b2n p.hasRaddr + 16 * b2n p.isAtomic

/-- The flags of W5. -/
def OrtPkt.flags (p : OrtPkt) : Nat :=
  b2n p.prot * 128 + b2n p.segFirst * 64 + b2n p.segLast * 32 + b2n p.msgFirst * 16 + b2n p.msgLast * 8 + b2n p.ackreq * 4 +
  b2n (p.extLen != 0) * 2 + b2n p.rsv

/-- The bytes of a packet: header, extension, payload, tag (R291). -/
def OrtPkt.bytes (p : OrtPkt) : List Byte :=
  toBE 4 (p.op * 2 ^ 24 + p.dest % 2 ^ 24) ++ toBE 4 p.psn ++ toBE 4 p.ack ++ toBE 4 (p.mlim % 65536 * 65536 + p.ver * 4096 + p.keySlot % 4096) ++
  toBE 4 p.blim ++ toBE 4 (p.flags * 2 ^ 24 + p.src % 2 ^ 24) ++ toBE 4 p.data.length ++ toBE 4 p.aux ++
  (if p.op = Ort.combine then toBE 1 p.typ ++ toBE 2 p.flow ++ List.replicate 13 0
   else (if p.hasRaddr then toBE 8 p.va ++ toBE 4 p.vlen ++ toBE 4 0 else []) ++ (if p.isAtomic then toBE 8 p.op1 ++ toBE 8 p.op2 else [])) ++
  p.data ++ p.tag

/-- The packet that a byte string holds; none where it is shorter than a header. One whose length is not that of its header, extension, payload and tag
is malformed (`rsv`). -/
def OrtPkt.parse (b : List Byte) : Option OrtPkt :=
  let w (k : Nat) : Nat := ofBE ((b.drop (4 * k)).take 4)
  let p : OrtPkt := {
    op := w 0 / 2 ^ 24, dest := w 0 % 2 ^ 24, psn := w 1, ack := w 2, mlim := w 3 / 65536, ver := field (w 3) 12 4, keySlot := w 3 % 4096,
    blim := w 4, prot := bit (w 5) 31, segFirst := bit (w 5) 30, segLast := bit (w 5) 29, msgFirst := bit (w 5) 28, msgLast := bit (w 5) 27,
    ackreq := bit (w 5) 26, src := w 5 % 2 ^ 24, aux := w 7 }
  let e := p.extLen
  let x (lo n : Nat) : Nat := ofBE ((b.drop (32 + lo)).take n)
  let len := w 6 % 2 ^ 14
  let tagLen := if p.prot && p.segLast then 16 else 0
  if b.length < 32 then none
  else if b.length ≠ 32 + e + len + tagLen then some { p with rsv := true }
  else
    let raddr := p.hasRaddr
    some { p with
      va := if raddr then x 0 8 else 0
      vlen := if raddr then x 8 4 else 0
      op1 := if p.isAtomic then x 16 8 else 0
      op2 := if p.isAtomic then x 24 8 else 0
      typ := if p.op = Ort.combine then x 0 1 else 0
      flow := if p.op = Ort.combine then x 1 2 else 0
      data := (b.drop (32 + e)).take len
      tag := b.drop (32 + e + len)
      rsv := bit (w 5) 24 || bit (w 5) 25 != (e != 0) || w 6 / 2 ^ 14 != 0 || (raddr && x 12 4 != 0) || (p.op == Ort.combine && x 3 13 != 0) }

/-! ### CONNECT_QP fields (R289) -/

/-- The last 24 bits of the payload of CONNECT and ACCEPT are reserved (R292). -/
def OrtPkt.connRsv (p : OrtPkt) : Bool := (p.op == Ort.connect || p.op == Ort.accept) && (p.data.drop 13).any (· != 0)

def QPair.w (q : QPair) (k : Nat) : Nat := q.conn.getD k 0
def QPair.peerModule (q : QPair) : Nat := field (q.w 2) 0 8
def QPair.port (q : QPair) : Nat := field (q.w 2) 8 2
def QPair.v6 (q : QPair) : Bool := !bit (q.w 2) 10
def QPair.vlan (q : QPair) : Option Nat := if bit (q.w 2) 11 then some (field (q.w 2) 16 12) else none
def QPair.peerIp (q : QPair) : Nat := if q.v6 then q.w 3 * 2 ^ 96 + q.w 4 * 2 ^ 64 + q.w 5 * 2 ^ 32 + q.w 6 else q.w 6
def QPair.peerQpn (q : QPair) : Nat := field (q.w 7) 0 24
def QPair.initPsn (q : QPair) : Nat := q.w 8
def QPair.expectPsn (q : QPair) : Nat := q.w 9
def QPair.txKey (q : QPair) : Nat := field (q.w 10) 0 12
def QPair.peerRxKey (q : QPair) : Nat := field (q.w 10) 12 12
def QPair.rxKey (q : QPair) : Nat := field (q.w 11) 0 12
def QPair.depth (q : QPair) : Nat := field (q.w 11) 12 4 + 1
def QPair.window (q : QPair) : Nat := field (q.w 11) 16 16
def QPair.mtu (q : QPair) : Nat := if q.eth then field (q.w 12) 0 14 else 4032
def QPair.hopMac (q : QPair) : Nat := q.w 13 + field (q.w 14) 0 16 * 2 ^ 32

/-! ### Ports (R311, R312) -/

def Chip.eport (c : Chip) (k : Nat) : EPort := Table.getD c.ports k {}
def Chip.setPort (c : Chip) (k : Nat) (p : EPort) : Chip := { c with ports := Table.setD c.ports k {} p }
def Chip.onPort (c : Chip) (k : Nat) (f : EPort → EPort) : Chip := c.setPort k (f (c.eport k))
def Chip.breakout (c : Chip) (port : Nat) : Bool := c.on F.ETH_CTRL_BREAKOUT port

/-- The sub-port a queue pair sends on: by the parity of its QPN, the other while that link is down, none with both down (R311). -/
def Chip.subFor (c : Chip) (port qpn : Nat) : Option Nat :=
  if !c.breakout port then (if c.ethUp port 0 then some 0 else none)
  else
    let s := qpn % 2
    if c.ethUp port s then some s else if c.ethUp port (1 - s) then some (1 - s) else none

/-- A port's ORT address. -/
def Chip.portIp (c : Chip) (port : Nat) (v6 : Bool) : Nat :=
  if v6 then (List.range 4).foldl (fun a k => a * 2 ^ 32 + c.rd F.ORT_ADDR_ADDR 0 port k) 0 else c.rd F.ORT_ADDR_V4_ADDR 0 port

/-- Length of an Ethernet frame that carries a UDP payload of `n` bytes, by the measure of R309. -/
def ortFrameLen (v6 : Bool) (vlan : Option Nat) (n : Nat) : Nat :=
  max 64 (14 + (if vlan.isSome then 4 else 0) + (if v6 then 40 else 20) + 8 + n + 4)

/-- Put a packet in a port's transmit queue (R291, R312); with no link, or ORT disabled, it is not sent. -/
def Chip.ethSend (c : Chip) (port qpn owner mac : Nat) (v6 : Bool) (sip dip : Nat) (vlan : Option Nat) (p : OrtPkt) : Chip :=
  match (if c.on F.ORT_CTRL_ENABLE then c.subFor port qpn else none) with
  | none => c
  | some s =>
    let prio := if ortControl p.op then 6 else 3
    let udp := p.bytes
    let f : EFrame := {
      dmac := mac, smac := c.rd F.ETH_MAC_ADDR port, vlan := vlan.map (fun v => (prio, v)), len := ortFrameLen v6 vlan udp.length
      body := .ort v6 (if ortControl p.op then c.rd F.ORT_CTRL_DSCP_CTRL else c.rd F.ORT_CTRL_DSCP_DATA) sip dip (0xC000 + p.src % 16384)
        (c.rd F.ORT_UDP_PORT_PORT) .good udp }
    c.onPort (portKey port s) (fun e => { e with txq := e.txq ++ [⟨prio, qpn, owner, f⟩] })

/-- A packet to this module or to a module of the stead (R215, R291). -/
def Chip.agrSend (c : Chip) (m : Nat) (p : OrtPkt) : Chip :=
  if m = c.modId then { c with loopRx := c.loopRx ++ [p] } else c.routeFrame ⟨1, 1, m, c.modId, false, 0, 0, p.bytes⟩

/-- Send a packet of a queue pair on its path. -/
def Chip.qpSend (c : Chip) (qpn : Nat) (q : QPair) (p : OrtPkt) : Chip :=
  if c.mst = .safe then c
  else if q.eth then c.ethSend q.port qpn q.owner q.hopMac q.v6 (c.portIp q.port q.v6) q.peerIp q.vlan p
  else c.agrSend q.peerModule p

/-- Answer a packet that no queue pair owns, to where it came from. -/
def Chip.replySend (c : Chip) (src : PktFrom) (p : OrtPkt) : Chip :=
  if c.mst = .safe then c
  else match src with
    | .self => c.agrSend c.modId p
    | .module m => c.agrSend m p
    | .eth port mac v6 ip myIp vlan => c.ethSend port p.src 512 mac v6 myIp ip vlan p

end Sys2Proof.Machine
end

