-- ==== Sys2Proof/Machine/Queue.lean ====
section
/-!
DEFINITION. Machine/Queue.lean: the violation record, the queues of the remote memory engine, their doorbells, their completions, and the fetch
of their entries (R44–R48, R261–R274, R276, R279).
-/
namespace Sys2Proof.Machine

/-! ### Violations (R45, R47, R48) -/

/-- Reasons of a violation. -/
inductive Viol | absent | unmapped | privilege | size | state
  deriving DecidableEq, Repr

/-- REASON codes of VIOL_INFO. -/
def Viol.code : Viol → Nat
  | .absent => 1 | .unmapped => 2 | .privilege => 3 | .size => 4 | .state => 5

/-- Record a violation in the header of a page: the first since the last clear is kept, COUNT saturates, and a note raises REG_ACCESS or the
instance source. `acc` is 0 for a read and 1 for a write, `bar` the BAR code. -/
def Chip.violation (c : Chip) (page src addr acc bar : Nat) (why : Viol) : Chip :=
  let n := c.rd F.VIOL_INFO_COUNT page
  let c := if n ≠ 0 then c.wr F.VIOL_INFO_COUNT (min 255 (n + 1)) page
    else (((((((c.wr F.VIOL_INFO_COUNT 1 page).wr F.VIOL_ADDR_ADDR addr page).wr F.VIOL_INFO_SOURCE src page).wr F.VIOL_INFO_ACCESS acc page).wr
      F.VIOL_INFO_REASON why.code page).wr F.VIOL_INFO_BAR bar page).wr F.PAGE_STATUS_VIOL 1 page)
  if !c.on F.PAGE_CTRL_VIOL_NOTE_EN page then c
  else if 0x100 ≤ page then (if why = .state ∧ c.mst = .safe then c else c.instEvent (page - 0x100) 0)
  else c.event Flt.regAccess

/-! ### Owners -/

/-- Whose queue a queue id is: an instance, or 512 for the manager (R261). -/
def qOwner (qid : Nat) : Nat := qid / 8192
def qidOf (owner local_ : Nat) : Nat := owner * 8192 + local_
/-- SOURCE of an owner's requests. -/
def sourceOf (owner : Nat) : Nat := if owner = 512 then 0x3FF else owner

/-- INS_STATUS.STATE of an instance is RESETTING (R371). -/
def Chip.resetting (c : Chip) (owner : Nat) : Bool := owner < 512 && c.rd F.INS_STATUS_STATE owner == 2
/-- The owner's queues are served: the instance is ENABLED, or it is the manager. -/
def Chip.ownerServed (c : Chip) (owner : Nat) : Bool := owner == 512 || (owner < 512 && c.rd F.INS_STATUS_STATE owner == 1)

/-- The module serves data: READY or RUNNING (R43, R416). -/
def Chip.dataState (c : Chip) : Bool := c.mst == .ready || c.mst == .running

/-- The engine serves SQs, RQs and CQs (R305). -/
def Chip.rmeOn (c : Chip) : Bool := c.dataState && c.on F.RME_CTRL_ENABLE

/-- The core that serves an owner's mailbox and admin queue (R377, R378): core 0 the manager's; an instance's the first of 4–15, from core
4 + (i mod 12) on, that is neither retired nor held in reset. -/
def Chip.serverOf (c : Chip) (owner : Nat) : Option Nat :=
  if owner = 512 then some 0
  else ((List.range 12).map (fun k => 4 + (owner + k) % 12)).find? (fun k => decide (c.rd F.FWC_CORE_STATE 0 k < 2))

/-- That core runs, and no service gap holds it (R378, R379, R397). -/
def Chip.coreServes (c : Chip) (owner : Nat) : Bool :=
  !c.gap && (match c.serverOf owner with | some k => c.rd F.FWC_CORE_STATE 0 k == 0 | none => false)

/-- The owner's admin queue is served (R305, R375, R378, R379). -/
def Chip.admOn (c : Chip) (owner : Nat) : Bool :=
  c.dataState && c.coreServes owner && c.ownerServed owner && (if owner = 512 then c.on F.RME_CTRL_ADMQ_EN else c.on F.INS_ADMQ_CTRL_ADMQ_EN owner)

/-- ADMQ_ERR of an owner. -/
def Chip.admErr (c : Chip) (owner : Nat) : Bool := if owner = 512 then c.on F.RME_STATUS_ADMQ_ERR else c.on F.INS_ADMQ_CTRL_ADMQ_ERR owner

/-! ### Queues -/

/-- A queue, local indices 0 and 1 with the ring that the owner's registers give (R261, R305, R375). -/
def Chip.queue (c : Chip) (qid : Nat) : Option Queue :=
  let o := qOwner qid
  if 512 < o then none
  else if qid % 8192 = 0 then
    let q : Queue := (Table.find? qid c.queues).getD { kind := .admin }
    some (if o = 512 then { q with base := c.rd F.RME_ADMQ_BASE_VA, log2 := c.rd F.RME_ADMQ_CFG_Q_LOG2 }
      else { q with base := c.rd F.INS_ADMQ_BASE_VA o, log2 := c.rd F.INS_ADMQ_CFG_Q_LOG2 o })
  else if qid % 8192 = 1 then
    let q : Queue := (Table.find? qid c.queues).getD { kind := .cq }
    some (if o = 512 then
        { q with base := c.rd F.RME_ADMCQ_BASE_VA, log2 := c.rd F.RME_ADMQ_CFG_CQ_LOG2, shadow := c.rd F.RME_ADMCQ_SHADOW_VA, vector := c.rd F.RME_ADMQ_CFG_VECTOR }
      else
        { q with base := c.rd F.INS_ADMCQ_BASE_VA o, log2 := c.rd F.INS_ADMQ_CFG_CQ_LOG2 o, shadow := c.rd F.INS_ADMCQ_SHADOW_VA o,
                 vector := c.rd F.INS_ADMQ_CFG_VECTOR o })
  else Table.find? qid c.queues

def Chip.setQueue (c : Chip) (qid : Nat) (q : Queue) : Chip := { c with queues := Table.insert qid q (Table.erase qid c.queues) }
def Chip.onQueue (c : Chip) (qid : Nat) (f : Queue → Queue) : Chip :=
  match c.queue qid with
  | some q => c.setQueue qid (f q)
  | none => c

def Chip.qpair (c : Chip) (n : Nat) : Option QPair := Table.find? n c.qps
def Chip.setQp (c : Chip) (n : Nat) (q : QPair) : Chip := { c with qps := Table.insert n q (Table.erase n c.qps) }
def Chip.onQp (c : Chip) (n : Nat) (f : QPair → QPair) : Chip :=
  match c.qpair n with
  | some q => c.setQp n (f q)
  | none => c

/-- Entries between two free-running indices (R263). -/
def span (p k : Nat) : Nat := subMod 32 p k
def next32 (k : Nat) (n : Nat := 1) : Nat := (k + n) % 2 ^ 32
/-- A completion ring has no free entry. -/
def Queue.full (q : Queue) : Bool := span q.p q.c == 2 ^ q.log2

/-- Bytes of an entry (R262). -/
def QKind.bytes : QKind → Nat
  | .cq => 32
  | _ => 64

/-- Virtual address of entry `k` of a ring. -/
def Queue.slotVa (q : Queue) (k : Nat) : Nat := q.base + k % 2 ^ q.log2 * q.kind.bytes

/-! ### Ring accesses (R262) -/

/-- How an engine's access to a range ends: it may go on, a right is missing, it waits for a fault reply, or its translation failed. -/
inductive Rng | ok | right | wait | fail
  deriving DecidableEq, Repr

/-- Translate every page of a range for one access, sending the fault request of the first that fails. -/
def Chip.range (c : Chip) (space va n : Nat) (a : Acs) (requester : Nat) (stall : Bool) (w : Waiter) : Rng × Chip :=
  (runs va n).foldl (fun (acc : Rng × Chip) r =>
    if acc.1 ≠ .ok then acc
    else
      let (x, wait, c) := acc.2.xlateFault space r.1 a requester stall w
      match x with
      | .ok _ _ _ => (.ok, c)
      | .right => (.right, c)
      | _ => (if wait then .wait else .fail, c)) (.ok, c)

/-- The local range of a work entry touches a host page in a valid peer window that is not DIRECT (R364). -/
def Chip.peerBad (c : Chip) (space va n : Nat) (a : Acs) : Bool :=
  (runs va n).any (fun r => match c.look space r.1 a with | .ok .host ad _ => c.p2pMeets ad r.2 (· ≠ 2) | _ => false)

/-- The same for the local range of a work entry, `whole`, of which this access is a part: a page of a peer window that is not DIRECT counts as one
without the right (R269, R364). -/
def Chip.localRange (c : Chip) (space va n : Nat) (whole : Nat × Nat) (a : Acs) (requester : Nat) (stall : Bool) (w : Waiter) : Rng × Chip :=
  match c.range space va n a requester stall w with
  | (.ok, c) => (if c.peerBad space whole.1 whole.2 a then .right else .ok, c)
  | r => r

/-- Access a ring, shadow included: it always stalls on a fault. -/
def Chip.ringRange (c : Chip) (qid va n : Nat) (a : Acs) : Rng × Chip := c.range (qOwner qid) va n a 3 true (.ring qid)

/-! ### Completions (R270–R274, R281) -/

/-- The words of a completion entry. -/
def cqeWords (status opcode : Nat) (rq : Bool) (detail qpn count wqIndex wrId bytes : Nat) : List Nat :=
  [status + opcode * 256 + b2n rq * 65536 + detail * 2 ^ 24, qpn, count, wqIndex, wrId % 2 ^ 32, wrId / 2 ^ 32, bytes, 0]

/-- Work opcodes of events. -/
def opConnectEvent : Nat := 0x20
def opErrorEvent : Nat := 0x21

/-! Status codes (R281). -/

namespace St
def ok : Nat := 0
def aborted : Nat := 1
def flushed : Nat := 2
def remoteAccess : Nat := 3
def localProtection : Nat := 4
def retryExceeded : Nat := 5
def creditTimeout : Nat := 6
def tagFail : Nat := 7
def length : Nat := 8
def translation : Nat := 9
def instanceReset : Nat := 10
def rnrExhausted : Nat := 11
def format : Nat := 12
def internal : Nat := 0xFF
end St

/-- Write one completion to a ring: the entry, the shadow of the producer index, the vector when armed; the consumer index of the queue it
covers advances (R263, R271). -/
def Chip.putCqe (c : Chip) (cq : Nat) (e : Cqe) : Bool × Chip :=
  match c.queue cq with
  | none => (true, c)
  | some q =>
    let (r1, c) := c.ringRange cq (q.slotVa q.p) 32 .write
    let (r2, c) := if r1 = .ok then c.ringRange cq q.shadow 4 .write else (r1, c)
    if r2 = .wait then (false, c.onQueue cq (fun q => { q with faulted := true }))
    else if r2 ≠ .ok then (false, { c.onQueue cq (fun q => { q with err := true }) with ringFail := c.ringFail ++ [cq] })
    else
      let p := next32 q.p
      let words := match e.event.bind (fun w => c.queue w) with | some s => e.words.set 3 s.c | none => e.words
      let c := c.vaWrite (qOwner cq) (q.slotVa q.p) (clean (bytesOf words))
      let c := c.vaWrite (qOwner cq) q.shadow (clean (toLE 4 p))
      let c := if q.armed && q.vector != 0x7FF then c.msix (fnOf (qOwner cq)) q.vector else c
      let c := c.onQueue cq (fun q => { q with p := p, armed := false })
      let c := match e.wq with
        | some (w, k) => c.onQueue w (fun q => { q with c := k })
        | none => c
      (true, c)

/-- Write the completions a ring has waiting, oldest first, as far as space and its translations allow. -/
def Chip.drainCq (c : Chip) (cq : Nat) : Nat → Chip
  | 0 => c
  | fuel + 1 =>
    match c.queue cq with
    | none => c
    | some q => match q.waiting with
      | [] => c
      | e :: rest =>
        if q.full || q.faulted || q.err then c
        else match c.putCqe cq e with
          | (true, c) => (c.onQueue cq (fun q => { q with waiting := rest })).drainCq cq fuel
          | (false, c) => c

/-- A ring begins, or ceases, to be full: a stall begins, and is counted, or ends (R274, R305). -/
def Chip.markFull (c : Chip) (cq : Nat) : Chip :=
  match c.queue cq with
  | some q =>
    if !q.full then (if q.since = none then c else c.setQueue cq { q with since := none })
    else if q.since = none then (c.count F.RME_CQ_STALL_COUNT).setQueue cq { q with since := some c.beat }
    else c
  | none => c

/-- Drain every completion that waits. -/
def Chip.flushCq (c : Chip) (cq : Nat) : Chip :=
  match c.queue cq with
  | some q => (c.drainCq cq (q.waiting.length + 1)).markFull cq
  | none => c

/-- A completion is due: it is written, or it waits for space (R274). While the owner is being reset none is written (R371). -/
def Chip.complete (c : Chip) (cq : Nat) (e : Cqe) : Chip :=
  if c.resetting (qOwner cq) then c
  else
    let c := if e.words.getD 0 0 % 256 = St.internal then c.event Flt.rme else c
    (c.onQueue cq (fun q => { q with waiting := q.waiting ++ [e] })).flushCq cq

/-- A ring has completions that wait to be written. -/
def Chip.cqWaiting (c : Chip) (cq : Nat) : Bool := match c.queue cq with | some q => q.waiting != [] | none => false

/-- A ring is full, or has completions waiting: queues that complete to it stall (R274). -/
def Chip.cqStalled (c : Chip) (cq : Nat) : Bool := c.cqWaiting cq || (match c.queue cq with | some q => q.full | none => false)

/-! ### Work entries (R268, R269, R272) -/

def Wqe.w (e : Wqe) (k : Nat) : Nat := e.words.getD k 0
def Wqe.op (e : Wqe) : Nat := e.w 0 % 256
def Wqe.batch (e : Wqe) : Bool := bit (e.w 0) 8
def Wqe.fence (e : Wqe) : Bool := bit (e.w 0) 9
def Wqe.stall (e : Wqe) : Bool := bit (e.w 0) 10
def Wqe.wrId (e : Wqe) : Nat := e.w 1 + e.w 2 * 2 ^ 32
def Wqe.va (e : Wqe) : Nat := (e.w 3 + e.w 4 * 2 ^ 32) % 2 ^ 57
def Wqe.len (e : Wqe) : Nat := e.w 5
def Wqe.remote (e : Wqe) : Nat := e.w 6 + e.w 7 * 2 ^ 32
def Wqe.op1 (e : Wqe) : Nat := e.w 8 + e.w 9 * 2 ^ 32
def Wqe.op2 (e : Wqe) : Nat := e.w 10 + e.w 11 * 2 ^ 32
def Wqe.isRead (e : Wqe) : Bool := 3 ≤ e.op && e.op ≤ 5

/-- A malformed send-queue entry (R268, R269). -/
def Wqe.badSq (e : Wqe) : Bool :=
  decide (5 < e.op) || field (e.w 0) 11 21 != 0 || field (e.w 4) 25 7 != 0 || decide (2 ^ 31 < e.len) ||
  (e.words.drop 12).any (· != 0) ||
  (decide (4 ≤ e.op) && (e.va % 8 != 0 || e.remote % 8 != 0 || e.len != 8))

/-- A malformed receive-queue entry. -/
def Wqe.badRq (e : Wqe) : Bool :=
  e.op != 0x10 || field (e.w 0) 8 24 != 0 || field (e.w 4) 25 7 != 0 || decide (2 ^ 31 < e.len) || (e.words.drop 6).any (· != 0)

/-! ### The context cache (R288) -/

/-- Contexts that are never evicted: those created with PIN, and those CMB_XS_QP names. -/
def Chip.ctxPinned (c : Chip) (qpn : Nat) : Bool :=
  (match c.qpair qpn with | some q => q.pin | none => false) ||
  (List.range 16).any (fun s => c.on F.CMB_XS_QP_VALID 0 s && c.rd F.CMB_XS_QP_QPN 0 s == qpn)

/-- A context is on the die. -/
def Chip.ctxHeld (c : Chip) (qpn : Nat) : Bool := c.ctxCache.any (·.qpn == qpn)

/-- A queue pair's context is used: a hit makes it the most recently used and dirty, a miss is counted and fetches it. -/
def Chip.useCtx (c : Chip) (qpn : Nat) : Chip :=
  if c.ctxHeld qpn then { c with ctxCache := ⟨qpn, true⟩ :: c.ctxCache.filter (·.qpn ≠ qpn) }
  else if c.ctxMiss.contains qpn then c
  else { c.count F.RME_CTX_MISS_COUNT with ctxMiss := c.ctxMiss ++ [qpn] }

/-- An operation of a queue pair: it goes on with its context on the die; a miss holds it until the context arrives (R23, R288). -/
def Chip.withCtx (c : Chip) (qpn : Nat) (op : CtxOp) (f : Chip → Chip) : Chip :=
  if c.ctxHeld qpn then f (c.useCtx qpn)
  else
    let d := c.useCtx qpn
    if d.ctxOps.contains (qpn, op) then d else { d with ctxOps := d.ctxOps ++ [(qpn, op)] }

/-- A dirty context is written back to the backing store, whose layout the spec does not give: its bytes become free. -/
def Chip.ctxWriteBack (c : Chip) : Chip :=
  { c.count F.RME_CTX_WB_COUNT with
    grn := c.grn.undefine c.freeCtr (c.rd F.RME_CTX_BASE_BASE * 2 ^ 26) (2 ^ 26)
    freeCtr := c.freeCtr + 1 }

/-- A context arrives, at most 64 being in flight; the least recently used one that is not pinned makes room, written back
when it is dirty. -/
def Chip.ctxFetched (c : Chip) (qpn : Nat) : Chip :=
  if !(c.ctxMiss.take 64).contains qpn then c
  else
    let c : Chip := { c with ctxMiss := c.ctxMiss.filter (· ≠ qpn) }
    if (c.qpair qpn).isNone then c
    else
      let c := if c.ctxCache.length < 16384 then c
        else match c.ctxCache.reverse.find? (fun e => !c.ctxPinned e.qpn) with
          | some v =>
            let c := if v.dirty then c.ctxWriteBack else c
            { c with ctxCache := c.ctxCache.erase v }
          | none => c
      { c with ctxCache := ⟨qpn, true⟩ :: c.ctxCache }

end Sys2Proof.Machine
end

