-- ==== Sys2Proof/Machine/Qp.lean ====
section
/-!
DEFINITION. Machine/Qp.lean: a queue pair's sender and its completions: packets of its entries, credits, acknowledgements, go-back-N, error
(R271–R278, R286, R287, R293–R302, R338, R339).
-/
namespace Sys2Proof.Machine

/-! ### Credits that a receiver grants (R300, R342) -/

/-- Byte-credit units granted and not returned. -/
def QPair.outstanding (q : QPair) : Nat := q.bgrant - q.breturn

/-- Units of the inbound placement buffer in use, and of the tag-hold buffer. -/
def Chip.poolUsed (c : Chip) (prot : Bool) : Nat :=
  (c.qps.map (fun e => if e.2.prot == prot && !(e.2.combine && !prot) then e.2.outstanding else 0)).sum

/-- Units of a pool: 16 MiB, or 32 MiB of tag-hold. -/
def poolSize (prot : Bool) : Nat := if prot then 8192 else 4096

/-- CPH_STATUS.HOLD_FREE: free draws of tag-hold. -/
def Chip.holdFree (c : Chip) : Nat := 512 - c.poolUsed true / 16

/-- Units that the free slots of the sheaf ring of the stead combine in progress hold (R300). -/
def Chip.ringUnits (c : Chip) : Nat :=
  match Table.find? 0 c.cmb with
  | some b =>
    b.freeSlots * max 1 (ceilDiv (sheafBytes b.ringD b.ints) 4096)
  | none => 0

/-- Grant byte credit to one queue pair as far as its window and its pool allow; with PROT in steps of 16 units. -/
def Chip.grantOne (c : Chip) (n : Nat) : Chip :=
  match c.qpair n with
  | none => c
  | some q =>
    if q.st ≠ .connected ∧ q.st ≠ .connecting then c
    else
      let cap := if q.combine then min q.window c.ringUnits else q.window
      let free := poolSize q.prot - c.poolUsed q.prot
      let room := cap - q.outstanding
      let g := if q.prot then min (room / 16) (free / 16) * 16 else if q.combine then room else min room free
      let c := c.setQp n { q with bgrant := q.bgrant + g }
      if q.prot then
        let held := 512 - c.holdFree
        if c.rd F.CPH_HOLD_PEAK_DRAWS < held then c.wr F.CPH_HOLD_PEAK_DRAWS held else c
      else c

/-- Capacity freed: the queue pair that freed it is granted first, then the others by QPN. -/
def Chip.grantAll (c : Chip) (first : Nat) : Chip := c.qps.foldl (fun c e => if e.1 = first then c else c.grantOne e.1) (c.grantOne first)

/-! ### Headers (R291) -/

/-- ACK_PSN: the next PSN, counted over placed packets only (R295). -/
def QPair.ackPsn (q : QPair) : Nat := q.exp - q.seg.length

/-- Send a packet of a queue pair; every header carries ACK_PSN and both limits. -/
def Chip.sendPkt (c : Chip) (n : Nat) (p : OrtPkt) : Chip :=
  match c.qpair n with
  | none => c
  | some q =>
    let p := { p with dest := q.peerQpn, src := n, ack := q.ackPsn % 2 ^ 32, mlim := q.mgrant % 65536, blim := q.bgrant % 2 ^ 32,
                      keySlot := if p.prot then q.peerRxKey else 0 }
    (c.qpSend n q p).setQp n { q with accepts := 0, ackAt := none, told := (q.mgrant, q.bgrant), toldAt := c.beat }

def Chip.sendAck (c : Chip) (n : Nat) : Chip := c.sendPkt n { op := Ort.ack, dest := 0 }

/-! NAK syndromes (R296). -/

namespace Nak
def seq : Nat := 0
def remoteAccess : Nat := 1
def length : Nat := 2
def tagFail : Nat := 3
def format : Nat := 4
def translation : Nat := 5
def wait : Nat := 6
def internal : Nat := 7
end Nak

/-- The status a fatal syndrome names. -/
def nakStatus (s : Nat) : Nat :=
  if s = Nak.remoteAccess then St.remoteAccess else if s = Nak.length then St.length else if s = Nak.tagFail then St.tagFail
  else if s = Nak.format then St.format else if s = Nak.translation then St.translation else St.internal

/-- An ORT counter counts the Ethernet path only (R306). -/
def Chip.ortCount (c : Chip) (eth : Bool) (f : Fld) (k : Nat := 1) : Chip := if eth then c.count f k else c

/-- Send a NAK that names a PSN. -/
def Chip.sendNak (c : Chip) (n syn psn : Nat) : Chip :=
  match c.qpair n with
  | none => c
  | some q =>
    let c := c.ortCount q.eth F.ORT_NAK_TX_COUNT
    let p : OrtPkt := { op := Ort.nak, dest := q.peerQpn, src := n, ack := psn % 2 ^ 32, mlim := q.mgrant % 65536, blim := q.bgrant % 2 ^ 32, aux := syn }
    (c.qpSend n q p).setQp n { q with accepts := 0, ackAt := none, told := (q.mgrant, q.bgrant), toldAt := c.beat }

/-! ### Protection (R338, R339) -/

/-- The IV of a segment: the salt of the slot, and the sequence value. -/
def segIv (slot : KeySlot) (seq : Nat) : List Nat := keyBytes [slot.words.getD 8 0] ++ natBE 8 seq

/-- The additional authenticated data of a segment. -/
def segAad (op dest src off len va : Nat) : List Nat :=
  natBE 4 (op * 2 ^ 24 + dest) ++ natBE 4 src ++ natBE 4 off ++ natBE 4 len ++ natBE 8 va

def byteNats (l : List Byte) : List Nat := l.map (·.toNat)
def natBytes (l : List Nat) : List Byte := l.map (BitVec.ofNat 8)
def gcmKey (slot : KeySlot) : List Nat := keyBytes (slot.words.take 8)

/-- Bytes of a protected segment. -/
def segBytes : Nat := 65536

/-- Ciphertext and tag of the segment of a message that starts at `base`, under the queue pair's TX_KEY. -/
def Chip.sealSeg (c : Chip) (q : QPair) (n op seq base va : Nat) (pt : List Byte) : List Byte × List Byte :=
  let k := c.keySlot 0 q.txKey
  let (ct, tag) := Gcm.encrypt (gcmKey k) (segIv k seq) (segAad op q.peerQpn n base pt.length va) (byteNats pt)
  (natBytes ct, natBytes tag)

/-! ### Packets of send-queue entries -/

/-- The entry of an SQ with a ring index. -/
def Chip.sqEntry (c : Chip) (q : QPair) (idx : Nat) : Option Wqe :=
  match c.queue q.sq with
  | some s => s.ents.find? (fun e => e.idx == idx)
  | none => none

def Chip.onWqe (c : Chip) (qid idx : Nat) (f : Wqe → Wqe) : Chip :=
  c.onQueue qid (fun s => { s with ents := s.ents.map (fun e => if e.idx = idx then f e else e) })

/-- The packet of a record: a SEND or WRITE reads its buffer anew, so a resend does too (R340); a combine message carries its bytes. -/
def Chip.dataPkt (c : Chip) (n : Nat) (q : QPair) (r : PktRec) : OrtPkt × Chip :=
  let e := c.sqEntry q r.wqe
  let va := match e with | some e => e.va | none => 0
  let remote := match e with | some e => e.remote | none => 0
  let get (c : Chip) (lo len : Nat) : List Byte × Chip :=
    match r.xs with
    | some m => ((m.payload.drop lo).take len, c)
    | none => let (d, c) := c.vaRead q.owner (va + lo) len; (d.map (·.1), c)
  let base := r.off / segBytes * segBytes
  let segLen := min segBytes (r.total - base)
  let first := r.off == base
  let last := r.off + r.len == base + segLen
  let (data, tag, c) : List Byte × List Byte × Chip :=
    if q.prot then
      let (pt, c) := get c base segLen
      let (ct, tag) := c.sealSeg q n r.op (r.psn - (r.off - base) / q.mtu) base (if r.op = Ort.write then remote + base else 0) pt
      ((ct.drop (r.off - base)).take r.len, if last then tag else [], if last then c.count F.CPH_GCM_TX_SEG_COUNT else c)
    else let (d, c) := get c r.off r.len; (d, [], c)
  let msgFirst := r.off == 0
  let msgLast := r.off + r.len == r.total
  let xs := r.xs.getD ⟨0, 0, 0, 0, []⟩
  ({ op := r.op, dest := q.peerQpn, psn := r.psn % 2 ^ 32, prot := q.prot, segFirst := q.prot && first, segLast := q.prot && last,
     msgFirst := msgFirst, msgLast := msgLast, ackreq := msgLast
     aux := if r.op = Ort.combine then xs.ctx else if msgFirst then r.total else 0
     va := if r.op = Ort.write ∧ msgFirst then remote else 0, vlen := if r.op = Ort.write ∧ msgFirst then r.total else 0
     typ := xs.typ, flow := xs.flow, data := data, tag := tag }, c)

/-- Packets that answer a READ of `n` bytes (R292). -/
def respPkts (mtu n : Nat) : Nat := max 1 (ceilDiv n mtu)

/-- The request packet of a READ or atomic record, reduced by the responses already placed (R297). -/
def Chip.reqPkt (c : Chip) (q : QPair) (r : ReadRec) : OrtPkt :=
  let e := c.sqEntry q r.wqe
  let remote := match e with | some e => e.remote | none => 0
  let skip := min r.len (r.got * q.mtu)
  { op := r.op, dest := q.peerQpn, psn := (r.psn + r.got) % 2 ^ 32, msgFirst := true, msgLast := true, ackreq := true
    aux := if r.op = Ort.readReq then r.n - r.got else 0
    va := remote + r.off + skip, vlen := r.len - skip
    op1 := match e with | some e => e.op1 | none => 0
    op2 := match e with | some e => if r.op = Ort.cmpSwap then e.op2 else 0 | none => 0 }

/-! ### Timers of the sender (R298, R299) -/

/-- Beats in `us` microseconds. -/
def usBeats (us : Nat) : Nat := us * 900

/-- Work that keeps the retransmission timer running. -/
def QPair.busy (q : QPair) : Bool := q.sent != [] || q.reads != []

/-- The timer starts with a packet, and starts again when progress is made; it stops with nothing outstanding. -/
def Chip.armRtx (c : Chip) (n : Nat) (restart : Bool) : Chip :=
  c.onQp n (fun q =>
    if !q.busy then { q with rtxAt := none }
    else if restart ∨ q.rtxAt = none then { q with rtxAt := some (c.beat + usBeats q.rto) } else q)

/-- RTO within its bounds. -/
def rtoBound (us : Nat) : Nat := min 64000 (max 16 us)

/-- A round-trip sample of `r` µs. -/
def QPair.rttSample (q : QPair) (r : Nat) : QPair :=
  let (s, v) : Nat × Nat := match q.srtt with
    | none => (r, r / 2)
    | some s => ((7 * s + r) / 8, (3 * q.rttvar + (if s < r then r - s else s - r)) / 4)
  { q with srtt := some s, rttvar := v, rto := rtoBound (s + 4 * v), sample := none }

/-- The sample in progress ends when its packet is answered: `resp` by a response, else by an acknowledgement up to `psn`. -/
def Chip.rttDone (c : Chip) (n psn : Nat) (resp : Bool) : Chip :=
  c.onQp n (fun q => match q.sample with
    | some (p, isRead, at_) => if isRead = resp ∧ (if resp then p = psn else p < psn) then q.rttSample ((c.beat - at_) / 900) else q
    | none => q)

/-! ### Sending new packets (R286, R287, R294, R301) -/

/-- Byte-credit units of an unprotected packet. -/
def byteUnits (len : Nat) : Nat := max 1 (ceilDiv len 4096)

def QPair.mLeft (q : QPair) : Nat := subMod 16 q.mlim q.mused
def QPair.bLeft (q : QPair) : Nat := subMod 32 q.blim q.bused

/-- The byte-credit charge of a packet: its own units, or with PROT a whole segment's 16 at the segment's first packet. -/
def QPair.charge (q : QPair) (off len : Nat) : Nat := if q.prot then (if off % segBytes = 0 then 16 else 0) else byteUnits len

/-- Payload bytes of the next packet of a message: the MTU, never past a segment boundary. -/
def QPair.cut (q : QPair) (off total : Nat) : Nat :=
  let n := min q.mtu (total - off)
  if q.prot then min n (segBytes - off % segBytes) else n

/-- An entry ends. -/
def Chip.endWqe (c : Chip) (qid idx status bytes : Nat) : Chip :=
  c.onWqe qid idx (fun e => if e.res.isSome then e else { e with started := true, allSent := true, res := some status, bytes := bytes })

/-- Send the packet of a new record and charge it. -/
def Chip.sendRec (c : Chip) (n : Nat) (q : QPair) (r : PktRec) (m b : Nat) : Chip :=
  let (p, c) := c.dataPkt n q r
  let q := { q with next := q.next + r.n, sent := q.sent ++ [r], mused := (q.mused + m) % 65536, bused := (q.bused + b) % 2 ^ 32, waitM := none, waitB := none,
                    sample := if q.sample.isNone && p.ackreq then some (r.psn, false, c.beat) else q.sample }
  ((c.setQp n q).sendPkt n p).armRtx n false

/-- Credit is missing: the wait begins (R301). -/
def Chip.awaitCredit (c : Chip) (n : Nat) (msg : Bool) : Chip :=
  c.onQp n (fun q => if msg then { q with waitM := some (q.waitM.getD c.beat), waitB := none } else { q with waitB := some (q.waitB.getD c.beat), waitM := none })

/-- Before the first packet of a SEND or WRITE the whole source is translated and searched for poison (R138, R269). -/
def Chip.sourceOk (c : Chip) (n : Nat) (q : QPair) (e : Wqe) : Bool × Chip :=
  let (r, c) := c.localRange q.owner e.va e.len (e.va, e.len) .read 3 e.stall (.sqe n)
  match r with
  | .right => (false, c.endWqe q.sq e.idx St.localProtection 0)
  | .fail => (false, c.endWqe q.sq e.idx St.translation 0)
  | .wait => (false, c.onQp n (fun q => { q with stalled := true }))
  | .ok =>
    let (d, c) := c.vaRead q.owner e.va e.len
    if d.any (·.2) then (false, c.endWqe q.sq e.idx St.internal 0) else (true, c)

/-- The next packet of a SEND or WRITE entry, if nothing holds it back. -/
def Chip.sendData (c : Chip) (n : Nat) (q : QPair) (e : Wqe) : Bool × Chip :=
  let op := if e.op = 1 then Ort.send else Ort.write
  let len := q.cut e.off e.len
  let m := b2n (op == Ort.send && e.off == 0)
  let b := q.charge e.off len
  if q.mLeft < m then (false, c.awaitCredit n true)
  else if q.bLeft < b then (false, c.awaitCredit n false)
  else
    let (ok, c) := if e.off = 0 then c.sourceOk n q e else (true, c)
    if !ok then (false, c)
    else
      let c := c.sendRec n q ⟨q.next, 1, op, e.idx, e.off, len, e.len, none⟩ m b
      (true, c.onWqe q.sq e.idx (fun e => { e with off := e.off + len, allSent := decide (e.len ≤ e.off + len) }))

/-- The packet opcode of a READ or atomic entry (R268, R292). -/
def Wqe.reqOp (e : Wqe) : Nat := if e.op = 3 then Ort.readReq else if e.op = 4 then Ort.fetchAdd else Ort.cmpSwap

/-- The next request packet of a READ or atomic entry: at most READ_DEPTH are outstanding. -/
def Chip.sendReq (c : Chip) (n : Nat) (q : QPair) (e : Wqe) : Bool × Chip :=
  if q.depth ≤ q.reads.length then (false, c)
  else
    let len := if e.op = 3 then min (256 * q.mtu) (e.len - e.off) else 8
    let k := if e.op = 3 then respPkts q.mtu len else 1
    if 16384 < q.next - q.una + k then (false, c)
    else
      let r : ReadRec := ⟨q.next, k, e.reqOp, e.idx, e.off, len, 0, []⟩
      let p := c.reqPkt q r
      let q := { q with next := q.next + k, reads := q.reads ++ [r], sent := q.sent ++ [⟨r.psn, k, r.op, e.idx, e.off, len, e.len, none⟩],
                        sample := if q.sample.isNone then some (r.psn, true, c.beat) else q.sample }
      let c := ((c.setQp n q).sendPkt n p).armRtx n false
      (true, c.onWqe q.sq e.idx (fun e => { e with off := e.off + len, allSent := decide (e.op ≠ 3 ∨ e.len ≤ e.off + len) }))

/-- The stead whose level-3 traffic a queue pair carries (R245). -/
def Chip.xsStead (c : Chip) (n : Nat) : Option Nat := (List.range 16).find? (fun s => c.on F.CMB_XS_QP_VALID 0 s && c.rd F.CMB_XS_QP_QPN 0 s == n)

/-- The level-3 message whose packets this queue pair sends next: the oldest for its stead that it has not sent whole. -/
def Chip.xsNext (c : Chip) (n : Nat) (q : QPair) : Option XsMsg :=
  (c.xsStead n).bind (fun s =>
    let sent := q.sent.filterMap (fun r => if r.off + r.len = r.total then r.xs else none)
    (c.xsOut.filter (fun m => m.stead == s && !sent.contains m)).head?)

/-- The next packet of the level-3 messages that wait for this queue pair. -/
def Chip.sendXs (c : Chip) (n : Nat) (q : QPair) : Bool × Chip :=
  match c.xsNext n q with
  | none => (false, c)
  | some m =>
    let len := q.cut q.xsOff m.payload.length
    let b := q.charge q.xsOff len
    if q.bLeft < b then (false, c.awaitCredit n false)
    else
      let c := c.sendRec n q ⟨q.next, 1, Ort.combine, 0, q.xsOff, len, m.payload.length, some m⟩ 0 b
      (true, c.onQp n (fun q => { q with xsOff := if q.xsOff + len ≥ m.payload.length then 0 else q.xsOff + len }))

/-- Send the next new packet of a queue pair, if there is one. A failed entry, a stall, a pause, a full PSN window or a full CQ holds it back. -/
def Chip.sendNext (c : Chip) (n : Nat) : Bool × Chip :=
  match c.qpair n with
  | none => (false, c)
  | some q => match c.queue q.sq with
    | none => (false, c)
    | some s =>
      if q.st ≠ .connected ∨ q.stalled ∨ q.paused ∨ c.cqStalled s.cq ∨ 16384 ≤ q.next - q.una ∨ !c.rmeOn then (false, c)
      else match s.ents.find? (fun e => e.started && !e.allSent) with
        | some e => if e.isRead then c.sendReq n q e else c.sendData n q e
        | none => if q.combine then c.sendXs n q else (false, c)

/-- Send every new packet that may be sent. -/
def Chip.pumpGo (c : Chip) (n : Nat) : Nat → Chip
  | 0 => c
  | fuel + 1 =>
    match c.sendNext n with
    | (true, c) => c.pumpGo n fuel
    | (false, c) => c
def Chip.pump (c : Chip) (n : Nat) : Chip := c.pumpGo n 20000

/-! ### Completions of entries (R272, R273, R276, R278) -/

/-- The completion of a send-queue or receive-queue entry. -/
def wqeCqe (n qid : Nat) (rq : Bool) (e : Wqe) (count : Nat) : Cqe :=
  ⟨cqeWords (e.res.getD 0) (if rq then 0x10 else e.op) rq 0 n count (next32 e.idx) e.wrId e.bytes, some (qid, next32 e.idx), none⟩

/-- How many entries the completion of entry `k` covers, of the `k` ended BATCH entries before it (R272, R273): a failed entry's completion covers those
of them that ended OK, so any that were flushed complete before it. -/
def covered (flush : Nat) (run : List Wqe) (st : Nat) : Nat :=
  if st = St.ok ∨ st = flush then run.length + 1
  else
    let n := (run.reverse.dropWhile (fun e => e.res != some flush)).length
    if n = 0 then run.length + 1 else n

/-- Write the completions that are due of the oldest entries of a queue: one covers the ended BATCH entries of an SQ before it that did not fail.
Answers the status of the first failed entry it completed. -/
def Chip.settleGo (c : Chip) (n qid : Nat) (rq : Bool) : Nat → Option Nat → Option Nat × Chip
  | 0, bad => (bad, c)
  | fuel + 1, bad =>
    match c.queue qid, c.qpair n with
    | some s, some q =>
      let fine (st : Nat) : Bool := st == St.ok || st == q.flush
      let run := if rq || q.closing.isSome then [] else s.ents.takeWhile (fun (e : Wqe) => e.batch && (match e.res with | some st => fine st | none => false))
      match (s.ents[run.length]?).bind (·.res) with
      | none => (bad, c)
      | some last =>
        let k := covered q.flush run last
        match s.ents[k - 1]? with
        | none => (bad, c)
        | some e =>
          let st := e.res.getD 0
          let c := c.setQueue qid { s with ents := s.ents.drop k }
          let bad := if bad.isSome || fine st || st == St.aborted then bad else some st
          (c.complete s.cq (wqeCqe n qid rq e k)).settleGo n qid rq fuel bad
    | _, _ => (bad, c)

def Chip.settleQ (c : Chip) (n qid : Nat) (rq : Bool) : Option Nat × Chip :=
  match c.queue qid with
  | some s => c.settleGo n qid rq (s.ents.length + 1) none
  | none => (none, c)

/-- End every entry of a queue that has not ended. -/
def Chip.endAll (c : Chip) (qid status : Nat) : Chip :=
  c.onQueue qid (fun s => { s with ents := s.ents.map (fun e => if e.res.isSome then e else { e with started := true, allSent := true, res := some status }) })

/-- An event to the SQ's CQ (R270, R276, R282); it carries the SQ's consumer index as it is when the event is written. -/
def Chip.qpEvent (c : Chip) (n : Nat) (opcode status detail : Nat) : Chip :=
  match c.qpair n with
  | none => c
  | some q => match c.queue q.sq with
    | some s => c.complete s.cq ⟨cqeWords status opcode false detail n 0 s.c 0 0, none, some q.sq⟩
    | none => c

/-! Cause codes (R282). -/

namespace QpCause
def entry : Nat := 1
def doorbell : Nat := 2
def cqStall : Nat := 3
def retry : Nat := 4
def credit : Nat := 5
def peerNak : Nat := 6
def tag : Nat := 7
def peerReset : Nat := 8
def ringFault : Nat := 9
def connectTimeout : Nat := 10
end QpCause

/-- Frames of a queue pair that have not started are not sent. -/
def Chip.dropFrames (c : Chip) (p : ETx → Bool) : Chip :=
  { c with ports := c.ports.map (fun e => (e.1, { e.2 with txq := e.2.txq.filter (fun f => !p f) })) }

/-- RESET_NOTICE of a queue pair. -/
def Chip.sendNotice (c : Chip) (n : Nat) : Chip := c.sendPkt n { op := Ort.resetNotice, dest := 0 }

/-- The sender and the receiver of a queue pair stop: nothing is outstanding, nothing is held. -/
def QPair.halt (q : QPair) : QPair :=
  { q with sent := [], reads := [], rtxAt := none, sample := none, waitM := none, waitB := none, stalled := false, paused := false, inStall := none, respStall := none,
           breturn := q.breturn + (if q.seg = [] then 0 else 16), seg := [], ackAt := none, accepts := 0, xsOff := 0, xsBuf := [] }

/-- The sender holds no credit: its limits stand where it has used them up (R278). -/
def QPair.noCredit (q : QPair) : QPair := { q with mlim := q.mused, blim := q.bused }

/-- A queue pair enters ERROR (R276, R278): `first` is the status of a failed entry already completed. Entries not yet ended take FLUSHED, or
INSTANCE_RESET where a RESET_NOTICE is the cause, which takes the credit too. -/
def Chip.enterError (c : Chip) (n cause : Nat) (first : Option Nat) : Chip :=
  match c.qpair n with
  | none => c
  | some q =>
    let flush := if cause = QpCause.peerReset then St.instanceReset else St.flushed
    let c := if cause = QpCause.peerReset ∨ cause = QpCause.connectTimeout then c else c.sendNotice n
    let q := if cause = QpCause.peerReset then q.halt.noCredit else q.halt
    let c := c.setQp n { q with st := .error, cause := cause, flush := flush }
    let c := (c.count F.RME_QERR_COUNT).wr F.RME_LAST_ERR_CAUSE cause
    let c := c.wr F.RME_LAST_ERR_QPN n
    let c := if (c.xsStead n).isSome then c.event Flt.combine else c
    let c := if cause = QpCause.connectTimeout then c else c.qpEvent n opErrorEvent (first.getD St.flushed) cause
    let c := c.endAll q.sq flush
    let c := (c.settleQ n q.sq false).2
    let c := c.endAll q.rq flush
    (c.settleQ n q.rq true).2

/-- A queue pair enters ERROR: frames of it that have not started are not sent. -/
def Chip.qpErrorAs (c : Chip) (n cause : Nat) (first : Option Nat) : Chip := (c.dropFrames (fun f => f.qpn == n)).enterError n cause first

/-- A queue pair answers with a fatal NAK that names a PSN and enters ERROR (R296): the NAK leaves, earlier frames that have not started do not. -/
def Chip.nakError (c : Chip) (n syn psn cause : Nat) (first : Option Nat) : Chip :=
  ((c.dropFrames (fun f => f.qpn == n)).sendNak n syn psn).enterError n cause first

/-- An entry fails and its queue pair enters error: the failed entry ends first, every older one that has not ended with FLUSHED. -/
def Chip.qpFail (c : Chip) (n cause idx st : Nat) : Chip :=
  match c.qpair n with
  | none => c
  | some q =>
    let c := c.onQueue q.sq (fun s => { s with ents := s.ents.map (fun e =>
      if e.res.isSome then e
      else if e.idx = idx then { e with started := true, allSent := true, res := some st }
      else if span e.idx idx < 2 ^ 31 then e else { e with started := true, allSent := true, res := some St.flushed }) })
    let (bad, c) := c.settleQ n q.sq false
    c.enterError n cause (some (bad.getD st))

/-- A CONNECTED queue pair enters error, with the entry that failed where there is one. -/
def Chip.qpError (c : Chip) (n cause : Nat) (failed : Option (Nat × Nat) := none) : Chip :=
  match c.qpair n with
  | none => c
  | some q =>
    if q.st ≠ .connected ∧ q.st ≠ .connecting then c
    else match failed with
      | none => c.qpErrorAs n cause none
      | some (idx, st) => (c.dropFrames (fun f => f.qpn == n)).qpFail n cause idx st

/-- Write the completions due of a queue pair's SQ; a failed entry puts the queue pair into error. A malformed entry fails when its turn comes. -/
def Chip.settleSq (c : Chip) (n : Nat) : Chip :=
  match c.qpair n with
  | none => c
  | some q =>
    let c : Chip := match c.queue q.sq with
      | some s => match s.ents.find? (fun (e : Wqe) => !e.allSent && e.res.isNone) with
        | some e => if q.st = .connected ∧ !e.started ∧ e.badSq then c.endWqe q.sq e.idx St.format 0 else c
        | none => c
      | none => c
    let (bad, c) := c.settleQ n q.sq false
    match bad with
    | some st => if q.st = .connected then c.qpErrorAs n (if st = St.tagFail then QpCause.tag else QpCause.entry) (some st) else c
    | none => c

/-- Send what may be sent, then write what is due. -/
def Chip.qpStep (c : Chip) (n : Nat) : Chip := (c.pump n).settleSq n

/-- A CONNECTED queue pair has something to send. -/
def Chip.canSend (c : Chip) (n : Nat) : Bool :=
  match c.qpair n with
  | some q => q.st == .connected && ((q.combine && c.xsOut != []) ||
      (match c.queue q.sq with | some s => s.ents.any (fun e => e.started && !e.allSent) | none => false))
  | none => false

/-- What a queue pair does once something it waited for has come: it sends with its context on the die, and writes what is due. -/
def Chip.goOn (c : Chip) (n : Nat) : Chip := if c.canSend n then c.withCtx n .send (fun c => c.qpStep n) else c.settleSq n

/-! ### Acknowledgements and limits (R295, R298, R301) -/

/-- The extended PSN near `base` that a header's 32 bits name. -/
def extPsn (base psn : Nat) : Nat := base + subMod 32 psn base

/-- SENDs and WRITEs whose last packet is acknowledged end OK; acknowledged level-3 messages leave. -/
def Chip.ackRec (c : Chip) (q : QPair) (r : PktRec) : Chip :=
  if r.off + r.len < r.total then c
  else match r.xs with
    | some m => { c with xsOut := c.xsOut.erase m }
    | none => if r.op = Ort.send ∨ r.op = Ort.write then c.endWqe q.sq r.wqe St.ok r.total else c

/-- A header's ACK_PSN: everything before it is placed at the peer. -/
def Chip.takeAck (c : Chip) (n ack : Nat) : Chip :=
  match c.qpair n with
  | none => c
  | some q =>
    let a := extPsn q.una ack
    if a ≤ q.una ∨ q.next < a then c
    else
      let done := q.sent.filter (fun r => r.psn + r.n ≤ a)
      let c := done.foldl (fun c r => c.ackRec q r) c
      let c := c.setQp n { q with una := a, sent := q.sent.filter (fun r => a < r.psn + r.n), retries := 0, paused := false }
      (c.rttDone n a false).armRtx n true

/-- The charges of the next packet that waits to be sent for the first time: message credit and byte credit (R301). -/
def Chip.nextCharge (c : Chip) (n : Nat) (q : QPair) : Nat × Nat :=
  match (c.queue q.sq).bind (fun s => s.ents.find? (fun e => e.started && !e.allSent)) with
  | some e => if e.isRead then (0, 0) else (b2n (e.op == 1 && e.off == 0), q.charge e.off (q.cut e.off e.len))
  | none => match c.xsNext n q with
    | some m => (0, q.charge q.xsOff (q.cut q.xsOff m.payload.length))
    | none => (0, 0)

/-- A wait for credit ends when the credit has come, whatever else holds the packet back (R301). -/
def QPair.endWaits (q : QPair) (m b : Nat) : QPair :=
  { q with waitM := if q.mLeft < m then q.waitM else none, waitB := if q.bLeft < b then q.waitB else none }

/-- A header's credit limits, when they are later than those held. -/
def Chip.takeLimits (c : Chip) (n mlim blim : Nat) : Chip :=
  c.onQp n (fun q =>
    let q := { q with
      mlim := if subMod 16 mlim q.mlim < 2 ^ 15 then mlim else q.mlim
      blim := if subMod 32 blim q.blim < 2 ^ 31 then blim else q.blim }
    let (m, b) := c.nextCharge n q
    q.endWaits m b)

/-! ### Go-back-N (R297, R298) -/

/-- A reduced READ record: what is still missing. -/
def ReadRec.rest (mtu : Nat) (r : ReadRec) : ReadRec :=
  let skip := min r.len (r.got * mtu)
  { r with psn := r.psn + r.got, n := r.n - r.got, off := r.off + skip, len := r.len - skip, got := 0, held := [] }

/-- Send again every unacknowledged packet, and a request for every response that is missing, in PSN order. -/
def Chip.resendAll (c : Chip) (n : Nat) : Chip :=
  match c.qpair n with
  | none => c
  | some q =>
    let reads := q.reads.map (ReadRec.rest q.mtu)
    let q := { q with reads := reads, sample := none, paused := false }
    let c := c.setQp n q
    let old := reads.filter (fun r => r.psn < q.una)
    let c := old.foldl (fun c r => (c.ortCount q.eth F.ORT_RETX_COUNT).sendPkt n (c.reqPkt q r)) c
    let c := q.sent.foldl (fun c r =>
      if r.op = Ort.readReq ∨ r.op = Ort.fetchAdd ∨ r.op = Ort.cmpSwap then
        match reads.find? (fun x => r.psn ≤ x.psn && x.psn < r.psn + r.n) with
        | some x => (c.ortCount q.eth F.ORT_RETX_COUNT).sendPkt n (c.reqPkt q x)
        | none => c
      else let (p, c) := c.dataPkt n q r; (c.ortCount q.eth F.ORT_RETX_COUNT).sendPkt n p) c
    c.armRtx n true

/-- The entry that owns an extended PSN, else the oldest entry with packets or responses outstanding. -/
def QPair.ownerOfPsn (q : QPair) (psn : Nat) : Option Nat :=
  match q.sent.find? (fun r => r.psn ≤ psn && psn < r.psn + r.n && r.xs.isNone), q.reads.find? (fun r => r.psn ≤ psn && psn < r.psn + r.n) with
  | some r, _ => some r.wqe
  | none, some r => some r.wqe
  | none, none => match q.reads.head? with
    | some r => some r.wqe
    | none => match q.sent.head? with
      | some r => if r.xs.isNone then some r.wqe else none
      | none => none

/-- One more retry: beyond the limit the entry of the oldest unacknowledged PSN fails; otherwise everything is sent again. -/
def Chip.retry (c : Chip) (n : Nat) : Chip :=
  match c.qpair n with
  | none => c
  | some q =>
    if q.retryLimit ≤ q.retries then
      match q.ownerOfPsn q.una with
      | some i => c.qpError n QpCause.retry (some (i, St.retryExceeded))
      | none => c.qpError n QpCause.retry
    else (c.setQp n { q with retries := q.retries + 1 }).resendAll n

end Sys2Proof.Machine
end

