-- ==== Sys2Proof/Machine/Rme.lean ====
section
/-!
DEFINITION. Machine/Rme.lean: doorbells, the fetch of work entries, the send-queue entries, ring faults, CQ stalls, and the reset of a queue pair
(R261–R278, R286, R294, R337).
-/
namespace Sys2Proof.Machine

/-! ### Errors of queues (R262, R265) -/

/-- An admin queue enters error: it performs no further command until its owner is reset. -/
def Chip.admError (c : Chip) (owner : Nat) : Chip :=
  if c.admErr owner then c
  else if owner = 512 then c.wr F.RME_STATUS_ADMQ_ERR 1
  else (c.wr F.INS_ADMQ_CTRL_ADMQ_ERR 1 owner).instEvent owner 3

/-- A queue enters error for a cause: an admin queue, or the queue pair of an SQ or RQ. -/
def Chip.queueError (c : Chip) (qid cause : Nat) : Chip :=
  match c.queue qid with
  | none => c
  | some q =>
    if q.kind = .admin then c.admError (qOwner qid)
    else
      let c := c.onQueue qid (fun q => { q with err := true })
      match q.qp with
      | some n => match c.qpair n with
        | some p => if p.st = .connected then c.qpError n cause else c
        | none => c
      | none => c

/-- The queues that complete to a ring. -/
def Chip.completeTo (c : Chip) (cq : Nat) : List Nat :=
  if cq % 8192 = 1 then [cq - 1] else (c.queues.filter (fun e => (e.2.kind == .sq || e.2.kind == .rq) && e.2.cq == cq)).map (·.1)

/-- The queue pairs whose SQ or RQ completes to a ring. -/
def Chip.qpsOn (c : Chip) (cq : Nat) : List Nat :=
  (c.qps.filter (fun e => [e.2.sq, e.2.rq].any (fun w => match c.queue w with | some q => q.cq == cq | none => false))).map (·.1)

/-- A ring access failed: its queue, or every queue that completes to the ring, enters error. -/
def Chip.ringFailed (c : Chip) (qid : Nat) : Chip :=
  match c.queue qid with
  | none => c
  | some q => if q.kind = .cq then (c.completeTo qid).foldl (fun c w => c.queueError w QpCause.ringFault) c else c.queueError qid QpCause.ringFault

/-- The ring failures of a command take effect as it ends. -/
def Chip.ringFails (c : Chip) : Chip :=
  let l := c.ringFail
  if l = [] then c else { l.foldl Chip.ringFailed c with ringFail := [] }

/-! ### Fetching entries (R262, R267) -/

/-- Fetch the next entry of a ring. -/
def Chip.fetchOne (c : Chip) (qid : Nat) : Bool × Chip :=
  match c.queue qid with
  | none => (false, c)
  | some q =>
    if q.f = q.p ∨ q.faulted then (false, c)
    else
      let (r, c) := c.ringRange qid (q.slotVa q.f) 64 .read
      match r with
      | .ok =>
        let (d, c) := c.vaRead (qOwner qid) (q.slotVa q.f) 64
        (true, c.onQueue qid (fun s => { s with f := next32 q.f, ents := s.ents ++ [{ idx := q.f, words := wordsOf 16 (d.map (·.1)) }] }))
      | .wait => (false, c.onQueue qid (fun s => { s with faulted := true }))
      | _ => (false, { c with ringFail := c.ringFail ++ [qid] })

/-! ### RESET_QP and DESTROY_QP (R277, R337) -/

/-- An admin completion (R279): the command at the head of the owner's queue is done. -/
def Chip.admDone (c : Chip) (owner status detail r0 r1 : Nat) : Chip :=
  let q := qidOf owner 0
  match c.queue q with
  | none => c
  | some s => match s.ents with
    | [] => c
    | e :: rest =>
      let c : Chip := { c.setQueue q { s with ents := rest } with admWait := Table.erase owner c.admWait }
      c.complete (qidOf owner 1) ⟨[status + e.op * 256 + field (e.w 0) 16 16 * 65536, r0, r1, detail, 0, 0, 0, 0], some (q, next32 e.idx), none⟩

/-- The slot that a queue pair bound for transmission is SPENT once the binding ends. -/
def Chip.spendKey (c : Chip) (n : Nat) : Chip :=
  { c with keys := c.keys.map (fun e => if e.2.tx = some n then (e.1, { e.2 with tx := none, st := if e.2.st = .valid then .spent else e.2.st }) else e) }

/-- A queue pair as CREATE_QP made it, in IDLE. -/
def QPair.fresh (q : QPair) : QPair :=
  { owner := q.owner, sq := q.sq, rq := q.rq, eth := q.eth, prot := q.prot, rWrite := q.rWrite, rRead := q.rRead, rAtomic := q.rAtomic,
    stallIn := q.stallIn, combine := q.combine, pin := q.pin, winVa := q.winVa, winLen := q.winLen, cause := q.cause, closing := q.closing }

/-- A queue is empty: its consumer stands at its producer. -/
def Queue.emptied (q : Queue) : Queue := { q with c := q.p, f := q.p, ents := [], err := false, faulted := false }

/-- A queue pair is gone: its queues stay, empty, and its context leaves the cache. -/
def Chip.removeQp (c : Chip) (n : Nat) : Chip :=
  match c.qpair n with
  | none => c
  | some q =>
    let c := (c.spendKey n).onQueue q.sq (fun s => { s.emptied with qp := none })
    let c := c.onQueue q.rq (fun s => { s.emptied with qp := none })
    { c with qps := Table.erase n c.qps, ctxCache := c.ctxCache.filter (·.qpn ≠ n), ctxMiss := c.ctxMiss.filter (· ≠ n),
             ctxOps := c.ctxOps.filter (·.1 ≠ n) }

/-- The last completion of a reset is written: the queue pair is IDLE, or gone, and the admin command completes. -/
def Chip.closeEnd (c : Chip) (n : Nat) (flushed : Bool) : Chip :=
  match c.qpair n with
  | none => c
  | some q => match q.closing with
    | none => c
    | some k =>
      let c := if k.destroy then c.removeQp n
        else ((((c.spendKey n).setQp n { q.fresh with closing := none }).onQueue q.sq Queue.emptied).onQueue q.rq Queue.emptied)
      let c := if Table.find? q.owner c.admWait = some (.close n) then c.admDone q.owner (if flushed then St.flushed else St.ok) 0 0 0 else c
      c.grantAll n

/-- Entries of a queue complete ABORTED one by one, each fetched first, while the CQ takes them. -/
def Chip.abortGo (c : Chip) (n qid : Nat) (rq : Bool) : Nat → Chip
  | 0 => c
  | fuel + 1 =>
    let c := c.onQueue qid (fun s => { s with ents := s.ents.map (fun e => { e with started := true, allSent := true, res := some St.aborted }) })
    let c := (c.settleQ n qid rq).2
    match c.queue qid with
    | none => c
    | some s =>
      if c.cqStalled s.cq then c
      else match c.fetchOne qid with
        | (true, c) => c.abortGo n qid rq fuel
        | (false, c) => c

/-- Every entry of a queue is completed, and every completion written. -/
def Chip.drained (c : Chip) (qid : Nat) : Bool :=
  match c.queue qid with
  | some s => s.f == s.p && s.ents == [] && !c.cqWaiting s.cq
  | none => true

/-- A reset goes on: the SQ, then the RQ, then the end. -/
def Chip.closeStep (c : Chip) (n : Nat) : Chip :=
  match c.qpair n with
  | none => c
  | some q =>
    if q.closing = none then c
    else
      let c := c.abortGo n q.sq false 65537
      if !c.drained q.sq then c
      else
        let c := c.abortGo n q.rq true 65537
        if c.drained q.rq then c.closeEnd n false else c

/-- RESET_QP or DESTROY_QP begins: the peer is told, credits and PSNs are discarded. -/
def Chip.closeStart (c : Chip) (n : Nat) (destroy : Bool) : Chip :=
  match c.qpair n with
  | none => c
  | some q =>
    let c := c.dropFrames (fun f => f.qpn == n)
    let c := if q.st = .connected ∨ q.st = .connecting then c.sendNotice n else c
    let c := c.setQp n { q.fresh with closing := some { destroy := destroy, since := c.beat } }
    (c.spendKey n).closeStep n

/-! ### WORK_ENTRY_FETCH -/

/-- Fetch the next entry of a work ring or an admin queue, where its owner is served and nothing stalls the queue (R267, R274, R279). -/
def Chip.workEntryFetch (c : Chip) (qid : Nat) : Chip :=
  match c.queue qid with
  | none => c
  | some s => match s.kind with
    | .cq => c
    | .admin =>
      let o := qOwner qid
      if c.admOn o && !c.admErr o && !c.gap && s.ents == [] && !c.cqStalled (qid + 1) then (c.fetchOne qid).2.ringFails else c
    | _ => match s.qp with
      | none => c
      | some n => match c.qpair n with
        | none => c
        | some q =>
          if !c.rmeOn || !c.ownerServed q.owner || q.draining || c.cqStalled s.cq then c
          else if q.closing.isSome then (c.closeStep n).ringFails
          else if q.st = .connected then c.withCtx n (.fetch qid) (fun c => ((c.fetchOne qid).2.qpStep n).ringFails)
          else if q.st = .error then
            c.withCtx n (.fetch qid) (fun c =>
              let (ok, c) := c.fetchOne qid
              (if ok then ((c.endAll qid q.flush).settleQ n qid (s.kind == .rq)).2 else c).ringFails)
          else c

/-! ### Doorbells (R264–R266) -/

/-- A doorbell that is a violation is recorded in the HST header, or through a VF in the INS header (R45). -/
def Chip.bellViol (c : Chip) (src qid : Nat) (form : BellForm) (why : Viol) : Chip :=
  let o := if form = .high then 4 else 0
  if src = 0x3FF then c.violation 0x78 src (8 * qid + o) 1 1 why else c.violation (0x100 + src) src (8 * (qid % 8192) + o) 1 1 why

/-- A doorbell reaches its queue: the module serves data, the requester is the manager or the queue's owner, and its instance is in service. A
requester that is excluded draws a violation, except through a VF that does not exist or is RESETTING (R43, R369, R371); so does a write of the high word
alone (R264). -/
def Chip.doorbell (c : Chip) (src qid : Nat) (form : BellForm) (f : Chip → Chip) : Chip :=
  if !c.hostUp then c
  else if src ≠ 0x3FF ∧ (512 ≤ src ∨ qOwner qid ≠ src ∨ !c.on F.INS_STATUS_VF_PRESENT src ∨ c.resetting src) then c
  else if c.mst = .off then c
  else if form = .high then c.bellViol src qid form .size
  else if c.dataState && (src == 0x3FF || c.ownerServed src) then f c
  else c.bellViol src qid form .state

/-- RECV entries that a doorbell adds are message credit (R300). -/
def Chip.addRecvs (c : Chip) (q : Queue) (k : Nat) : Chip :=
  match q.qp with
  | some n => if q.kind = .rq then c.onQp n (fun p => if p.st = .connected ∨ p.st = .connecting then { p with mgrant := p.mgrant + k } else p) else c
  | none => c

/-- DOORBELL_PRODUCER (R265). -/
def Chip.doorbellProducer (c : Chip) (src qid : Nat) (form : BellForm) (d : Nat) : Chip :=
  c.doorbell src qid form (fun c =>
    match c.queue qid with
    | none => c.bellViol src qid form .state
    | some q =>
      if q.kind = .cq then c
      else
        let d := d % 2 ^ 32
        if span q.p q.c ≤ span d q.c ∧ span d q.c ≤ 2 ^ q.log2 then (c.onQueue qid (fun q => { q with p := d })).addRecvs q (span d q.p)
        else ((c.bellViol src qid form .state).queueError qid QpCause.doorbell).ringFails)

/-- Queue pairs whose ring has space again go on. -/
def Chip.ringFreed (c : Chip) (cq : Nat) : Chip :=
  if c.cqStalled cq then c
  else (c.qpsOn cq).foldl (fun c n => (c.closeStep n).goOn n) c

/-- DOORBELL_CONSUMER (R264, R266): the consumer index advances, ARM of a write of the whole word arms the ring, and completions that waited are
written. -/
def Chip.doorbellConsumer (c : Chip) (src qid : Nat) (form : BellForm) (d : Nat) (arm : Bool) : Chip :=
  c.doorbell src qid form (fun c =>
    match c.queue qid with
    | none => c.bellViol src qid form .state
    | some q =>
      if q.kind ≠ .cq then c
      else
        let d := d % 2 ^ 32
        if span d q.c ≤ span q.p q.c then
          (((c.onQueue qid (fun q => { q with c := d, armed := q.armed || (arm && form == .whole), err := false })).flushCq qid).ringFreed qid).ringFails
        else c.bellViol src qid form .state)

/-! ### Send-queue entries (R268, R269, R283–R286, R294) -/

/-- The next entry of an SQ starts: it is of the given opcode, every earlier one has been sent, and with FENCE every earlier READ and atomic
has completed. -/
def Chip.sqStart (c : Chip) (n op : Nat) : Chip :=
  match c.qpair n with
  | none => c
  | some q => match c.queue q.sq with
    | none => c
    | some s =>
      let before := s.ents.takeWhile (·.started)
      match s.ents.find? (fun e => !e.started) with
      | none => c
      | some e =>
        if !c.rmeOn || q.st != .connected || q.stalled || q.draining || c.cqStalled s.cq || e.op != op || e.badSq ||
           before.any (fun e => !e.allSent || (e.res.isSome && e.res != some St.ok)) || (e.fence && before.any (fun e => e.isRead && e.res.isNone)) then c
        else
          c.withCtx n (.start op) (fun c =>
            let c := (c.count F.RME_OPS_COUNT).onWqe q.sq e.idx (fun e => { e with started := true })
            (if op = 0 then (c.endWqe q.sq e.idx St.ok 0).settleSq n else c.qpStep n).ringFails)

/-! ### CQ stalls (R274, R277) -/

/-- An ABORTED completion of a queue pair. -/
def abortedOf (q : QPair) (e : Cqe) : Bool :=
  e.words.getD 0 0 % 256 == St.aborted && (match e.wq with | some (w, _) => w == q.sq || w == q.rq | none => false)

/-- CQ_STALL_TIMEOUT: a queue pair whose CQ has been full for 10 ms enters error; one that is being reset discards the ABORTED
completions that are left. -/
def Chip.cqStallTimeout (c : Chip) (n : Nat) : Chip :=
  match c.qpair n with
  | none => c
  | some q =>
    let rings := [q.sq, q.rq].filterMap (fun w => (c.queue w).map (·.cq))
    match rings.filterMap (fun r => match c.queue r with | some x => if x.full then x.since else none | none => none) with
    | [] => c
    | since :: _ =>
      match q.closing with
      | some k =>
        let c := c.advanceTo (max since k.since + nsBeats 10000000)
        let c := rings.foldl (fun c r => c.onQueue r (fun x => { x with waiting := x.waiting.filter (fun e => !abortedOf q e) })) c
        ((c.closeEnd n true)).ringFails
      | none =>
        if q.st ≠ .connected then c
        else ((c.advanceTo (since + nsBeats 10000000)).qpError n QpCause.cqStall).ringFails

end Sys2Proof.Machine
end

