-- ==== Sys2Proof/Machine/Recv.lean ====
section
/-!
DEFINITION. Machine/Recv.lean: what a received RME packet does: requests and their placement, responses, acknowledgements, NAKs, credit,
connection set-up, reset notices; and the timers of a queue pair (R275, R278, R283–R287, R290, R292, R295–R304, R342, R343).
-/
namespace Sys2Proof.Machine

/-! ### Where packets wait -/

/-- The packet of a VC1 frame (R291); none where it is unreadable. -/
def framePkt (f : LFrame) : Option OrtPkt := if f.typ = 1 then OrtPkt.parse f.payload else none

/-- The packet of an Ethernet frame and where it came from; a bad UDP checksum makes it unreadable (R291). -/
def EFrame.pkt (f : EFrame) (port : Nat) : Option (PktFrom × Option OrtPkt) :=
  match f.body with
  | .ort v6 _ sip dip _ _ csum udp => some (.eth port f.smac v6 sip dip (f.vlan.map (·.2)), if csum = .bad then none else OrtPkt.parse udp)
  | _ => none

/-- Packets of a buffer that a row can take now: all but those whose queue pair waits for its context, which hits of other queue pairs pass (R288). -/
def Chip.unheld (c : Chip) (p : Option OrtPkt) : Bool := match p with | some p => !c.ctxMiss.contains p.dest | none => true

/-- The oldest RME packet of a receive buffer among those wanted: where it came from, and its bytes as a packet. -/
def Chip.rxHead (c : Chip) (want : Option OrtPkt → Bool) : RxAt → Option (PktFrom × Option OrtPkt)
  | .self => (c.loopRx.find? (fun p => want (some p))).map (fun p => (.self, some p))
  | .link k => ((c.link k).rx.find? (fun r => r.frame.vc == 1 && !r.placed && !r.forward && want (framePkt r.frame))).map (fun r =>
      (.module r.frame.src, framePkt r.frame))
  | .eth port sub prio => ((c.eport (portKey port sub)).rx.find? (fun r =>
      r.prio == prio && !r.taken && (match r.frame.pkt port with | some p => want p.2 | none => true))).bind (fun r => r.frame.pkt port)

/-- The first frame of a port's buffer with a priority, among those wanted, that no client has taken is taken. -/
def takeErx (prio : Nat) (want : EFrame → Bool) : List ERx → List ERx
  | [] => []
  | r :: t => if r.prio = prio ∧ !r.taken ∧ want r.frame then { r with taken := true } :: t else r :: takeErx prio want t

/-- The RME takes the oldest packet of a buffer among those wanted: it places or discards it. -/
def Chip.rxTake (c : Chip) (want : Option OrtPkt → Bool) : RxAt → Chip
  | .self => { c with loopRx := c.loopRx.eraseP (fun p => want (some p)) }
  | .link k => c.clientTakes k (fun f => f.vc == 1 && want (framePkt f))
  | .eth port sub prio => c.onPort (portKey port sub) (fun e =>
      { e with rx := takeErx prio (fun f => match f.pkt port with | some p => want p.2 | none => true) e.rx })

def PktFrom.isEth : PktFrom → Bool
  | .eth .. => true
  | _ => false

/-! ### Discards (R275, R292, R303) -/

/-- A discarded packet is counted on the Ethernet path (R275, R306). -/
def Chip.ortDrop (c : Chip) (src : PktFrom) : Chip := c.ortCount src.isEth F.ORT_DROP_COUNT

/-- What R303 counts a source by: its address. -/
def PktFrom.address : PktFrom → PktFrom
  | .eth _ _ v6 ip _ _ => .eth 0 0 v6 ip 0 none
  | p => p

/-- RESET_NOTICE to the sender of a packet, at most once in 1 ms for each source and QPN. -/
def Chip.noticeBack (c : Chip) (src : PktFrom) (p : OrtPkt) : Chip :=
  let key := src.address
  if c.notices.any (fun x => x.1 == key && x.2.1 == p.dest && decide (c.beat < x.2.2 + nsBeats 1000000)) then c
  else
    let c : Chip := { c with notices := (key, p.dest, c.beat) :: c.notices.filter (fun x => !(x.1 == key && x.2.1 == p.dest)) }
    c.replySend src { op := Ort.resetNotice, dest := p.src, src := p.dest }

/-- A fatal NAK: the PSN is named, and this queue pair enters error too (R296). -/
def Chip.fatalNak (c : Chip) (n syn psn : Nat) : Chip := c.nakError n syn psn QpCause.peerNak none

/-! ### Acceptance (R295, R296, R343) -/

/-- `k` accepted packets are acknowledged at once, at the sixteenth, or after 2 µs. -/
def Chip.accepted (c : Chip) (n k : Nat) (ackreq : Bool) : Chip :=
  match c.qpair n with
  | none => c
  | some q =>
    if ackreq ∨ 16 ≤ q.accepts + k then c.sendAck n
    else c.setQp n { q with accepts := q.accepts + k, ackAt := some (q.ackAt.getD (c.beat + usBeats 2)) }

/-- Byte credit comes back as capacity frees (R300, R302). -/
def Chip.returnUnits (c : Chip) (n k : Nat) : Chip := (c.onQp n (fun q => { q with breturn := min q.bgrant (q.breturn + k) })).grantAll n

/-- A packet later than expected: held packets of its segment are discarded, and NAK SEQ goes at most once in 2 µs for one expected PSN. -/
def Chip.gapNak (c : Chip) (n : Nat) : Chip :=
  match c.qpair n with
  | none => c
  | some q =>
    let e := q.ackPsn
    let c := c.setQp n { q with exp := e, seg := [] }
    let quiet := match q.nakAt with | some (p, b) => p == e && decide (c.beat < b + usBeats 2) | none => false
    if quiet then c else (c.sendNak n Nak.seq e).onQp n (fun q => { q with nakAt := some (e, c.beat) })

/-! ### Placement of SEND and WRITE (R283–R285) -/

/-- An entry of the RQ that can take a message: fetched where it was not yet. -/
def Chip.recvEntry (c : Chip) (q : QPair) : Option Wqe × Bool × Chip :=
  match c.queue q.rq with
  | none => (none, true, c)
  | some s => match s.ents.head? with
    | some e => (some e, true, c)
    | none =>
      if c.cqStalled s.cq then (none, false, c)
      else if s.f = s.p then (none, true, c)
      else match c.fetchOne q.rq with
        | (true, c) => ((c.queue q.rq).bind (fun s => s.ents.head?), true, c)
        | (false, c) => (none, false, c)

/-- The RECV in progress ends. -/
def Chip.endRecv (c : Chip) (n : Nat) (q : QPair) (e : Wqe) (status bytes : Nat) : Chip :=
  let c := (c.count F.RME_OPS_COUNT).endWqe q.rq e.idx status bytes
  (c.settleQ n q.rq true).2

/-- How placing bytes went: placed, not now (the packet stays where it is), waiting for a fault reply, or not performed with a syndrome, and the status of
the RECV entry that failed with it. -/
inductive Placed | yes | no | wait | discard | bad (syn : Nat) (recv : Option Nat := none)
  deriving DecidableEq, Repr

/-- Place bytes of a SEND at the message's offset in the current RECV buffer. -/
def Chip.placeSend (c : Chip) (n : Nat) (q : QPair) (last : Bool) (data : List Byte) : Placed × Chip :=
  let (e, now, c) := c.recvEntry q
  match e with
  | none => (if now then .discard else .no, c)
  | some e =>
    if e.badRq then (.bad Nak.format (some St.format), c.endRecv n q e St.format 0)
    else
      let room := e.len - q.msgOff
      let fit := data.take room
      let (r, c) := c.localRange q.owner (e.va + q.msgOff) fit.length (e.va, e.len) .write 4 q.stallIn (.inbound n)
      match r with
      | .wait => (.wait, c)
      | .right => (.bad Nak.remoteAccess (some St.localProtection), c.endRecv n q e St.localProtection q.msgOff)
      | .fail => (.bad Nak.translation (some St.translation), c.endRecv n q e St.translation q.msgOff)
      | .ok =>
        let c := c.vaWrite q.owner (e.va + q.msgOff) (clean fit)
        if room < data.length then (.bad Nak.length (some St.length), c.endRecv n q e St.length e.len)
        else
          let c := c.onQp n (fun q => { q with msgOff := if last then 0 else q.msgOff + data.length })
          (.yes, if last then c.endRecv n q e St.ok (q.msgOff + data.length) else c)

/-- A range lies in the queue pair's window. -/
def QPair.inWindow (q : QPair) (va n : Nat) : Bool := decide (q.winVa ≤ va ∧ va + n ≤ q.winVa + q.winLen)

/-- The checks of R285 of an inbound access: the right of the queue pair, its window, and the pages. -/
def Chip.inboundOk (c : Chip) (n : Nat) (q : QPair) (right : Bool) (va len : Nat) (a : Acs) : Placed × Chip :=
  if !right ∨ !q.inWindow va len then (.bad Nak.remoteAccess, c)
  else
    let (r, c) := c.range q.owner va len a 4 q.stallIn (.inbound n)
    (match r with | .ok => .yes | .wait => .wait | .right => .bad Nak.remoteAccess | .fail => .bad Nak.translation, c)

/-- Place bytes of a WRITE; its first packet is checked for the whole range. -/
def Chip.placeWrite (c : Chip) (n : Nat) (q : QPair) (first last : Bool) (va len : Nat) (data : List Byte) : Placed × Chip :=
  let base := if first then va else q.msgVa
  let (r, c) := if first then c.inboundOk n q q.rWrite va len .write else c.inboundOk n q q.rWrite (base + q.msgOff) data.length .write
  match r with
  | .yes =>
    let c := c.vaWrite q.owner (base + q.msgOff) (clean data)
    (.yes, c.onQp n (fun q => { q with msgVa := base, msgOff := if last then 0 else q.msgOff + data.length }))
  | r => (r, c)

/-- A level-3 frame of the stead channel from another stead, placed with the pins of the combine's entry; none while it must wait. -/
def Chip.xsFrame (c : Chip) (src pos : Nat) (p : OrtPkt) (data : List Byte) : Option Chip :=
  let place (c : Chip) : Option Chip := c.combineFrame 0 src pos p.typ p.flow p.aux data
  match c.comb 0 with
  | none => place c
  | some b => (place { c with xcache := b.pins ++ c.xcache }).map (fun _ => c.inComb 0 (fun c => (place c).getD c))

/-- Place a level-3 combine message once it is whole; it waits where no sheaf slot takes it (R245, R292). -/
def Chip.placeXs (c : Chip) (n : Nat) (q : QPair) (p : OrtPkt) (data : List Byte) : Placed × Chip :=
  let whole := if p.msgFirst then data else q.xsBuf ++ data
  if !p.msgLast then (.yes, c.setQp n { q with xsBuf := whole })
  else match c.xsStead n with
    | none => (.yes, (c.count F.CMB_DROP_COUNT).setQp n { q with xsBuf := [] })
    | some s =>
      let pos := match c.comb 0 with | some b => c.xsPos b (p.aux / 1024) | none => c.modId
      match c.xsFrame (256 + s) pos p whole with
      | none => (.no, c)
      | some c => (.yes, c.onQp n (fun q => { q with xsBuf := [] }))

/-- Place the data of a request that carries some. -/
def Chip.place (c : Chip) (n : Nat) (p : OrtPkt) (first last : Bool) (data : List Byte) : Placed × Chip :=
  match c.qpair n with
  | none => (.no, c)
  | some q =>
    if p.op = Ort.send then c.placeSend n q last data
    else if p.op = Ort.write then c.placeWrite n q first last p.va p.vlen data
    else c.placeXs n q p data

/-- A tag failure at the receiver (R296, R343). -/
def Chip.tagFailed (c : Chip) (n psn : Nat) : Chip :=
  let c := (c.count F.ORT_TAG_FAIL_COUNT).event Flt.cipher
  c.nakError n Nak.tagFail psn QpCause.tag (some St.tagFail)

/-- The end of a data packet's handling: it is accepted, waits, is discarded, or draws a fatal NAK. `units` return on placement. -/
def Chip.afterPlace (c : Chip) (n : Nat) (p : OrtPkt) (units psns : Nat) (r : Placed) : Bool × Chip :=
  match c.qpair n with
  | none => (true, c)
  | some q => match r with
    | .yes => (true, ((c.setQp n { q with exp := q.exp + psns, inStall := none }).returnUnits n units).accepted n 1 p.ackreq)
    | .no => (false, c)
    | .discard => (true, c)
    | .wait => (true, (c.setQp n { q with inStall := some p }).sendNak n Nak.wait q.ackPsn)
    | .bad syn recv => (true, c.nakError n syn q.ackPsn (if recv.isSome then QpCause.entry else QpCause.peerNak) recv)

/-- The segment in tag-hold is complete: its tag is verified and its data placed, or everything is discarded. -/
def Chip.openSeg (c : Chip) (n : Nat) (q : QPair) (segs : List OrtPkt) (p : OrtPkt) : Bool × Chip :=
  let first := segs.headD p
  let ct := segs.flatMap (fun (x : OrtPkt) => x.data)
  let k := c.keySlot 0 q.rxKey
  let psn := q.ackPsn
  let va := if p.op = Ort.write then (if first.msgFirst then first.va else q.msgVa) + q.msgOff else 0
  match Gcm.decrypt (gcmKey k) (segIv k psn) (segAad p.op n p.src q.msgOff ct.length va) (byteNats ct) (byteNats p.tag) with
  | none => (true, (c.onQp n (fun q => { q with seg := segs })).tagFailed n psn)
  | some pt =>
    let (r, d) := c.place n { p with va := first.va, vlen := first.vlen } first.msgFirst p.msgLast (natBytes pt)
    match r with
    | .yes =>
      let d := (d.count F.CPH_GCM_RX_SEG_COUNT).onQp n (fun q => { q with seg := [], exp := psn + segs.length, inStall := none })
      (true, (d.returnUnits n 16).accepted n 1 p.ackreq)
    | .bad syn recv => (d.onQp n (fun q => { q with seg := segs })).afterPlace n p 0 0 (.bad syn recv)
    | r => d.afterPlace n p 0 0 r

/-- A packet whose protection does not suit its queue pair (R291, R343). -/
def OrtPkt.badProt (p : OrtPkt) (q : QPair) : Bool :=
  p.prot != q.prot || (p.prot && (p.keySlot != q.rxKey || !(p.op == Ort.send || p.op == Ort.write || p.op == Ort.combine || p.op == Ort.readResp || p.op == Ort.atomicResp)))

/-- SEND, WRITE or COMBINE with the expected PSN. -/
def Chip.acceptData (c : Chip) (n : Nat) (q : QPair) (p : OrtPkt) : Bool × Chip :=
  if p.op = Ort.combine ∧ !q.combine ∨ p.badProt q then (true, c.fatalNak n Nak.format q.ackPsn)
  else if q.prot then
    let segs := q.seg ++ [p]
    if p.segLast then
      -- a packet that waits for a translation, or for space, keeps its place before it
      c.openSeg n q segs p
    else (true, (c.setQp n { q with seg := segs, exp := q.exp + 1 }).accepted n 1 p.ackreq)
  else
    let (r, c) := c.place n p p.msgFirst p.msgLast p.data
    c.afterPlace n p (byteUnits p.data.length) 1 r

/-! ### READ and atomics at the responder (R284, R287) -/

/-- The responses of a READ of `len` bytes at `va` whose first PSN is `psn`. -/
def Chip.sendResps (c : Chip) (n : Nat) (q : QPair) (psn len : Nat) (data : List Byte) : Chip :=
  (List.range (respPkts q.mtu len)).foldl (fun c k =>
    let off := k * q.mtu
    let base := off / segBytes * segBytes
    let seg := (data.drop base).take segBytes
    let part := (data.drop off).take q.mtu
    let last := decide (off + part.length = base + seg.length)
    let (body, tag, c) : List Byte × List Byte × Chip :=
      if q.prot then
        let (ct, tag) := c.sealSeg q n Ort.readResp (psn + base / q.mtu + 2 ^ 63) base 0 seg
        ((ct.drop (off - base)).take part.length, if last then tag else [], if last then c.count F.CPH_GCM_TX_SEG_COUNT else c)
      else (part, [], c)
    c.sendPkt n { op := Ort.readResp, dest := 0, psn := (psn + k) % 2 ^ 32, prot := q.prot, segFirst := q.prot && off == base, segLast := q.prot && last,
                  msgFirst := k == 0, msgLast := k + 1 == respPkts q.mtu len, data := body, tag := tag }) c

/-- A READ_REQ whose first extended PSN is `psn`; `fresh` where it advances the expected PSN. -/
def Chip.serveRead (c : Chip) (n : Nat) (q : QPair) (p : OrtPkt) (psn : Nat) (fresh : Bool) : Bool × Chip :=
  if p.aux ≠ respPkts q.mtu p.vlen ∨ 256 < p.aux ∨ p.prot then (true, c.fatalNak n Nak.format psn)
  else match c.inboundOk n q q.rRead p.va p.vlen .read with
    | (.yes, c) =>
      let (d, c) := c.vaRead q.owner p.va p.vlen
      if d.any (·.2) then (true, c.fatalNak n Nak.internal psn)
      else
        let c := if fresh then (c.onQp n (fun q => { q with exp := q.exp + p.aux, inStall := none })).accepted n 1 p.ackreq else c
        (true, c.sendResps n q psn p.vlen (d.map (·.1)))
    | (.wait, c) => (true, (c.onQp n (fun q => { q with inStall := some p })).sendNak n Nak.wait psn)
    | (.bad syn _, c) => (true, c.fatalNak n syn psn)
    | (_, c) => (true, c)

/-- ATOMIC_RESP with an original value. -/
def Chip.sendAtomicResp (c : Chip) (n : Nat) (q : QPair) (psn v : Nat) : Chip :=
  let d := toLE 8 v
  let (body, tag, c) : List Byte × List Byte × Chip :=
    if q.prot then let (ct, tag) := c.sealSeg q n Ort.atomicResp (psn + 2 ^ 63) 0 0 d; (ct, tag, c.count F.CPH_GCM_TX_SEG_COUNT) else (d, [], c)
  c.sendPkt n { op := Ort.atomicResp, dest := 0, psn := psn % 2 ^ 32, prot := q.prot, segFirst := q.prot, segLast := q.prot, msgFirst := true, msgLast := true,
                data := body, tag := tag }

/-- The value an atomic leaves (R284). -/
def atomicNew (op old op1 op2 : Nat) : Nat := if op = Ort.fetchAdd then (old + op1) % 2 ^ 64 else if old = op1 then op2 else old

/-- An atomic with the expected PSN: performed once, its original value recorded. -/
def Chip.serveAtomic (c : Chip) (n : Nat) (q : QPair) (p : OrtPkt) (psn : Nat) : Bool × Chip :=
  if p.va % 8 ≠ 0 ∨ p.vlen ≠ 8 ∨ p.prot then (true, c.fatalNak n Nak.format psn)
  else match c.inboundOk n q q.rAtomic p.va 8 .atomic with
    | (.yes, c) =>
      let (d, c) := c.vaRead q.owner p.va 8
      if d.any (·.2) then (true, c.fatalNak n Nak.internal psn)
      else
        let old := ofLE (d.map (·.1))
        let new := atomicNew p.op old p.op1 p.op2
        let c := if p.op = Ort.cmpSwap ∧ old ≠ p.op1 then c else
          match c.look q.owner p.va .atomic with
          | .ok t a _ => c.tierWrite t q.owner a (clean (toLE 8 new))
          | _ => c
        let c := c.onQp n (fun q => { q with exp := q.exp + 1, inStall := none, atoms := ((psn, old) :: q.atoms).take q.depth })
        let c := c.accepted n 1 p.ackreq
        (true, c.sendAtomicResp n q psn old)
    | (.wait, c) => (true, (c.onQp n (fun q => { q with inStall := some p })).sendNak n Nak.wait psn)
    | (.bad syn _, c) => (true, c.fatalNak n syn psn)
    | (_, c) => (true, c)

/-- A packet that precedes the expected PSN (R287, R296): a READ is performed again, an atomic answered from its record, anything else acknowledged. -/
def Chip.duplicate (c : Chip) (n : Nat) (q : QPair) (p : OrtPkt) : Bool × Chip :=
  let psn := q.exp - subMod 32 q.exp p.psn
  if p.op = Ort.readReq then c.serveRead n q p psn false
  else if p.isAtomic then
    match q.atoms.find? (fun a => a.1 == psn) with
    | some a => (true, c.sendAtomicResp n q psn a.2)
    | none => (true, c.sendAck n)
  else (true, c.sendAck n)

/-- A request packet of a CONNECTED queue pair (R295, R296). -/
def Chip.recvRequest (c : Chip) (n : Nat) (p : OrtPkt) : Bool × Chip :=
  match c.qpair n with
  | none => (true, c)
  | some q =>
    let d := subMod 32 p.psn q.exp
    if d ≠ 0 then (if d < 2 ^ 31 then (true, c.gapNak n) else c.duplicate n q p)
    else if q.inStall.isSome then (true, c.sendNak n Nak.wait q.ackPsn)
    else if p.op = Ort.readReq then
      let (t, c) := c.serveRead n q p q.exp true
      (t, c)
    else if p.isAtomic then c.serveAtomic n q p q.exp
    else c.acceptData n q p

/-! ### Responses at the requester (R294, R297–R299) -/

/-- The record a response answers, with the index of the response within it. -/
def QPair.recOf (q : QPair) (atomic : Bool) (psn : Nat) : Option (ReadRec × Nat) :=
  (q.reads.find? (fun r => (r.op != Ort.readReq) == atomic && decide (subMod 32 psn r.psn < r.n))).map (fun r => (r, subMod 32 psn r.psn))

/-- A response of an outstanding request has arrived (R298, R299): the sample of its request ends, the timer restarts, and the retry count is 0. -/
def Chip.respArrived (c : Chip) (n : Nat) (r : ReadRec) : Chip :=
  ((c.onQp n (fun q => { q with retries := 0, paused := false })).rttDone n r.psn true).armRtx n true

/-- Responses are placed: the record advances, and the entry ends with its last response. -/
def Chip.respPlaced (c : Chip) (n : Nat) (r : ReadRec) (k : Nat) : Chip :=
  match c.qpair n with
  | none => c
  | some q =>
    let r2 : ReadRec := { r with got := r.got + k, held := [] }
    let reads := if r.n ≤ r2.got then q.reads.filter (fun x => x.psn ≠ r.psn) else q.reads.map (fun x => if x.psn = r.psn then r2 else x)
    let c := (c.setQp n { q with reads := reads, respStall := none }).armRtx n false
    match c.sqEntry q r.wqe with
    | some e => if e.allSent && !reads.any (fun x => x.wqe == r.wqe) then c.endWqe q.sq r.wqe St.ok e.len else c
    | none => c

/-- Place response bytes in the local buffer of their entry. -/
def Chip.placeResp (c : Chip) (n : Nat) (q : QPair) (p : OrtPkt) (r : ReadRec) (k : Nat) (data : List Byte) : Chip :=
  match c.sqEntry q r.wqe with
  | none => c
  | some e =>
    let va := e.va + r.off + (if r.op = Ort.readReq then r.got * q.mtu else 0)
    let (x, c) := c.localRange q.owner va data.length (e.va, e.len) .write 3 e.stall (.inbound n)
    match x with
    | .ok => (c.vaWrite q.owner va (clean data)).respPlaced n r k
    | .wait => c.onQp n (fun q => { q with respStall := some p })
    | .right => (c.onQp n (fun q => { q with reads := q.reads.filter (fun x => x.wqe ≠ r.wqe) })).endWqe q.sq r.wqe St.localProtection 0
    | .fail => (c.onQp n (fun q => { q with reads := q.reads.filter (fun x => x.wqe ≠ r.wqe) })).endWqe q.sq r.wqe St.translation 0

/-- A response segment failed its tag: the request's entry fails with TAG_FAIL (R281, R296). -/
def Chip.respTagFailed (c : Chip) (n : Nat) (r : ReadRec) : Chip :=
  let c := (c.count F.ORT_TAG_FAIL_COUNT).event Flt.cipher
  ((c.dropFrames (fun f => f.qpn == n)).sendNak n Nak.tagFail (r.psn + r.got)).qpFail n QpCause.tag r.wqe St.tagFail

/-- READ_RESP or ATOMIC_RESP: only the next response of its record is taken; with PROT a segment is held until its tag verifies. -/
def Chip.recvResp (c : Chip) (n : Nat) (p : OrtPkt) : Chip :=
  match c.qpair n with
  | none => c
  | some q => match q.recOf (p.op == Ort.atomicResp) p.psn with
    | none => c
    | some (r, i) =>
      if p.badProt q then c.fatalNak n Nak.format (r.psn + i)
      else
      let c := c.respArrived n r
      if i < r.got + r.held.length then c
      else if r.got + r.held.length < i then c.onQp n (fun q => { q with reads := q.reads.map (fun x => if x.psn = r.psn then { x with held := [] } else x) })
      else if q.prot then
        let held := r.held ++ [p.data]
        if !p.segLast then c.onQp n (fun q => { q with reads := q.reads.map (fun x => if x.psn = r.psn then { x with held := held } else x) })
        else
          let ct : List Byte := held.flatten
          let k := c.keySlot 0 q.rxKey
          let off := if r.op = Ort.readReq then r.got * q.mtu else 0
          match Gcm.decrypt (gcmKey k) (segIv k (r.psn + r.got + 2 ^ 63)) (segAad p.op n p.src off ct.length 0) (byteNats ct) (byteNats p.tag) with
          | none => c.respTagFailed n r
          | some pt => ((c.count F.CPH_GCM_RX_SEG_COUNT).placeResp n q p r held.length (natBytes pt)).settleSq n
      else (c.placeResp n q p r 1 p.data).settleSq n

/-! ### Acknowledgements, NAKs (R296–R298) -/

/-- NAK: go back for SEQ, pause for WAIT, fail the entry of the named PSN for a fatal syndrome. -/
def Chip.recvNak (c : Chip) (n : Nat) (p : OrtPkt) : Chip :=
  let syn := p.aux % 256
  if syn = Nak.seq then c.retry n
  else if syn = Nak.wait then (c.onQp n (fun q => { q with paused := true })).armRtx n true
  else match c.qpair n with
    | none => c
    | some q =>
      let psn := (match q.reads.find? (fun r => decide (subMod 32 p.ack r.psn < r.n)) with
        | some r => r.psn
        | none => extPsn q.una p.ack)
      match q.ownerOfPsn psn with
      | some i => c.qpError n QpCause.peerNak (some (i, nakStatus syn))
      | none => c.qpErrorAs n QpCause.peerNak none

/-! ### Connection set-up (R290) -/

/-- The payload of CONNECT and ACCEPT. -/
def QPair.connBytes (q : QPair) : List Byte :=
  toBE 4 q.initPsn ++ toBE 4 q.expectPsn ++ toBE 2 q.mtu ++ toBE 2 q.window ++ toBE 1 q.depth ++ toBE 3 0

/-- Send CONNECT or ACCEPT. -/
def Chip.sendConn (c : Chip) (n op : Nat) : Chip :=
  match c.qpair n with
  | some q => c.sendPkt n { op := op, dest := 0, data := q.connBytes }
  | none => c

/-- A packet comes from a queue pair's peer address. -/
def Chip.fromPeer (c : Chip) (q : QPair) : PktFrom → Bool
  | .self => !q.eth && q.peerModule == c.modId
  | .module m => !q.eth && q.peerModule == m
  | .eth _ _ v6 ip _ _ => q.eth && q.v6 == v6 && q.peerIp == ip

/-- A CONNECT or ACCEPT matches a queue pair. -/
def Chip.connMatches (c : Chip) (q : QPair) (src : PktFrom) (p : OrtPkt) : Bool :=
  let x (lo n : Nat) : Nat := ofBE ((p.data.drop lo).take n)
  (q.st == .connecting || q.st == .connected) && c.fromPeer q src && p.src == q.peerQpn && p.data.length == 16 &&
  x 0 4 == q.expectPsn && x 4 4 == q.initPsn && x 8 2 == q.mtu && x 12 1 == q.depth

/-- A queue pair becomes CONNECTED with the limits of the header, and writes the CONNECT event. -/
def Chip.becomeConnected (c : Chip) (n : Nat) (p : OrtPkt) : Chip :=
  match c.qpair n with
  | none => c
  | some q =>
    if q.st ≠ .connecting then c
    else
      let c := c.setQp n { q with st := .connected, mlim := p.mlim, blim := p.blim }
      let c := c.qpEvent n opConnectEvent St.ok 0
      let bad := [q.sq, q.rq].any (fun w => match c.queue w with | some s => s.err | none => false)
      if bad then c.qpError n QpCause.doorbell else c.qpStep n

/-- CONNECT or ACCEPT: a matched one connects, a CONNECT is answered with ACCEPT; any other is discarded and counted. -/
def Chip.recvConn (c : Chip) (src : PktFrom) (p : OrtPkt) : Chip :=
  let rej (c : Chip) := c.ortCount src.isEth F.ORT_CONN_REJ_COUNT
  match c.qpair p.dest with
  | none => rej c
  | some q =>
    if !c.connMatches q src p then rej c
    else
      let c := if p.op = Ort.connect then c.sendConn p.dest Ort.accept else c
      if q.st = .connected then ((c.takeAck p.dest p.ack).takeLimits p.dest p.mlim p.blim).qpStep p.dest else c.becomeConnected p.dest p

/-! ### A received packet (R275, R278, R292, R303) -/

/-- Opcodes of R292. -/
def ortKnown (op : Nat) : Bool := 1 ≤ op && op ≤ 14

/-- A packet that R292 discards: unknown opcode, another version, a reserved bit, or a payload above the MTU. -/
def OrtPkt.malformed (p : OrtPkt) (q : Option QPair) : Bool :=
  !ortKnown p.op || p.ver != 1 || p.rsv || p.connRsv ||
  (match q with | some q => q.st == .connected && decide (q.mtu < p.data.length) | none => false)

/-- What a packet does at its queue pair. Answers whether the RME has taken it. -/
def Chip.recvPkt (c : Chip) (src : PktFrom) (p : OrtPkt) : Bool × Chip :=
  let n := p.dest
  let q := c.qpair n
  let closed := match q with | some q => c.resetting q.owner || q.draining | none => false
  let answer := p.op == Ort.readResp || p.op == Ort.atomicResp || p.op == Ort.ack || p.op == Ort.nak || p.op == Ort.credit
  if closed && !answer then (true, c)
  else if p.malformed q then
    let c := c.ortDrop src
    (true, match q with
      | some q => if q.st = .connected then c.fatalNak n Nak.format q.ackPsn else c
      | none => c)
  else if p.op = Ort.connect ∨ p.op = Ort.accept then (true, c.recvConn src p)
  else match q with
    | none => (true, (c.ortDrop src).noticeBack src p)
    | some q =>
      if q.st = .idle ∨ q.st = .error then (true, if closed then c else (c.ortDrop src).noticeBack src p)
      else if p.op = Ort.resetNotice then (true, c.qpErrorAs n QpCause.peerReset none)
      else if q.st = .connecting then (true, c.ortDrop src)
      else
        let c := (c.takeAck n p.ack).takeLimits n p.mlim p.blim
        let (t, c) : Bool × Chip :=
          if p.op = Ort.readResp ∨ p.op = Ort.atomicResp then (true, c.recvResp n p)
          else if p.op = Ort.nak then (true, c.recvNak n p)
          else if p.op = Ort.ack ∨ p.op = Ort.credit then (true, c)
          else c.recvRequest n p
        (t, c.qpStep n)

/-- A packet is performed, and taken where the RME has done with it. -/
def Chip.ortTake (c : Chip) (at_ : RxAt) (want : Option OrtPkt → Bool) (src : PktFrom) (p : OrtPkt) : Chip :=
  match c.recvPkt src p with
  | (true, d) => ((d.ortCount src.isEth F.ORT_RX_PKTS_COUNT).rxTake want at_).ringFails
  | (false, d) => d.ringFails

/-- A received packet of a queue pair that exists is performed with its context on the die. -/
def Chip.ortPerform (c : Chip) (at_ : RxAt) (want : Option OrtPkt → Bool) (src : PktFrom) (p : OrtPkt) : Chip :=
  if (c.qpair p.dest).isSome then c.withCtx p.dest (.recv at_) (fun c => c.ortTake at_ want src p) else c.ortTake at_ want src p

/-- A row of a received packet: the oldest packet of a buffer that can go now, when it has the row's opcode, is performed and taken. Where the RME cannot
place it yet, it stays. -/
def Chip.ortRow (c : Chip) (at_ : RxAt) (op : Nat) : Chip :=
  if !c.rmeOn then c
  else match c.rxHead c.unheld at_ with
    | some (src, some p) => if p.op ≠ op then c else c.ortPerform at_ c.unheld src p
    | _ => c

/-- The packet that waited for the context of a queue pair, the oldest of its buffer for it, is performed. -/
def Chip.recvHeld (c : Chip) (n : Nat) (at_ : RxAt) : Chip :=
  let want (p : Option OrtPkt) : Bool := match p with | some p => p.dest == n | none => false
  if !c.rmeOn then c
  else match c.rxHead want at_ with
    | some (src, some p) => c.ortPerform at_ want src p
    | _ => c

/-- A packet that no row performs is discarded as its buffer releases it: unreadable, of an unknown opcode, or with the engine off (R291, R292). -/
def Chip.discardHead (c : Chip) (at_ : RxAt) : Chip :=
  let c0 := c
  match c.rxHead c.unheld at_ with
  | none => c
  | some (src, p) =>
    if !c.rmeOn then c.rxTake c0.unheld at_
    else match p with
      | none => ((c.ortCount src.isEth F.ORT_RX_PKTS_COUNT).ortDrop src).rxTake c0.unheld at_
      | some p => if ortKnown p.op then c else c.ortPerform at_ c0.unheld src p

/-- A response that waited for a translation is placed, or fails its entry (R158). -/
def Chip.resumeResp (c : Chip) (n : Nat) (ok : Bool) : Chip :=
  match c.qpair n with
  | none => c
  | some q => match q.respStall with
    | none => c
    | some p =>
      let c := c.setQp n { q with respStall := none }
      if ok then (c.recvResp n p).qpStep n
      else match q.recOf (p.op == Ort.atomicResp) p.psn with
        | some (r, _) => ((c.onQp n (fun q => { q with reads := q.reads.filter (fun x => x.wqe ≠ r.wqe) })).endWqe q.sq r.wqe St.translation 0).settleSq n
        | none => c

/-- A request that waited for a translation is performed again, or refused (R158). -/
def Chip.resumeReq (c : Chip) (n : Nat) (ok : Bool) : Chip :=
  match c.qpair n with
  | none => c
  | some q => match q.inStall with
    | none => c
    | some p =>
      let c := c.setQp n { q with inStall := none }
      if ok then (c.recvRequest n p).2.qpStep n
      else if p.op = Ort.send then
        match (c.queue q.rq).bind (fun s => s.ents.head?) with
        | some e => ((c.endRecv n q e St.translation q.msgOff).afterPlace n p 0 0 (.bad Nak.translation (some St.translation))).2
        | none => c.fatalNak n Nak.translation q.ackPsn
      else c.fatalNak n Nak.translation q.ackPsn

/-- The packets of a queue pair that waited for a translation go on (R158): RETRY repeats them, FAIL refuses them. -/
def Chip.resumeInbound (c : Chip) (n : Nat) (ok : Bool) : Chip :=
  match c.qpair n with
  | none => c
  | some q =>
    if q.inStall.isNone && q.respStall.isNone then c
    else c.withCtx n (.inbound ok) (fun c => ((c.resumeResp n ok).resumeReq n ok).ringFails)

/-- A reply to the fault of a send-queue entry (R158). -/
def Chip.resumeSqe (c : Chip) (n : Nat) (ok : Bool) : Chip :=
  match c.qpair n with
  | none => c
  | some q =>
    if !q.stalled then c
    else
      c.withCtx n (.sqe ok) (fun c =>
        let c := c.setQp n { q with stalled := false }
        (if ok then c.qpStep n
        else match (c.queue q.sq).bind (fun s => s.ents.find? (fun e => e.started && !e.allSent)) with
          | some e => (c.endWqe q.sq e.idx St.translation 0).settleSq n
          | none => c).ringFails)

/-- A reply to the fault of a ring (R158, R262, R407). -/
def Chip.resumeRing (c : Chip) (qid : Nat) (ok : Bool) : Chip :=
  let c := c.onQueue qid (fun q => { q with faulted := false })
  if ok then
    match c.queue qid with
    | some q => if q.kind = .cq then ((c.flushCq qid).ringFreed qid).ringFails else c
    | none => c
  else
    let c := if qOwner qid < 512 then c.instEvent (qOwner qid) 4 else c
    c.ringFailed qid

/-! ### Timers (R298–R301, R304) -/

/-- A timer of a queue pair expires, where `due`: its context is fetched, and it has its effect (R288). Timers of the RME run outside the safe state
only (R416). -/
def Chip.timerQp (c : Chip) (n : Nat) (op : CtxOp) (due : QPair → Bool) (f : Chip → QPair → Chip) : Chip :=
  if c.mst = .safe then c
  else match c.qpair n with
    | some q => if due q then c.withCtx n op (fun c => f c q) else c
    | none => c

/-- RETRANSMIT_TIMEOUT: RTO doubles, and a retry is counted. -/
def Chip.retransmitTimeout (c : Chip) (n : Nat) : Chip :=
  c.timerQp n .retransmit (fun q => q.rtxAt.isSome && q.st == .connected) (fun c q =>
    let c := (c.advanceTo (q.rtxAt.getD 0)).ortCount q.eth F.ORT_TIMEOUTS_COUNT
    ((c.setQp n { q with rto := rtoBound (2 * q.rto) }).retry n).ringFails)

/-- The entry or message that waits for credit fails (R301). -/
def Chip.creditFails (c : Chip) (n : Nat) (q : QPair) (t st : Nat) : Chip :=
  let c := c.advanceTo (t + q.creditWait * nsBeats 1000000)
  match (c.queue q.sq).bind (fun s => s.ents.find? (fun e => e.started && !e.allSent)) with
  | some e => (c.qpError n QpCause.credit (some (e.idx, st))).ringFails
  | none => (c.qpErrorAs n QpCause.credit none).ringFails

/-- CREDIT_WAIT_TIMEOUT: the entry that waits for credit fails. -/
def Chip.creditWaitTimeout (c : Chip) (n : Nat) : Chip :=
  c.timerQp n .creditWait (fun q => q.st == .connected && (q.waitM.isSome || q.waitB.isSome)) (fun c q =>
    match q.waitM, q.waitB with
    | some t, _ => c.creditFails n q t St.rnrExhausted
    | none, some t => c.creditFails n q t St.creditTimeout
    | none, none => c)

/-- CONNECT_RESEND_TIMER. -/
def Chip.connectResend (c : Chip) (n : Nat) : Chip :=
  c.timerQp n .connectResend (fun q => q.st == .connecting && decide (q.connAt ≤ q.connEnd)) (fun c q =>
    ((c.advanceTo q.connAt).setQp n { q with connAt := q.connAt + nsBeats 1000000 }).sendConn n Ort.connect)

/-- CONNECT_WAIT_TIMEOUT. -/
def Chip.connectWaitTimeout (c : Chip) (n : Nat) : Chip :=
  c.timerQp n .connectWait (fun q => q.st == .connecting) (fun c q =>
    (((c.advanceTo q.connEnd).qpEvent n opConnectEvent St.retryExceeded QpCause.connectTimeout).qpErrorAs n QpCause.connectTimeout none).ringFails)

/-- ACK_DELAY_TIMER. -/
def Chip.ackDelay (c : Chip) (n : Nat) : Chip :=
  c.timerQp n .ackDelay (fun q => q.ackAt.isSome && q.st == .connected) (fun c q => (c.advanceTo (q.ackAt.getD 0)).sendAck n)

/-- CREDIT_UPDATE_TIMER: 4 µs after the last packet where the limits changed, 1 ms after it otherwise. -/
def Chip.creditUpdate (c : Chip) (n : Nat) : Chip :=
  c.timerQp n .creditUpdate (fun q => q.st == .connected) (fun c q =>
    let wait := if q.told = (q.mgrant, q.bgrant) then nsBeats 1000000 else usBeats 4
    (c.advanceTo (q.toldAt + wait)).sendPkt n { op := Ort.credit, dest := 0 })

end Sys2Proof.Machine
end

