-- ==== Sys2Proof/Machine/Keys.lean ====
section
/-!
DEFINITION. Machine/Keys.lean: key slots: selection, staging, commit, zeroisation, allocation, binding, and the known-answer test
(R332–R337, R347, R348).
-/
namespace Sys2Proof.Machine

/-- A slot is bound (R333): a queue pair names it, or an ADMITTED, RUNNING or HELD almanac does. -/
def Chip.keyBound (c : Chip) (kind slot : Nat) : Bool :=
  if kind = 0 then c.qps.any (fun e => e.2.prot && e.2.conn != [] && (e.2.txKey == slot || e.2.rxKey == slot))
  else c.ctxs.any (fun e => (e.2.st == .admitted || e.2.st == .running || e.2.st == .held) && e.2.xts.contains slot)

/-- Bank of the key registers of a requester: 0 the manager's KEY page, 1 + i those of INS page i (R334, R375). -/
def keyBank (req : Nat) : Nat := if req = mgrOwner then 0 else req + 1

def Chip.stage (c : Chip) (req : Nat) : KeyStage := Table.getD c.keyStage req {}
def Chip.setStage (c : Chip) (req : Nat) (k : KeyStage) : Chip := { c with keyStage := Table.setD c.keyStage req {} k }

/-- KEY_SEL_WRITE: kind and slot are selected, the staging buffer is empty. -/
def Chip.keySel (c : Chip) (req kind slot : Nat) : Chip :=
  let slot := slot % 4096
  (((c.wr F.KEY_SEL_KIND kind 0 (keyBank req)).wr F.KEY_SEL_SLOT (if kind % 2 = 1 then min slot 63 else slot) 0 (keyBank req))).setStage req {}

/-- KEY_DATA_WRITE: word `k` of the key is staged. -/
def Chip.keyData (c : Chip) (req k v : Nat) : Chip :=
  if 16 ≤ k then c else c.setStage req { c.stage req with words := Table.insert k (v % 2 ^ 32) (Table.erase k (c.stage req).words) }

/-- KEY_TWEAK_WRITE: a half of TWEAK_BASE is staged. -/
def Chip.keyTweak (c : Chip) (req : Nat) (high : Bool) (v : Nat) : Chip :=
  let s := c.stage req
  c.setStage req (if high then { s with hi := some (v % 2 ^ 32) } else { s with lo := some (v % 2 ^ 32) })

/-- A write of KEY_SECTOR. -/
def Chip.keySector (c : Chip) (req v : Nat) : Chip := c.setStage req { c.stage req with sector := v % 2 }

/-- The slot a requester has selected. -/
def Chip.selKey (c : Chip) (req : Nat) : Nat × Nat := (c.rd F.KEY_SEL_KIND 0 (keyBank req), c.rd F.KEY_SEL_SLOT 0 (keyBank req))

/-- RESULT of COMMIT (R335, R348). -/
def Chip.commitResult (c : Chip) (req : Nat) : Nat :=
  let (kind, slot) := c.selKey req
  let k := c.keySlot kind slot
  let s := c.stage req
  let word (i : Nat) : Option Nat := Table.find? i s.words
  let need := if kind = 1 then 16 else 9
  if k.st = .free then 5
  else if k.owner ≠ req then 1
  else if c.keyBound kind slot then 3
  else if (List.range need).any (fun i => (word i).isNone) then 2
  else if kind = 1 ∧ (s.lo.isNone ∨ s.hi.isNone) then 6
  else if kind = 1 ∧ (List.range 8).all (fun i => word i == word (i + 8)) then 4
  else 0

/-- KEY_COMMIT: the slot takes the staged key, or keeps its own; the staging buffer is cleared. -/
def Chip.keyCommit (c : Chip) (req : Nat) : Chip :=
  let (kind, slot) := c.selKey req
  let r := c.commitResult req
  let s := c.stage req
  let c := c.wr F.KEY_STATUS_RESULT r 0 (keyBank req)
  let c := c.setStage req {}
  if r ≠ 0 then c
  else c.setKey kind slot {
    st := .valid, owner := req, words := (List.range (if kind = 1 then 16 else 9)).map (fun i => (Table.find? i s.words).getD 0)
    tweak := if kind = 1 then s.lo.getD 0 + s.hi.getD 0 * 2 ^ 32 else 0, sector := if kind = 1 then s.sector else 0, tx := none }

/-- RESULT of ZEROISE: the manager's acts on any slot that is not bound. -/
def Chip.zeroiseResult (c : Chip) (req : Nat) : Nat :=
  let (kind, slot) := c.selKey req
  let k := c.keySlot kind slot
  if k.st = .free then 5 else if k.owner ≠ req ∧ req ≠ mgrOwner then 1 else if c.keyBound kind slot then 3 else 0

/-- ZEROISE: the slot is EMPTY, its key, salt and sector size zero. -/
def Chip.zeroise (c : Chip) (req : Nat) : Chip :=
  let (kind, slot) := c.selKey req
  let r := c.zeroiseResult req
  let c := c.wr F.KEY_STATUS_RESULT r 0 (keyBank req)
  if r ≠ 0 then c else c.setKey kind slot { st := .empty, owner := (c.keySlot kind slot).owner }

/-- Slots of a kind that an owner holds. -/
def Chip.keysHeld (c : Chip) (kind owner : Nat) : Nat :=
  (c.keys.filter (fun e => e.1 / 4096 == kind && e.2.st != .free && e.2.owner == owner)).length

/-- Key slots of a kind. -/
def keySlots (kind : Nat) : Nat := if kind = 0 then 4096 else 64

/-- Key slots of an owner are zeroised and free (R336). -/
def Chip.freeKeys (c : Chip) (owner : Nat) : Chip :=
  { c with keys := c.keys.filter (fun e => e.2.owner ≠ owner || e.2.st == .free), keyStage := Table.erase owner c.keyStage }

/-- CIPHER_TEST (R347): the known-answer test starts. -/
def Chip.cipherTest (c : Chip) : Chip := c.wr F.CPH_TEST_RUN 1

/-- CIPHER_TEST_RESULT: the result is posted; a failed test raises the cipher source. -/
def Chip.cipherTestResult (c : Chip) (r : Nat) : Chip :=
  if !c.on F.CPH_TEST_RUN then c
  else
    let c := (c.wr F.CPH_TEST_RUN 0).wr F.CPH_TEST_RESULT r
    if r % 4 = 0 then c else c.event Flt.cipher

end Sys2Proof.Machine
end

