-- ==== Sys2Proof/Machine/Admin.lean ====
section
/-!
DEFINITION. Machine/Admin.lean: the admin commands (R161–R164, R279, R280, R289, R332, R350, R370) and the replies to fault requests (R158).
-/
namespace Sys2Proof.Machine

/-! ### The command at the head of an admin queue (R279) -/

/-- Bits of W1–W15 that a command lays out; every other bit is reserved. -/
def admMask (op : Nat) : List Nat :=
  let all := 0xFFFFFFFF
  let hi57 := 0x1FFFFFF
  if op = 0x01 then [0x07FF001F, all, hi57, all, hi57]
  else if op = 0x02 ∨ op = 0x04 ∨ op = 0x21 then [0x1FFF]
  else if op = 0x03 then [0x11F, 0x1FFF, all, hi57]
  else if op = 0x05 then [0x1FFF, 0x1FFF, 0xFF, all, hi57, all, all]
  else if op = 0x06 then [0xFFFFFF, 0x0FFF0FFF, all, all, all, all, 0xFFFFFF, all, all, 0xFFFFFF, all, 0xFFFF3FFF, all, 0xFFFF]
  else if op = 0x07 ∨ op = 0x08 ∨ op = 0x09 then [0xFFFFFF]
  else if op = 0x10 then [1, all, hi57, all, hi57, 0x1FFFFFF, all, hi57]
  else if op = 0x12 then [1, all, 0xFFF]
  else if op = 0x11 ∨ op = 0x13 ∨ op = 0x14 ∨ op = 0x20 then [1]
  else if op = 0x18 then [7, all, hi57, all, all]
  else if op = 0x19 then [0x737, all, hi57, all, all]
  else []

/-- Opcodes that the command table lists. -/
def admListed (op : Nat) : Bool := [1, 2, 3, 4, 5, 6, 7, 8, 9, 0x10, 0x11, 0x12, 0x13, 0x14, 0x18, 0x19, 0x20, 0x21, 0x30, 0x31].contains op

/-- A reserved bit of a command is set. -/
def Wqe.admRsv (e : Wqe) : Bool :=
  field (e.w 0) 8 8 != 0 || (List.range 15).any (fun k => Nat.land (e.w (k + 1)) ((admMask e.op).getD k 0) != e.w (k + 1))

/-- The command that an owner's admin queue performs next. -/
def Chip.admHead (c : Chip) (owner : Nat) : Option Wqe :=
  if !c.admOn owner || c.admErr owner || c.gap || (Table.find? owner c.admWait).isSome || c.cqStalled (qidOf owner 1) then none
  else (c.queue (qidOf owner 0)).bind (fun s => s.ents.head?)

/-! Refusals (R279): the status and DETAIL. -/

namespace Adm
def quota : Nat × Nat := (4, 1)
def noSuch : Nat × Nat := (4, 2)
def privilege : Nat × Nat := (4, 3)
def state : Nat × Nat := (12, 4)
def inUse : Nat × Nat := (12, 5)
def range : Nat × Nat := (12, 6)
def absent : Nat × Nat := (12, 7)
end Adm

def Chip.admRefuse (c : Chip) (owner : Nat) (w : Nat × Nat) : Chip := c.admDone owner w.1 w.2 0 0
def Chip.admOk (c : Chip) (owner : Nat) (r0 : Nat := 0) (r1 : Nat := 0) : Chip := c.admDone owner St.ok 0 r0 r1

/-- A row of an admin command: the command at the head, when it has the opcode; a reserved bit refuses it. -/
def Chip.admRow (c : Chip) (owner op : Nat) (f : Wqe → Chip) : Chip :=
  match c.admHead owner with
  | none => c
  | some e => if e.op ≠ op then c else (if e.admRsv then c.admRefuse owner Adm.range else f e).ringFails

/-- The first refusal of a list of checks. -/
def firstBad (l : List (Bool × (Nat × Nat))) : Option (Nat × Nat) := (l.find? (·.1)).map (·.2)

def Wqe.w64 (e : Wqe) (k : Nat) : Nat := e.w k + e.w (k + 1) * 2 ^ 32

/-! ### Queues (R261, R262, R280, R350, R370) -/

/-- Queues an owner holds, beside indices 0 and 1. -/
def Chip.queuesUsed (c : Chip) (owner : Nat) : Nat := (c.queues.filter (fun e => qOwner e.1 == owner && 2 ≤ e.1 % 8192)).length
/-- Queues an owner may hold. -/
def Chip.queueQuota (c : Chip) (owner : Nat) : Nat := if owner = 512 then 8190 else c.rd F.INS_QUOTA_Q_QUEUES owner

/-- The first number at or after `r`, cyclically in [lo, lo + n), that is free. -/
def cycFree (lo n : Nat) (used : Nat → Bool) : Nat → Nat → Option Nat
  | 0, _ => none
  | fuel + 1, r => if used (lo + r % n) then cycFree lo n used fuel (r + 1) else some (lo + r % n)

/-- A number that the module assigns among the free ones: which one, the spec leaves open (log entry 10). -/
def Chip.assign (c : Chip) (lo n : Nat) (used : Nat → Bool) : Option Nat × Chip :=
  let (r, c) := c.free
  (cycFree lo n used n (r % n), c)

/-- A vector that a completion ring may name (R350). -/
def vectorOk (owner v : Nat) : Bool := v == 0x7FF || (if owner = 512 then 3 ≤ v && v < 2047 else 1 ≤ v && v < 64)

/-- A ring base is aligned on its size, and on 4 KiB at least. -/
def ringAligned (base log2 bytes : Nat) : Bool := base % max 4096 (2 ^ log2 * bytes) == 0

/-- A queue of a kind with a local index that an owner's command may name. -/
def Chip.ownQueue (c : Chip) (owner loc : Nat) (k : QKind → Bool) : Option Queue :=
  if loc < 2 then none else (c.queue (qidOf owner loc)).bind (fun q => if k q.kind then some q else none)

/-- Create a queue at a free local index. -/
def Chip.newQueue (c : Chip) (owner : Nat) (q : Queue) : Chip :=
  if c.queueQuota owner ≤ c.queuesUsed owner then c.admRefuse owner Adm.quota
  else match c.assign 2 8190 (fun l => (c.queue (qidOf owner l)).isSome) with
    | (some l, c) => (c.setQueue (qidOf owner l) q).admOk owner l
    | (none, c) => c.admRefuse owner Adm.quota

/-- CREATE_CQ. -/
def Chip.createCq (c : Chip) (owner : Nat) : Chip :=
  c.admRow owner 0x01 (fun e =>
    let log2 := field (e.w 1) 0 5
    let v := field (e.w 1) 16 11
    match firstBad [(decide (log2 < 4 ∨ 16 < log2) || !vectorOk owner v || !ringAligned (e.w64 2) log2 32 || e.w 4 % 4 != 0, Adm.range)] with
    | some w => c.admRefuse owner w
    | none => c.newQueue owner { kind := .cq, base := e.w64 2, log2 := log2, shadow := e.w64 4, vector := v })

/-- DESTROY_CQ. -/
def Chip.destroyCq (c : Chip) (owner : Nat) : Chip :=
  c.admRow owner 0x02 (fun e =>
    let q := qidOf owner (e.w 1)
    match firstBad [((c.ownQueue owner (e.w 1) (· == .cq)).isNone, Adm.noSuch),
        (c.queues.any (fun x => (x.2.kind == .sq || x.2.kind == .rq) && x.2.cq == q), Adm.inUse)] with
    | some w => c.admRefuse owner w
    | none => ({ c with queues := Table.erase q c.queues }).admOk owner)

/-- CREATE_WQ. -/
def Chip.createWq (c : Chip) (owner : Nat) : Chip :=
  c.admRow owner 0x03 (fun e =>
    let log2 := field (e.w 1) 0 5
    match firstBad [(decide (log2 < 4 ∨ 16 < log2) || !ringAligned (e.w64 3) log2 64, Adm.range),
        ((c.ownQueue owner (e.w 2) (· == .cq)).isNone, Adm.noSuch)] with
    | some w => c.admRefuse owner w
    | none => c.newQueue owner { kind := if bit (e.w 1) 8 then .rq else .sq, base := e.w64 3, log2 := log2, cq := qidOf owner (e.w 2) })

/-- DESTROY_WQ. -/
def Chip.destroyWq (c : Chip) (owner : Nat) : Chip :=
  c.admRow owner 0x04 (fun e =>
    match c.ownQueue owner (e.w 1) (fun k => k == .sq || k == .rq) with
    | none => c.admRefuse owner Adm.noSuch
    | some q =>
      if q.qp.isSome then c.admRefuse owner Adm.inUse
      else ({ c with queues := Table.erase (qidOf owner (e.w 1)) c.queues }).admOk owner)

/-! ### Queue pairs (R275, R277, R280, R289) -/

/-- Queue pairs an owner holds. -/
def Chip.qpsUsed (c : Chip) (owner : Nat) : Nat := (c.qps.filter (fun e => e.2.owner == owner)).length
/-- Queue pairs an owner may hold: its quota, or what the instances' quotas leave to the manager. -/
def Chip.qpQuota (c : Chip) (owner : Nat) : Nat :=
  if owner = 512 then 262144 - ((List.range 512).map (fun i => c.rd F.INS_QUOTA_QP_QPS i)).sum else c.rd F.INS_QUOTA_QP_QPS owner
/-- Pinned contexts (R288). -/
def Chip.pinnedQps (c : Chip) : Nat := (c.qps.filter (fun e => c.ctxPinned e.1)).length

/-- CREATE_QP. -/
def Chip.createQp (c : Chip) (owner : Nat) : Chip :=
  c.admRow owner 0x05 (fun e =>
    let f (k : Nat) : Bool := bit (e.w 3) k
    let sq := c.ownQueue owner (e.w 1) (· == .sq)
    let rq := c.ownQueue owner (e.w 2) (· == .rq)
    let taken (q : Option Queue) : Bool := match q with | some q => q.qp.isSome | none => false
    match firstBad [((f 6 || f 7) && owner != 512, Adm.privilege), ((f 0 || f 1) && c.variant == .r, Adm.absent), (f 1 && !f 0, Adm.range),
        (sq.isNone || rq.isNone, Adm.noSuch), (!c.on F.RME_CTRL_ENABLE, Adm.state), (taken sq || taken rq, Adm.inUse),
        (decide (c.qpQuota owner ≤ c.qpsUsed owner) || (f 7 && decide (1024 ≤ c.pinnedQps)), Adm.quota)] with
    | some w => c.admRefuse owner w
    | none =>
      match c.assign 1 262144 (fun n => (c.qpair n).isSome || c.lastQpns.contains n) with
      | (none, c) => c.admRefuse owner Adm.quota
      | (some n, c) =>
        let sqId := qidOf owner (e.w 1)
        let rqId := qidOf owner (e.w 2)
        let c := c.setQp n { owner := owner, sq := sqId, rq := rqId, eth := f 0, prot := f 1, rWrite := f 2, rRead := f 3, rAtomic := f 4, stallIn := f 5,
                             combine := f 6, pin := f 7, winVa := e.w64 4, winLen := e.w64 6 }
        let c := (c.onQueue sqId (fun q => { q with qp := some n })).onQueue rqId (fun q => { q with qp := some n })
        ({ c with lastQpns := (n :: c.lastQpns).take 65536 }).admOk owner n)

/-- A queue pair that an owner's command names. -/
def Chip.ownQp (c : Chip) (owner n : Nat) : Option QPair := (c.qpair n).bind (fun q => if q.owner = owner then some q else none)

/-- The keys that CONNECT_QP names of a protected queue pair (R289, R337). -/
def Chip.connKeysBad (c : Chip) (owner : Nat) (q : QPair) : Bool :=
  let t := c.keySlot 0 q.txKey
  let r := c.keySlot 0 q.rxKey
  let o := sourceOf owner
  q.prot && (t.st != .valid || t.owner != o || t.tx.isSome || !(r.st == .valid || r.st == .spent) || r.owner != o)

/-- An admin command on a queue pair of its owner, performed with its context on the die (R288). -/
def Chip.qpRow (c : Chip) (owner op : Nat) (f : Chip → Wqe → Nat → QPair → Chip) : Chip :=
  c.admRow owner op (fun e =>
    let n := if op = 0x06 then field (e.w 1) 0 24 else e.w 1
    match c.ownQp owner n with
    | none => c.admRefuse owner Adm.noSuch
    | some q => c.withCtx n (.admin owner op) (fun c => f c e n q))

/-- CONNECT_QP. -/
def Chip.connectQp (c : Chip) (owner : Nat) : Chip :=
  c.qpRow owner 0x06 (fun c e n q =>
    let q := { q with conn := e.words }
    let w := q.window
    match firstBad [(decide (w = 0 ∨ 4096 < w) || (q.prot && w % 16 != 0) || (q.eth && !([1024, 2048, 4096, 8192].contains q.mtu)), Adm.range),
        (q.st != .idle || q.closing.isSome, Adm.state), (c.connKeysBad owner q, Adm.inUse)] with
    | some w => c.admRefuse owner w
    | none =>
      let wait := field (e.w 12) 16 16
      let ms := if wait = 0 then c.rd F.ORT_CONN_WAIT_MS else wait
      let posted := match c.queue q.rq with | some s => span s.p s.c | none => 0
      let q := { q with
        st := .connecting, retryLimit := c.rd F.ORT_QP_TIMEOUT_RETRY_LIMIT, creditWait := c.rd F.ORT_QP_TIMEOUT_CREDIT_WAIT
        connEnd := c.beat + ms * nsBeats 1000000, connAt := c.beat + nsBeats 1000000, next := q.initPsn, una := q.initPsn, exp := q.expectPsn, mgrant := posted }
      let c := c.setQp n q
      let c := if q.prot then c.setKey 0 q.txKey { c.keySlot 0 q.txKey with tx := some n } else c
      ((c.grantOne n).sendConn n Ort.connect).admOk owner)

/-- RESET_QP and DESTROY_QP. -/
def Chip.closeQp (c : Chip) (owner op : Nat) : Chip :=
  c.qpRow owner op (fun c _ n q =>
    if q.closing.isSome then c.admRefuse owner Adm.state
    else ({ c with admWait := Table.insert owner (.close n) (Table.erase owner c.admWait) }).closeStart n (op == 0x08))

/-- ORT_QP_STATE.STATE codes. -/
def QpSt.code : QpSt → Nat
  | .idle => 1 | .connecting => 2 | .connected => 3 | .error => 4

/-- QUERY_QP. -/
def Chip.queryQp (c : Chip) (owner : Nat) : Chip :=
  c.qpRow owner 0x09 (fun c _ _ q => c.admOk owner (q.st.code + q.retries * 16 + q.cause * 256) (q.next % 2 ^ 32))

/-! ### Almanac commands (R280) -/

/-- Codes of ALM_STATE.STATE (R89). -/
def AlmState.code : AlmState → Nat
  | .empty => 0 | .loaded => 1 | .admitted => 2 | .running => 3 | .held => 4 | .done => 5 | .refused => 6

/-- ALM_STATE of a context as a word. -/
def Chip.almWord (c : Chip) (n : Nat) : Nat :=
  (c.ctx n).st.code + b2n (c.ctx n).adm.isSome * 16 + c.rd F.ALM_STATE_REASON 0 n * 65536 + c.rd F.ALM_STATE_CMD_ERR 0 n * 2 ^ 24

/-- The context an admin command acts on. -/
def admCtx (owner : Nat) (e : Wqe) : Nat := if owner = 512 then e.w 1 % 2 else owner + 2

/-- The completion of an almanac command: CMD_ERR other than 0 is STATE. -/
def Chip.almAdmDone (c : Chip) (owner n : Nat) : Chip :=
  let bad := c.rd F.ALM_STATE_CMD_ERR 0 n != 0
  c.admDone owner (if bad then St.format else St.ok) (if bad then 4 else 0) (c.almWord n) (c.rd F.ALM_FAIL_IDX_INDEX 0 n)

/-- An almanac command of an owner. -/
def Chip.almAdm (c : Chip) (owner op : Nat) (f : Nat → Wqe → Chip → Chip) : Chip :=
  c.admRow owner op (fun e =>
    if owner ≠ 512 ∧ (e.w 1 ≠ 0 ∨ (op = 0x12 ∧ e.w64 2 ≠ 0)) then c.admRefuse owner Adm.privilege
    else f (admCtx owner e) e c)

/-- ALM_LOAD: the context's addresses, then LOAD. -/
def Chip.almAdmLoad (c : Chip) (owner : Nat) : Chip :=
  c.almAdm owner 0x10 (fun n e c =>
    let c := if c.almGate n (fun s => s.idle) (decide (n < 2) && c.chaffBusy) ≠ 0 then c
      else (((c.wr F.ALM_BASE_VA (e.w64 2) 0 n).wr F.ALM_DESC_VA (e.w64 4) 0 n).wr F.ALM_DESC_COUNT_COUNT (e.w 6) 0 n).wr F.ALM_GROUP_VA (e.w64 7) 0 n
    (c.almLoad n).almAdmDone owner n)

/-- ALM_ADMIT: it completes when admission ends. -/
def Chip.almAdmAdmit (c : Chip) (owner : Nat) : Chip :=
  c.almAdm owner 0x11 (fun n _ c =>
    let c := c.almAdmit n
    if c.rd F.ALM_STATE_CMD_ERR 0 n ≠ 0 ∨ (c.ctx n).adm.isNone then c.almAdmDone owner n
    else { c with admWait := Table.insert owner (.admission n) (Table.erase owner c.admWait) })

/-- ALM_RUN: the manager's takes its start bell from W2–W3. -/
def Chip.almAdmRun (c : Chip) (owner : Nat) : Chip :=
  c.almAdm owner 0x12 (fun n e c =>
    let c := if owner = 512 then c.wr F.ALM_START_BELL (e.w64 2) 0 n else c
    (c.almRun n).almAdmDone owner n)

/-- ALM_STOP: it completes when DONE is reached. -/
def Chip.almAdmStop (c : Chip) (owner : Nat) : Chip :=
  c.almAdm owner 0x13 (fun n _ c =>
    let c := c.almStop n
    if c.rd F.ALM_STATE_CMD_ERR 0 n ≠ 0 then c.almAdmDone owner n
    else { c with admWait := Table.insert owner (.done n) (Table.erase owner c.admWait) })

/-- ALM_UNLOAD. -/
def Chip.almAdmUnload (c : Chip) (owner : Nat) : Chip := c.almAdm owner 0x14 (fun n _ c => (c.almUnload n).almAdmDone owner n)

/-- Almanac commands whose end has come complete; during a firmware update's service gap their completions wait (R396, R397). -/
def Chip.admPoll (c : Chip) : Chip :=
  if c.gap then c
  else c.admWait.foldl (fun c e =>
    match e.2 with
    | .admission n => if (c.ctx n).adm.isNone then c.almAdmDone e.1 n else c
    | .done n => if (c.ctx n).st = .running ∨ (c.ctx n).st = .held then c else c.almAdmDone e.1 n
    | _ => c) c

/-! ### Keys, NOP, QUERY_USE, unlisted opcodes -/

/-- Key slots an owner may hold of a kind. -/
def Chip.keyQuota (c : Chip) (kind owner : Nat) : Nat :=
  let q (i : Nat) : Nat := if kind = 0 then c.rd F.INS_QUOTA_KEY_GCM i else c.rd F.INS_QUOTA_KEY_XTS i
  if owner = 512 then keySlots kind - ((List.range 512).map q).sum else q owner

/-- KEY_ALLOC. -/
def Chip.keyAlloc (c : Chip) (owner : Nat) : Chip :=
  c.admRow owner 0x20 (fun e =>
    let kind := e.w 1
    let o := sourceOf owner
    match firstBad [(c.variant == .r, Adm.absent), (decide (c.keyQuota kind owner ≤ c.keysHeld kind o), Adm.quota)] with
    | some w => c.admRefuse owner w
    | none => match c.assign 0 (keySlots kind) (fun s => (c.keySlot kind s).st != .free) with
      | (some s, c) => (c.setKey kind s { st := .empty, owner := o }).admOk owner s
      | (none, c) => c.admRefuse owner Adm.quota)

/-- KEY_FREE. -/
def Chip.keyFree (c : Chip) (owner : Nat) : Chip :=
  c.admRow owner 0x21 (fun e =>
    let kind := field (e.w 1) 12 1
    let s := field (e.w 1) 0 12
    let k := c.keySlot kind s
    match firstBad [(c.variant == .r, Adm.absent), (decide (keySlots kind ≤ s) || k.st == .free || k.owner != sourceOf owner, Adm.noSuch),
        (c.keyBound kind s, Adm.inUse)] with
    | some w => c.admRefuse owner w
    | none => (c.setKey kind s {}).admOk owner)

/-- NOP. -/
def Chip.admNop (c : Chip) (owner : Nat) : Chip := c.admRow owner 0x30 (fun _ => c.admOk owner)

/-- QUERY_USE. -/
def Chip.queryUse (c : Chip) (owner : Nat) : Chip :=
  c.admRow owner 0x31 (fun _ =>
    c.admOk owner (c.queuesUsed owner + (c.keysHeld 0 (sourceOf owner) + c.keysHeld 1 (sourceOf owner)) * 65536) (c.qpsUsed owner))

/-- ADMIN_UNLISTED_OPCODE. -/
def Chip.admUnlisted (c : Chip) (owner : Nat) : Chip :=
  match c.admHead owner with
  | some e => if admListed e.op then c else (c.admRefuse owner Adm.range).ringFails
  | none => c

/-! ### PREFETCH and ADVISE (R161–R164) -/

/-- The level-0 leaf of a page: its table entry's address and value. -/
def Chip.leaf0 (c : Chip) (space va : Nat) : Option (Nat × Nat) :=
  match c.walk space va with
  | some (.leaf 0 pte, _ :: up :: _) => some (Pte.addr up.pte + 8 * (va / 2 ^ 16 % 32), pte)
  | _ => none

/-- The tier a page goes to: the destination, or with PREFERRED its hint. -/
def Chip.destTier (c : Chip) (p : Prefetch) (va : Nat) : Option Tier :=
  match p.dest with
  | some t => some t
  | none => (c.hintAt p.space va).bind (·.pref)

def pageVa (p : Prefetch) (k : Nat) : Nat := p.va + k * 65536

/-- Pages of a prefetch that need a frame of a tier. -/
def Chip.framesNeeded (c : Chip) (p : Prefetch) (t : Tier) : Nat :=
  ((List.range p.pages).filter (fun k => p.next ≤ k && c.destTier p (pageVa p k) == some t &&
    (match c.leaf0 p.space (pageVa p k) with | some (_, e) => Pte.tier e != t | none => false))).length

/-- The destination pool of a prefetch is disabled (R170): with PREFERRED, that of some page's tier. -/
def Chip.poolOff (c : Chip) (p : Prefetch) : Bool :=
  let off (t : Tier) : Bool := c.rd F.XLT_POOL_SIZE_LOG2 0 (poolBank p.space (poolOf t)) == 0
  match p.dest with
  | some t => off t
  | none => (List.range p.pages).any (fun k => (c.destTier p (pageVa p k)).any off)

/-- Every pool that a prefetch needs holds its frames. -/
def Chip.framesReady (c : Chip) (p : Prefetch) : Bool :=
  [Tier.crib, Tier.grn, Tier.host].all (fun t => decide (c.framesNeeded p t ≤ c.poolFill (poolBank p.space (poolOf t))))

/-- Codes of the destination of a PREFETCH. -/
def destOf (v : Nat) : Option (Option Tier) :=
  if v = 0 then some (some .crib) else if v = 1 then some (some .grn) else if v = 2 then some (some .host) else if v = 3 then some none else none

/-- The checks of R161 before any page moves; a disabled destination pool fails the last of them at once (R170). -/
def Chip.prefetchBad (c : Chip) (p : Prefetch) (len : Nat) : Option Nat :=
  let pages := (List.range p.pages).map (pageVa p)
  let big (t : Option Tier) : Bool := t == some .crib || t == some .grn || t == some .host
  let ctxs := if p.space = steadSpace then [0, 1] else [p.space + 2]
  if p.va % 65536 ≠ 0 ∨ len % 65536 ≠ 0 ∨ 2 ^ 32 < len then some St.length
  else if pages.any (fun a => (c.leaf0 p.space a).isNone) then some St.translation
  else if pages.any (fun a => !big ((c.leaf0 p.space a).map (fun e => Pte.tier e.2)) || !big (c.destTier p a)) then some St.format
  else if ctxs.any (fun n => let s := (c.ctx n).st; s == .admitted || s == .running || s == .held) then some St.localProtection
  else if c.poolOff p then some St.rnrExhausted
  else none

/-- PREFETCH: the command starts, or fails its checks. -/
def Chip.prefetch (c : Chip) (owner : Nat) : Chip :=
  c.admRow owner 0x18 (fun e =>
    match destOf (e.w 1) with
    | none => c.admRefuse owner Adm.range
    | some d =>
      let len := e.w64 4
      let p : Prefetch := ⟨owner, e.w64 2, len / 65536, 0, d, 0, c.beat, false⟩
      match c.prefetchBad p len with
      | some st => c.admDone owner st 0 0 0
      | none =>
        let p := { p with waiting := !c.framesReady p }
        { c with prefetches := c.prefetches ++ [p], admWait := Table.insert owner .prefetch (Table.erase owner c.admWait) })

/-- Move one page to a tier (R162). -/
def Chip.movePage (c : Chip) (space va : Nat) (t : Tier) : Chip :=
  match c.leaf0 space va with
  | none => c
  | some (slot, pte) =>
    if Pte.tier pte = t then c
    else
      let (frame, c) := c.takeFrame space t
      let wnn := match c.hintAt space va with | some h => h.wnn | none => false
      let c : Chip :=
        if wnn then
          let tag := c.freeCtr
          let c : Chip := { c with freeCtr := tag + 1 }
          let c : Chip := match t with
            | .crib => { c with crib := c.crib.undefine tag frame 65536 }
            | .grn => { c with grn := c.grn.undefine tag frame 65536 }
            | .host => { c with host := c.host.undefine tag frame 65536 }
            | .loft => c
          let x := c.space space
          c.setSpace space { x with hints := (mergeHints (adviseGo (fun h => { h with wnn := false }) (va / 65536) (va / 65536 + 1) x.hints)).filter (fun h => !h.none) }
        else
          let (d, c) := c.tierRead (Pte.tier pte) space (Pte.addr pte) 65536
          c.tierWrite t space frame d
      let new := putField (putField pte 6 2 t.code) 8 49 (frame / 256)
      let c := c.tierWrite .crib space slot (clean (toLE 8 new))
      c.invalidated ⟨0, space, false, va / 65536, 1⟩

/-- PREFETCH_PAGE_DONE: the next page of a space's prefetch is moved, once its frames are there; after the last the REMAPPED notice goes out, with
the tier of the first page in NTIER (R155 names one tier for a range; DESIGN CHOICE, log entry 210). -/
def Chip.prefetchPage (c : Chip) (space : Nat) : Chip :=
  match c.prefetches.find? (fun p => p.space == space) with
  | none => c
  | some p =>
    if p.pages < p.next ∨ (p.waiting && !c.framesReady p) then c
    else
      let put (c : Chip) (q : Prefetch) : Chip := { c with prefetches := c.prefetches.map (fun x => if x.space = space then q else x) }
      if p.next < p.pages then
        let va := pageVa p p.next
        let c := match c.destTier p va with | some t => c.movePage space va t | none => c
        put c { p with waiting := false, next := p.next + 1 }
      else put (c.notice space p.va p.pages 0 ((c.destTier p p.va).getD .crib)) { p with next := p.pages + 1 }

/-- A prefetch whose notice is written completes OK. -/
def Chip.prefetchNoticed (c : Chip) (space : Nat) : Chip :=
  match c.prefetches.find? (fun p => p.space == space) with
  | none => c
  | some p =>
    if p.pages < p.next ∧ !((c.space space).queue ++ (c.space space).waiting).any (fun q => q.cause == Cause.notice && q.kind == 0) then
      (({ c with prefetches := c.prefetches.filter (fun x => x.space ≠ space) }).admOk space).ringFails
    else c

/-- PREFETCH_POOL_TIMEOUT: frames did not come within XLT_FQ_TIMEOUT; nothing has moved. -/
def Chip.prefetchTimeout (c : Chip) (space : Nat) : Chip :=
  match c.prefetches.find? (fun p => p.space == space) with
  | none => c
  | some p =>
    if !p.waiting || c.framesReady p then c
    else
      let c := c.advanceTo (p.started + c.rd F.XLT_FQ_TIMEOUT_MS 0 space * nsBeats 1000000)
      (({ c with prefetches := c.prefetches.filter (fun x => x.space ≠ space) }).admDone space St.rnrExhausted 0 0 0).ringFails

/-- The change a hint makes to a range (R164). -/
def hintChange (hint : Nat) (clear : Bool) (tier by3 : Nat) (h : Hint) : Hint :=
  if hint = 0 then { h with readMostly := !clear }
  else if hint = 1 then { h with pref := if clear then none else some (Tier.ofCode tier) }
  else if hint = 2 then { h with by3 := if clear then 0 else by3 }
  else { h with wnn := !clear }

/-- ADVISE. -/
def Chip.advise (c : Chip) (owner : Nat) : Chip :=
  c.admRow owner 0x19 (fun e =>
    let hint := field (e.w 1) 0 2
    let clear := bit (e.w 1) 2
    let lo := e.w64 2 / 65536
    let hi := ceilDiv (e.w64 2 + e.w64 4) 65536
    let x := c.space owner
    let hints := mergeHints ((adviseGo (hintChange hint clear (field (e.w 1) 4 2) (field (e.w 1) 8 3)) lo hi x.hints).filter (fun h => !h.none))
    if 256 < hints.length then c.admDone owner St.length 0 0 0
    else
      let c := c.setSpace owner { x with hints := hints }
      let c := if hint = 3 ∧ !clear then c.unpin owner lo hi else if hint = 0 then c.repin owner lo hi else c
      let c := if hint = 2 ∧ !clear ∧ field (e.w 1) 8 3 ≠ 0 then (pageList lo hi).foldl (fun c a => c.loadPage owner a (field (e.w 1) 8 3)) c else c
      c.admOk owner)

/-! ### Replies to fault requests (R158, R159) -/

/-- One joined requester goes on with a reply. -/
def Chip.answer (c : Chip) (ok : Bool) (w : Waiter) : Chip :=
  match w with
  | .entry n idx => c.reissue n idx ok
  | .sqe n => c.resumeSqe n ok
  | .inbound n => c.resumeInbound n ok
  | .ring q => (c.resumeRing q ok).ringFails
  | .none => c

/-- Every requester of a request goes on. -/
def Chip.answerAll (c : Chip) (ok : Bool) (q : FReq) : Chip := q.joined.foldl (fun c w => c.answer ok w) c

/-- FAULT_REPLY_RETRY and FAULT_REPLY_FAIL: a write of XLT_FQ_REPLY that names a pending request; any other sets REPLY_ERR. -/
def Chip.faultReply (c : Chip) (space id : Nat) (ok : Bool) : Chip :=
  if 512 < space then c.wr F.XLT_FQ_STATUS_REPLY_ERR 1 0 (c.rd F.XLT_SEL_SPACE)
  else
    let x := c.space space
    match x.opened.find? (fun q => q.id == id) with
    | none => c.wr F.XLT_FQ_STATUS_REPLY_ERR 1 0 space
    | some q => ((c.setSpace space { x with opened := x.opened.erase q }).fqRefill space).answerAll ok q

/-- FAULT_REPLY_TIMEOUT: the oldest written request of a space is not answered in time and fails. -/
def Chip.faultTimeout (c : Chip) (space : Nat) : Chip :=
  let x := c.space space
  match x.opened with
  | [] => c
  | q :: rest =>
    let c := c.advanceTo (q.written + c.rd F.XLT_FQ_TIMEOUT_MS 0 space * nsBeats 1000000)
    ((c.setSpace space { x with opened := rest }).fqRefill space).answerAll false q

end Sys2Proof.Machine
end

