-- ==== Sys2Proof/Machine/Ethernet.lean ====
section
/-!
DEFINITION. Machine/Ethernet.lean: the Ethernet ports: reception and its buffer, priority flow control, preemption, time maps, gates, shapers,
transmission, the safe state (R307–R331).
-/
namespace Sys2Proof.Machine

/-! ### Ports -/

/-- Port `p` is present (R28). -/
def Chip.ethPresent (c : Chip) (p : Nat) : Bool := p < 4 && c.variant != .r
/-- A sub-port that exists: 0, and 1 in breakout (R307). -/
def Chip.subPresent (c : Chip) (p s : Nat) : Bool := c.ethPresent p && (s == 0 || (s == 1 && c.breakout p))
/-- Read and write a field of a sub-port. -/
def Chip.erd (c : Chip) (f : Fld) (p s : Nat) (a : Nat := 0) : Nat := c.rd f p (subBank s) a
def Chip.ewr (c : Chip) (f : Fld) (v p s : Nat) (a : Nat := 0) : Chip := c.wr f v p (subBank s) a

/-- An Ethernet counter counts; an event lost at its maximum sets its bit of ETH_CNT_OVF (R330). -/
def Chip.ecount (c : Chip) (f : Fld) (p s : Nat) (n : Nat := 1) : Chip :=
  let v := c.erd f p s + n
  if v < 2 ^ f.width then c.ewr f v p s
  else (c.ewr f (2 ^ f.width - 1) p s).ewr F.ETH_CNT_OVF_OVF (setBit (c.erd F.ETH_CNT_OVF_OVF p s) ((f.off - 0x400) / 8) true) p s

/-- Length of a MAC control frame. -/
def macFrameLen : Nat := 64
def macDest : Nat := 0x0180C2000001
def asDest : Nat := 0x0180C200000E

/-- ENABLE of a port, or of either of its sub-ports (R307). -/
def Chip.ethEnabled (c : Chip) (p : Nat) : Bool :=
  c.erd F.ETH_CTRL_ENABLE p 0 == 1 || (c.breakout p && c.erd F.ETH_CTRL_ENABLE p 1 == 1)

/-- Preemption is active (R316). -/
def Chip.preempts (c : Chip) (p s : Nat) : Bool := c.erd F.ETH_STATUS_PREEMPT_ACTIVE p s == 1
/-- A priority is express. -/
def Chip.express (c : Chip) (p s prio : Nat) : Bool := bit (c.erd F.ETH_PREEMPT_EXPRESS p s) prio

/-- 1/1,000 beats that `n` bytes take: 100 bytes per ns at 800 Gb/s, 50 at 400 (0.9 beats per ns). -/
def Chip.byteTime (c : Chip) (p n : Nat) : Nat := n * (if c.breakout p then 18 else 9)
/-- Beats that `n` bytes take, rounded up. -/
def Chip.txBeats (c : Chip) (p n : Nat) : Nat := ceilDiv (c.byteTime p n) 1000

/-! ### Priority flow control (R313–R315) -/

/-- Headroom of a priority of a sub-port in bytes. -/
def Chip.headroom (c : Chip) (p s : Nat) : Nat := c.erd F.ETH_PFC_CFG_HEADROOM p s * 1024
/-- PFC is enabled on a priority. -/
def Chip.pfcOn (c : Chip) (p s prio : Nat) : Bool := bit (c.erd F.ETH_PFC_CFG_EN p s) prio
def Chip.subs (c : Chip) (p : Nat) : List Nat := if c.breakout p then [0, 1] else [0]
/-- Bytes of a physical port's buffer that headrooms reserve. -/
def Chip.reserved (c : Chip) (p : Nat) : Nat := ((c.subs p).map (fun s => popCount (c.erd F.ETH_PFC_CFG_EN p s) 8 * c.headroom p s)).sum
/-- Buffered bytes of a physical port that `q` selects. -/
def Chip.buffered (c : Chip) (p : Nat) (q : Nat → ERx → Bool) : Nat :=
  ((c.subs p).map (fun s => ((((c.eport (portKey p s)).rx.filter (q s)).map (·.frame.len)).sum))).sum
/-- Free bytes outside the headrooms. -/
def Chip.sharedFree (c : Chip) (p : Nat) : Nat := 2 ^ 23 - c.reserved p - c.buffered p (fun _ r => !r.reserve)
/-- Free bytes of a priority's headroom. -/
def Chip.headFree (c : Chip) (p s prio : Nat) : Nat := c.headroom p s - c.buffered p (fun t r => t == s && r.prio == prio && r.reserve)

/-- A PFC frame for some priorities waits to be sent, while the link is up. -/
def Chip.sendPfc (c : Chip) (p s : Nat) (quanta : List (Nat × Nat)) : Chip :=
  if !c.ethUp p s then c
  else c.onPort (portKey p s) (fun e => { e with mac := e.mac ++ [{ dmac := macDest, smac := c.rd F.ETH_MAC_ADDR p, len := macFrameLen, body := .pfc quanta }] })

/-- A priority goes into XOFF. -/
def Chip.xoff (c : Chip) (p s prio : Nat) : Chip :=
  let c := (c.sendPfc p s [(prio, 0xFFFF)]).ewr F.ETH_PFC_STATUS_TX_XOFF (setBit (c.erd F.ETH_PFC_STATUS_TX_XOFF p s) prio true) p s
  c.onPort (portKey p s) (fun e => { e with xoffs := (prio, c.beat) :: e.xoffs.filter (·.1 ≠ prio) })

/-- A priority leaves XOFF. -/
def Chip.xon (c : Chip) (p s prio : Nat) : Chip :=
  let c := (c.sendPfc p s [(prio, 0)]).ewr F.ETH_PFC_STATUS_TX_XOFF (setBit (c.erd F.ETH_PFC_STATUS_TX_XOFF p s) prio false) p s
  c.onPort (portKey p s) (fun e => { e with xoffs := e.xoffs.filter (·.1 ≠ prio) })

def Chip.xoffed (c : Chip) (p s prio : Nat) : Bool := bit (c.erd F.ETH_PFC_STATUS_TX_XOFF p s) prio

/-- The free share of a priority has fallen to its headroom. -/
def Chip.shareLow (c : Chip) (p s prio : Nat) : Bool := decide (c.sharedFree p + c.headFree p s prio ≤ c.headroom p s)

/-- R313 holds in XOFF every priority whose free share has fallen to its headroom. -/
def Chip.holdShares (c : Chip) (p : Nat) : Chip :=
  (c.subs p).foldl (fun c s => (List.range 8).foldl (fun c prio =>
    if c.pfcOn p s prio && !(c.eport (portKey p s)).held.contains prio && c.shareLow p s prio then
      let c := c.onPort (portKey p s) (fun e => { e with held := prio :: e.held })
      if c.xoffed p s prio then c else c.xoff p s prio
    else c) c) c

/-- A priority that R313 holds in XOFF is released once its occupancy is below half its headroom, or PFC is off for it; in the safe state XOFF stays
(R313, R329). -/
def Chip.releaseShare (c : Chip) (p s prio : Nat) : Chip :=
  let occ := c.buffered p (fun t r => t == s && r.prio == prio)
  if (decide (2 * occ < c.headroom p s) || !c.pfcOn p s prio) && (c.eport (portKey p s)).held.contains prio then
    let c := c.onPort (portKey p s) (fun e => { e with held := e.held.filter (· ≠ prio) })
    if c.mst = .safe then c else c.xon p s prio
  else c

/-- What R313 says of every priority of a port once its reservations change. -/
def Chip.recheckShares (c : Chip) (p : Nat) : Chip :=
  ((c.subs p).foldl (fun c s => (List.range 8).foldl (fun c prio => c.releaseShare p s prio) c) c).holdShares p

/-- A received PFC frame of a length: every named priority with PFC is paused for its quanta, or released; a later pause replaces the rest of an earlier one. -/
def Chip.pfcReceive (c : Chip) (p s : Nat) (quanta : List (Nat × Nat)) (len : Nat := macFrameLen) : Chip :=
  if !c.subPresent p s || !c.ethUp p s then c
  else
    let c := ((c.ecount F.ETH_RX_PFC_COUNT p s).ecount F.ETH_RX_FRAMES_COUNT p s).ecount F.ETH_RX_OCTETS_COUNT p s len
    quanta.foldl (fun c x =>
      let (prio, q) := x
      if 8 ≤ prio || !c.pfcOn p s prio then c
      else
        let e := c.eport (portKey p s)
        let old := e.pauses.find? (fun y => y.1 == prio)
        let begin_ := match old with | some y => if c.beat * 1000 ≤ y.2.1 then y.2.2 else c.beat | none => c.beat
        let rest := e.pauses.filter (fun y => y.1 ≠ prio)
        let c := c.ewr F.ETH_PFC_STATUS_RX_PAUSED (setBit (c.erd F.ETH_PFC_STATUS_RX_PAUSED p s) prio (q != 0)) p s
        c.setPort (portKey p s) { e with pauses := if q = 0 then rest else (prio, c.beat * 1000 + q * (if c.breakout p then 1152 else 576), begin_) :: rest }) c

/-- PAUSE_EXPIRY: a pause runs out. -/
def Chip.pauseExpiry (c : Chip) (p s prio : Nat) : Chip :=
  let e := c.eport (portKey p s)
  match e.pauses.find? (fun y => y.1 == prio) with
  | none => c
  | some y =>
    let c := (c.advanceTo (ceilDiv y.2.1 1000)).ewr F.ETH_PFC_STATUS_RX_PAUSED (setBit (c.erd F.ETH_PFC_STATUS_RX_PAUSED p s) prio false) p s
    c.setPort (portKey p s) { e with pauses := e.pauses.filter (fun y => y.1 ≠ prio) }

/-- A pause without a break has reached the storm limit and holds on. -/
def Chip.stormHolds (c : Chip) (p s prio : Nat) : Bool :=
  (c.eport (portKey p s)).pauses.any (fun y => y.1 == prio && decide (c.beat * 1000 < y.2.1) &&
    decide (y.2.2 + c.erd F.ETH_PFC_CFG_STORM p s * nsBeats 10000000 ≤ c.beat))

/-- STORM_DETECT: a priority has been paused without a break for STORM × 10 ms. -/
def Chip.stormDetect (c : Chip) (p s prio : Nat) : Chip :=
  let e := c.eport (portKey p s)
  match e.pauses.find? (fun y => y.1 == prio) with
  | none => c
  | some y =>
    let t := y.2.2 + c.erd F.ETH_PFC_CFG_STORM p s * nsBeats 10000000
    if y.2.1 < t * 1000 ∨ bit (c.erd F.ETH_PFC_STATUS_STORM p s) prio then c
    else ((c.advanceTo t).ewr F.ETH_PFC_STATUS_STORM (setBit (c.erd F.ETH_PFC_STATUS_STORM p s) prio true) p s).event (Flt.eth p)

/-- XOFF_REPEAT_TIMER: XOFF goes again every 32,768 quanta while it holds. -/
def Chip.xoffRepeat (c : Chip) (p s prio : Nat) : Chip :=
  if !c.subPresent p s || !c.xoffed p s prio then c
  else
    let last := match (c.eport (portKey p s)).xoffs.find? (fun y => y.1 == prio) with | some y => y.2 | none => c.beat
    (c.advanceTo (last + ceilDiv (32768 * (if c.breakout p then 1152 else 576)) 1000)).xoff p s prio

/-! ### Reception (R309, R310, R312, R313) -/

/-- The priority of a received frame. -/
def Chip.rxPrio (c : Chip) (p s : Nat) (f : EFrame) : Nat :=
  match f.body with
  | .as _ => 7
  | .ort _ dscp _ _ _ _ _ _ => match f.vlan with
    | some (pcp, _) => pcp % 8
    | none =>
      let m := dscp % 64 / 8
      match dscp % 8 with
      | 0 => c.erd F.ETH_DSCP_MAP_PRIO0 p s m
      | 1 => c.erd F.ETH_DSCP_MAP_PRIO1 p s m
      | 2 => c.erd F.ETH_DSCP_MAP_PRIO2 p s m
      | 3 => c.erd F.ETH_DSCP_MAP_PRIO3 p s m
      | 4 => c.erd F.ETH_DSCP_MAP_PRIO4 p s m
      | 5 => c.erd F.ETH_DSCP_MAP_PRIO5 p s m
      | 6 => c.erd F.ETH_DSCP_MAP_PRIO6 p s m
      | _ => c.erd F.ETH_DSCP_MAP_PRIO7 p s m
  | _ => 0

/-- The port accepts a frame (R310). -/
def Chip.ethAccepts (c : Chip) (p : Nat) (f : EFrame) : Bool :=
  match f.body with
  | .ort v6 _ _ dip _ dport _ _ =>
    f.dmac == c.rd F.ETH_MAC_ADDR p && c.on F.ORT_CTRL_ENABLE && dport == c.rd F.ORT_UDP_PORT_PORT && dip == c.portIp p v6 &&
    (if v6 then c.on F.ORT_ADDR_CFG_V6_VALID 0 p else c.on F.ORT_ADDR_CFG_V4_VALID 0 p)
  | .as _ => f.dmac == asDest
  | _ => false

/-- The stamp of an IEEE 802.1AS event message (types 0–3) at a time in 1/64 beat (R317). -/
def EFrame.stampAt (f : EFrame) (t : Nat) : Option Nat :=
  match f.body with
  | .as msg => if ofBE (msg.take 1) % 16 < 4 then some t else none
  | _ => none

/-- Put an accepted frame in the buffer, or discard it for want of room; XOFF goes for each share that falls to its headroom. -/
def Chip.ethBuffer (c : Chip) (p s : Nat) (f : EFrame) (phase : Nat) : Chip :=
  let prio := c.rxPrio p s f
  let own := match f.body with | .as _ => true | _ => false
  let shared := decide (f.len ≤ c.sharedFree p)
  let head := c.pfcOn p s prio && decide (f.len ≤ c.headFree p s prio)
  if !shared && !head then c.ecount F.ETH_RX_DROP_BUF_COUNT p s
  else
    let c := (c.ecount F.ETH_RX_FRAMES_COUNT p s).ecount F.ETH_RX_OCTETS_COUNT p s f.len
    (c.onPort (portKey p s) (fun e => { e with rx := e.rx ++ [⟨prio, f, own, !shared, f.stampAt (c.beat * 64 + phase)⟩] })).holdShares p

/-- What a port does with a frame within the limits (R310, R329). -/
def Chip.ethFrame (c : Chip) (p s : Nat) (f : EFrame) (phase : Nat) : Chip :=
  match f.body with
  | .pfc quanta => if f.dmac = macDest then c.pfcReceive p s quanta f.len else c.ecount F.ETH_RX_OTHER_COUNT p s
  | .mac => if f.dmac = macDest then (c.ecount F.ETH_RX_FRAMES_COUNT p s).ecount F.ETH_RX_OCTETS_COUNT p s f.len else c.ecount F.ETH_RX_OTHER_COUNT p s
  | .as _ => if c.ethAccepts p f then c.ethBuffer p s f phase else c.ecount F.ETH_RX_OTHER_COUNT p s
  | _ => if c.mst = .safe then c else if c.ethAccepts p f then c.ethBuffer p s f phase else c.ecount F.ETH_RX_OTHER_COUNT p s

/-- ETH_FRAME_RECEIVE: the frame's check sequence, length and kind; `parts` tells a frame reassembled from fragments, and whether that succeeded. -/
def Chip.ethReceive (c : Chip) (p s : Nat) (b : List Byte) (phase : Nat) (parts : Option Bool) : Chip :=
  if !c.subPresent p s || !c.ethUp p s then c
  else if parts = some false then c.ecount F.ETH_RX_ASSY_ERR_COUNT p s
  else
    let c := if parts = some true then c.ecount F.ETH_RX_ASSY_OK_COUNT p s else c
    if fcsFails b then c.ecount F.ETH_RX_FCS_ERR_COUNT p s
    else if 9216 < b.length then c.ecount F.ETH_RX_OVERSIZE_COUNT p s
    else if b.length < 64 then c.ecount F.ETH_RX_RUNT_COUNT p s
    else c.ethFrame p s (EFrame.parse b) phase

/-- ETH_RX_BUFFER_RELEASE: the oldest frame of a priority leaves the buffer; XOFF ends when its occupancy is below half its headroom. -/
def Chip.ethRelease (c : Chip) (p s prio : Nat) : Chip :=
  let head := (c.eport (portKey p s)).rx.find? (fun r => r.prio == prio)
  match head with
  | none => c
  | some r =>
    let c := if r.taken then c else c.discardHead (.eth p s prio)
    match (c.eport (portKey p s)).rx.find? (fun r => r.prio == prio) with
    | some r =>
      if !r.taken then c
      else (c.onPort (portKey p s) (fun e => { e with rx := e.rx.erase r })).releaseShare p s prio
    | none => c

/-! ### Time maps (R317, R318) -/

/-- TMAP_COMMIT. -/
def Chip.tmapCommit (c : Chip) (p : Nat) : Chip :=
  if !c.ethPresent p then c
  else
    let c := (c.advanceTo (c.beat + 1)).wr F.ETH_TMAP_CTRL_VALID 1 p
    c.onPort (portKey p 0) (fun e => { e with map := (c.rd F.ETH_TMAP_BEAT_BEAT p, c.rd F.ETH_TMAP_TIME_TIME p, c.rd F.ETH_TMAP_RATE_RATE p), mapAt := c.beat })

/-- TMAP_VALID_TIMEOUT: no commit for 1 s. -/
def Chip.tmapTimeout (c : Chip) (p : Nat) : Chip :=
  if c.rd F.ETH_TMAP_CTRL_VALID p = 0 then c
  else (((c.advanceTo ((c.eport (portKey p 0)).mapAt + 900000000)).wr F.ETH_TMAP_CTRL_VALID 0 p).event (Flt.eth p))

/-- The beat nearest to an instant of IEEE 802.1AS time in ns, by the inverse of a time map. -/
def asToBeat (m : Nat × Nat × Nat) (t : Nat) : Int :=
  let (b, t0, rate) := m
  let num : Int := ((t : Int) - t0) * 9 * 2 ^ 40
  let den : Int := 10 * (2 ^ 40 + sext 32 rate)
  (b : Int) + (2 * num + den) / (2 * den)

/-- IEEE 802.1AS time of a beat in whole ns, rounded down. -/
def beatToAs (m : Nat × Nat × Nat) (b : Nat) : Int :=
  let (b0, t0, rate) := m
  (t0 : Int) + (((b : Int) - b0) * 10 * (2 ^ 40 + sext 32 rate)) / (9 * 2 ^ 40)

/-! ### Gates (R320–R325) -/

/-- Fields of a gate entry. -/
def gateBits (e : Nat) : Nat := field e 24 8
def gateOp (e : Nat) : Nat := field e 22 2
def gateIv (e : Nat) : Nat := field e 0 22

/-- The administrative list of a sub-port as its registers stand. -/
def Chip.adminList (c : Chip) (p s : Nat) : GateList :=
  { enable := c.erd F.ETH_GATE_CTRL_ENABLE p s == 1, beats := c.erd F.ETH_GATE_CTRL_TIMEBASE p s == 1, base := c.erd F.ETH_GATE_BASE_BASE p s
    cycle := c.erd F.ETH_GATE_CYCLE_CYCLE p s, ents := (List.range (min 1024 (c.erd F.ETH_GATE_LEN_LEN p s))).map (fun j => c.erd F.ETH_GATE_ADMIN_ENTRY p s j) }

/-- Length of the window of a priority that begins at entry `j`, over at most one cycle. -/
def windowLen (l : List Nat) (prio j : Nat) : Nat → Nat
  | 0 => 0
  | fuel + 1 =>
    let e := l.getD (j % l.length) 0
    if bit (gateBits e) prio then gateIv e + windowLen l prio (j + 1) fuel else 0

/-- Entry `j` begins a window of a priority: it is open there and closed before, or open through the whole cycle. -/
def windowStarts (l : List Nat) (prio : Nat) : List Nat :=
  let opens (j : Nat) : Bool := bit (gateBits (l.getD (j % l.length) 0)) prio
  if (List.range l.length).all opens then [0] else (List.range l.length).filter (fun j => opens j && !opens (j + l.length - 1))

/-- Shortest window of a priority that must pass whole frames, in 1/1,000 of a list unit: 9,236 bytes. -/
def Chip.minWindow (c : Chip) (p : Nat) (beats : Bool) : Nat := if beats then c.byteTime p 9236 else 9236 * (if c.breakout p then 20 else 10)

/-- The first failure of the checks on windows. -/
def Chip.windowBad (c : Chip) (p s : Nat) (g : GateList) : Option Nat :=
  ((List.range 8).flatMap (fun prio =>
    if c.express p s prio || !c.preempts p s then
      (windowStarts g.ents prio).filter (fun j => windowLen g.ents prio j g.ents.length < g.cycle && decide (windowLen g.ents prio j g.ents.length * 1000 < c.minWindow p g.beats))
    else [])).min?

/-- The checks of R323, in order: the reason and the entry index. -/
def Chip.gateBad (c : Chip) (p s len : Nat) (g : GateList) : Option (Nat × Nat) :=
  if !g.enable then none
  else if len = 0 ∨ 1024 < len then some (1, 0)
  else match g.ents.findIdx? (fun e => gateIv e < 8 || gateOp e == 3) with
    | some j => some (2, j)
    | none =>
      if (if g.beats then 900000000 else 1000000000) < g.cycle then some (3, 0)
      else if (g.ents.map gateIv).sum ≠ g.cycle then some (4, 0)
      else match c.windowBad p s g with
        | some j => some (5, j)
        | none =>
          if c.on F.ORT_CTRL_ENABLE ∧ [3, 6].any (fun prio => !g.ents.any (fun e => bit (gateBits e) prio)) then some (6, 0)
          else if !g.beats ∧ c.rd F.ETH_TMAP_CTRL_VALID p = 0 then some (7, 0)
          else none

/-- The beat at which an instant of a list's time falls. -/
def Chip.listBeat (c : Chip) (p : Nat) (g : GateList) (t : Nat) : Nat := if g.beats then t else (asToBeat (c.eport (portKey p 0)).map t).toNat

/-- The first cycle start at or after a beat: its list time. -/
def Chip.cycleAfter (c : Chip) (p : Nat) (g : GateList) (b : Nat) : Nat :=
  if g.cycle = 0 then (if g.beats then b else (beatToAs (c.eport (portKey p 0)).map b).toNat)
  else
    let now := if g.beats then b else (beatToAs (c.eport (portKey p 0)).map b).toNat
    let k := if now ≤ g.base then 0 else ceilDiv (now - g.base) g.cycle
    let t := g.base + (if k = 0 then 0 else k - 1) * g.cycle
    if b ≤ c.listBeat p g t then t else if b ≤ c.listBeat p g (t + g.cycle) then t + g.cycle else t + 2 * g.cycle

/-- GATE_CHANGE: admission of the administrative list starts; a pending change is cancelled. -/
def Chip.gateChange (c : Chip) (p s : Nat) : Chip :=
  if !c.subPresent p s then c
  else
    let g := c.adminList p s
    let bad := c.gateBad p s (c.erd F.ETH_GATE_LEN_LEN p s) g
    let c := ((c.ewr F.ETH_GATE_STATUS_BUSY 1 p s).ewr F.ETH_GATE_STATUS_PENDING 0 p s).ewr F.ETH_GATE_CTRL_CHANGE 1 p s
    c.onPort (portKey p s) (fun e => { e with admitting := some (bad, g), pendingList := none })

/-- GATE_ADMISSION_COMPLETE. -/
def Chip.gateAdmitted (c : Chip) (p s : Nat) : Chip :=
  match (c.eport (portKey p s)).admitting with
  | none => c
  | some (bad, g) =>
    let c := (c.ewr F.ETH_GATE_STATUS_BUSY 0 p s).ewr F.ETH_GATE_CTRL_CHANGE 0 p s
    let c := c.onPort (portKey p s) (fun e => { e with admitting := none })
    match bad with
    | some (r, j) => ((c.ewr F.ETH_GATE_STATUS_RESULT 1 p s).ewr F.ETH_GATE_STATUS_REASON r p s).ewr F.ETH_GATE_STATUS_INDEX j p s
    | none =>
      let c := (((c.ewr F.ETH_GATE_STATUS_RESULT 0 p s).ewr F.ETH_GATE_STATUS_REASON 0 p s).ewr F.ETH_GATE_STATUS_INDEX 0 p s).ewr F.ETH_GATE_STATUS_PENDING 1 p s
      let t := c.cycleAfter p g (c.beat + 4096)
      c.onPort (portKey p s) (fun e => { e with pendingList := some (g, max (c.beat + 4096) (c.listBeat p g t), t) })

/-- Gates as an entry of the running list sets them. -/
def EPort.gates (e : EPort) : Nat := if e.oper.enable then gateBits (e.oper.ents.getD e.gateIdx 0xFF000000) else 255

/-- Bytes of the frame in transmission already sent at a beat. -/
def Chip.sentBytes (c : Chip) (p : Nat) (left stop : Nat) : Nat := left - min left ((stop - c.beat) * 1000 / (if c.breakout p then 18 else 9))

/-- The preemptable frame in transmission is cut with its minimum fragments, where that is still possible. -/
def Chip.preempt (c : Chip) (p s : Nat) : Chip :=
  let e := c.eport (portKey p s)
  match e.cur with
  | none => c
  | some (x, left, stop) =>
    if !c.preempts p s || c.express p s x.prio || x.frame.dmac == macDest || e.cut.isSome then c
    else
      let sent := max 64 (c.sentBytes p left stop)
      if left < sent + 64 then c
      else c.setPort (portKey p s) { e with cur := none, cut := some (x, left - sent) }

/-- An entry of the running list takes effect: its gates, and its hold operation. -/
def Chip.enterGate (c : Chip) (p s : Nat) : Chip :=
  let e := c.eport (portKey p s)
  let op := gateOp (e.oper.ents.getD e.gateIdx 0)
  let c := c.setPort (portKey p s) { e with hold := if !e.oper.enable then false else if op = 1 then true else if op = 2 then false else e.hold }
  let shut := match e.cur with | some (x, _, _) => !bit e.gates x.prio | none => false
  if e.oper.enable && (op = 1 || shut) then c.preempt p s else c

/-- GATE_LIST_SWAP: at the change time the admitted list replaces the operational one. -/
def Chip.gateSwap (c : Chip) (p s : Nat) : Chip :=
  match (c.eport (portKey p s)).pendingList with
  | none => c
  | some (g, b, t) =>
    let c := (c.advanceTo b).ewr F.ETH_GATE_STATUS_PENDING 0 p s
    let c := (List.range g.ents.length).foldl (fun c j => c.ewr F.ETH_GATE_OPER_ENTRY (g.ents.getD j 0) p s j) c
    (c.onPort (portKey p s) (fun e => { e with oper := g, pendingList := none, gateIdx := 0, gateT := t, hold := false })).enterGate p s

/-- GATE_ENTRY_ADVANCE: the next entry of the running list starts at its converted beat. -/
def Chip.gateAdvance (c : Chip) (p s : Nat) : Chip :=
  let e := c.eport (portKey p s)
  if !e.oper.enable ∨ e.oper.ents = [] then c
  else
    let t := e.gateT + gateIv (e.oper.ents.getD e.gateIdx 0)
    ((c.advanceTo (c.listBeat p e.oper t)).setPort (portKey p s) { e with gateIdx := (e.gateIdx + 1) % e.oper.ents.length, gateT := t }).enterGate p s

/-- The operational list fails the checks of R323 as preemption stands (R325). -/
def Chip.gateFails (c : Chip) (p s : Nat) : Bool := let g := (c.eport (portKey p s)).oper; (c.gateBad p s g.ents.length g).isSome

/-- Preemption becomes active or inactive: the operational list is checked again (R325). -/
def Chip.setPreempt (c : Chip) (p s : Nat) (v : Bool) : Chip :=
  if c.preempts p s = v then c
  else
    let c := c.ewr F.ETH_STATUS_PREEMPT_ACTIVE (b2n v) p s
    if c.gateFails p s then (c.ewr F.ETH_GATE_STATUS_REEVAL_FAIL 1 p s).event (Flt.eth p) else c

/-- The beat at which a list closes the gate of a priority, from its entry `i` that starts at list time `t`: none while it never does. -/
def Chip.closesAt (c : Chip) (p : Nat) (g : GateList) (i t prio : Nat) : Option Nat :=
  if !g.enable || g.ents.all (fun x => bit (gateBits x) prio) then none
  else some (c.listBeat p g (t + windowLen g.ents prio i g.ents.length))

/-- Beats until the gate of a priority closes: none while it stays open. A list that waits for its change time ends the running one there. -/
def Chip.gateLeft (c : Chip) (p s prio : Nat) : Option Nat :=
  let e := c.eport (portKey p s)
  let now := c.closesAt p e.oper e.gateIdx e.gateT prio
  let close := match e.pendingList with
    | none => now
    | some (g, b, t) => if (match now with | some x => decide (x < b) | none => false) then now else c.closesAt p g 0 t prio
  close.map (· - c.beat)

/-! ### Link and verification (R308, R311, R316) -/

/-- The verify exchange starts. -/
def Chip.verifyStart (c : Chip) (p s : Nat) : Chip :=
  let c := (c.ewr F.ETH_STATUS_VERIFY 1 p s).setPreempt p s false
  c.onPort (portKey p s) (fun e => { e with attempts := 1, attemptAt := c.beat })

/-- ETH_LINK_UP. -/
def Chip.ethLinkUp (c : Chip) (p s : Nat) : Chip :=
  if !c.subPresent p s || c.ethUp p s || c.erd F.ETH_CTRL_ENABLE p s == 0 then c
  else
    let c := c.ewr F.ETH_STATUS_LINK 1 p s
    if c.erd F.ETH_PREEMPT_EN p s = 1 then c.verifyStart p s else c

/-- ETH_LINK_DOWN: the frame in transmission is lost, pauses end, received frames stay, and waiting frames go to the other sub-port where its link is up. -/
def Chip.ethLinkDown (c : Chip) (p s : Nat) : Chip :=
  if !c.ethUp p s then c
  else
    let c := ((c.ewr F.ETH_STATUS_LINK 0 p s).ewr F.ETH_STATUS_VERIFY 0 p s).ewr F.ETH_PFC_STATUS_RX_PAUSED 0 p s
    let c := c.setPreempt p s false
    let lanes := if c.breakout p then [2 * s, 2 * s + 1] else [0, 1, 2, 3]
    let c := lanes.foldl (fun c j => c.count F.CLK_DOMAIN_STATUS_LOSSES 1 0 (180 + 4 * p + j)) c
    let e := c.eport (portKey p s)
    let c := c.setPort (portKey p s) { e with txq := [], mac := [], cur := none, cut := none, pauses := [], retryAt := c.beat }
    let o := 1 - s
    if c.breakout p && c.ethUp p o then c.onPort (portKey p o) (fun x => { x with txq := x.txq ++ e.txq }) else c

/-- ETH_AN_RETRY: a port whose partner offers no matching speed tries again after 1 s; its link stays down. -/
def Chip.anRetry (c : Chip) (p s : Nat) : Chip :=
  if !c.subPresent p s || c.ethUp p s || c.erd F.ETH_CTRL_ENABLE p s == 0 || c.erd F.ETH_CTRL_AN_EN p s == 0 then c
  else
    let c := c.advanceTo ((c.eport (portKey p s)).retryAt + 900000000)
    c.onPort (portKey p s) (fun e => { e with retryAt := c.beat })

/-- VERIFY_RESTART. -/
def Chip.verifyRestart (c : Chip) (p s : Nat) : Chip :=
  if !c.subPresent p s || !c.ethUp p s || c.erd F.ETH_PREEMPT_EN p s == 0 then c else c.verifyStart p s

/-- VERIFY_ATTEMPT_END: success activates preemption; a failed attempt is repeated 10 ms later, at most three in all. -/
def Chip.verifyEnd (c : Chip) (p s : Nat) (ok : Bool) : Chip :=
  if c.erd F.ETH_STATUS_VERIFY p s ≠ 1 then c
  else if ok then (c.ewr F.ETH_STATUS_VERIFY 2 p s).setPreempt p s true
  else
    let e := c.eport (portKey p s)
    if 3 ≤ e.attempts then c.ewr F.ETH_STATUS_VERIFY 3 p s
    else
      let c := c.advanceTo (e.attemptAt + nsBeats 10000000)
      c.onPort (portKey p s) (fun e => { e with attempts := e.attempts + 1, attemptAt := c.beat })

/-! ### Shapers (R326, R327) -/

def shaperKey (p i : Nat) : Nat := p * 512 + i
def Chip.shaper (c : Chip) (p i : Nat) : Shaper := Table.getD c.shapers (shaperKey p i) {}
def Chip.setShaper (c : Chip) (p i : Nat) (x : Shaper) : Chip := { c with shapers := Table.setD c.shapers (shaperKey p i) {} x }

/-- The bucket at a beat: it gains RATE in 1/65,536 byte up to DEPTH. -/
def Shaper.upTo (x : Shaper) (b : Nat) : Shaper :=
  { x with at_ := b, level := if x.rate = 0 then x.level else max x.level (min (x.depth * 65536 : Nat) (x.level + ((b - x.at_) * x.rate * 4096 / 450 : Nat))) }

/-- SHAPER_APPLY: the pending pair of the selected instance is admitted at once, or refused. -/
def Chip.shaperApply (c : Chip) (p : Nat) : Chip :=
  if !c.ethPresent p then c
  else
    let i := c.rd F.ETH_SHP_SEL_INSTANCE p
    let rate := c.rd F.ETH_SHP_RATE_MBPS p i
    let depth := c.rd F.ETH_SHP_DEPTH_BYTES p i
    if 800000 < rate ∨ depth < 9216 then c.wr F.ETH_SHP_CMD_RESULT 1 p
    else
      let x := (c.shaper p i).upTo c.beat
      (c.wr F.ETH_SHP_CMD_RESULT 0 p).setShaper p i { x with rate := rate, depth := depth, level := min x.level (depth * 65536 : Nat) }

/-- ETH_SHP_LEVEL: signed whole bytes. -/
def Chip.shaperLevel (c : Chip) (p i : Nat) : Nat := wrap 32 (((c.shaper p i).upTo c.beat).level / 65536)

/-- A frame that carries a RESET_NOTICE. -/
def EFrame.isNotice (f : EFrame) : Bool := match f.pkt 0 with | some (_, some p) => p.op == Ort.resetNotice | _ => false

/-- Shapers of an instance return to their reset values, and its frames that have not started are discarded (R327), but for the RESET_NOTICEs that
the reset itself sends (R303, log entry 234). -/
def Chip.resetShapers (c : Chip) (i : Nat) : Chip :=
  let c := c.dropFrames (fun f => f.owner == i && !f.frame.isNotice)
  (List.range 4).foldl (fun c p =>
    ((c.setShaper p i { at_ := c.beat }).wr F.ETH_SHP_RATE_MBPS 800000 p i).wr F.ETH_SHP_DEPTH_BYTES 65536 p i) c

/-! ### Transmission (R322, R326, R328) -/

/-- The frame in transmission has ended: it is counted. -/
def Chip.txEnd (c : Chip) (p s : Nat) : Chip :=
  let e := c.eport (portKey p s)
  match e.cur with
  | none => c
  | some (x, _, stop) =>
    if c.beat < stop then c
    else
      let c := (c.setPort (portKey p s) { e with cur := none }).ecount F.ETH_TX_FRAMES_COUNT p s
      let c := c.ecount F.ETH_TX_OCTETS_COUNT p s x.frame.len
      match x.frame.body with
      | .pfc _ => c.ecount F.ETH_TX_PFC_COUNT p s
      | _ => c

/-- ORT payload bytes of a frame that is paced into the wire budget: admission has reserved those of combines (R19). -/
def EFrame.ortPayload (f : EFrame) : Nat :=
  match f.body with
  | .ort _ _ _ _ _ _ _ udp => (match OrtPkt.parse udp with | some p => if p.op = Ort.combine then 0 else p.data.length | none => 0)
  | _ => 0

/-- A frame's bytes leave on a port. -/
def Chip.ethEmit (c : Chip) (p s : Nat) (f : EFrame) : Chip :=
  { c.emit (.eth p s (f.bytes c.freeCtr) (f.stampAt (c.beat * 64))) with freeCtr := c.freeCtr + 1 }

/-- A frame may start, or its last `left` bytes go on: the gate allows it, and of a whole frame pause, shaper and wire budget. -/
def Chip.eligible (c : Chip) (p s : Nat) (x : ETx) (left : Nat) (whole : Bool) : Bool :=
  let e := c.eport (portKey p s)
  let as_ := match x.frame.body with | .as _ => true | _ => false
  let active := c.preempts p s
  let need := if c.express p s x.prio || !active then left + 20 else min left 64
  let fits : Bool := match c.gateLeft p s x.prio with | none => true | some b => decide (c.byteTime p need ≤ b * 1000)
  let shaped : Bool := if x.owner < 512 && whole then (let y := (c.shaper p x.owner).upTo c.beat; y.rate != 0 && decide (0 ≤ y.level)) else true
  let paid := !whole || as_ || x.frame.ortPayload == 0 || c.wireFits x.frame.ortPayload
  (as_ || c.mst != .safe) &&
  !(whole && e.pauses.any (fun y => y.1 == x.prio && decide (c.beat * 1000 < y.2.1))) && bit e.gates x.prio && fits && shaped && paid &&
  !(e.hold && active && !c.express p s x.prio)

/-- The next frame of a priority: queue pairs take turns, one frame at a time. -/
def Chip.nextOf (c : Chip) (p s prio : Nat) : Option ETx :=
  let e := c.eport (portKey p s)
  let last := Table.getD e.lastQp prio 0
  let firsts := e.txq.foldl (fun (l : List ETx) x => if x.prio = prio && !l.any (fun y => y.qpn == x.qpn) then l ++ [x] else l) []
  let ok := firsts.filter (fun x => c.eligible p s x x.frame.len true)
  let after := ok.filter (fun x => last < x.qpn)
  let least (l : List ETx) : Option ETx := l.foldl (fun m x => match m with | some y => if x.qpn < y.qpn then some x else m | none => some x) none
  match least after with
  | some x => some x
  | none => least ok

/-- A frame starts. -/
def Chip.txStart (c : Chip) (p s : Nat) (x : ETx) : Chip :=
  let c := c.onPort (portKey p s) (fun e => { e with
    txq := e.txq.erase x, cur := some (x, x.frame.len, c.beat + c.txBeats p (x.frame.len + 20)), lastQp := Table.insert x.prio x.qpn (Table.erase x.prio e.lastQp) })
  let c := c.wireAdd x.frame.ortPayload
  let c := if x.owner < 512 then
      let y := (c.shaper p x.owner).upTo c.beat
      c.setShaper p x.owner { y with level := y.level - (x.frame.len * 65536 : Nat) }
    else c
  let c := match x.frame.body with | .ort .. => c.count F.ORT_TX_PKTS_COUNT | _ => c
  c.ethEmit p s x.frame

/-- The highest priority with an eligible frame among those that `q` selects. -/
def Chip.pick (c : Chip) (p s : Nat) (q : Nat → Bool) : Option ETx :=
  [7, 6, 5, 4, 3, 2, 1, 0].findSome? (fun prio => if q prio then c.nextOf p s prio else none)

/-- What a boundary starts: MAC control, express, the continuation of the preempted frame, preemptable. -/
def Chip.choose (c : Chip) (p s : Nat) : Chip :=
  let e := c.eport (portKey p s)
  let active := c.preempts p s
  match e.mac with
  | f :: rest =>
    let x : ETx := ⟨8, 0, 512, f⟩
    (c.setPort (portKey p s) { e with mac := rest, cur := some (x, f.len, c.beat + c.txBeats p (f.len + 20)) }).ethEmit p s f
  | [] =>
    match c.pick p s (fun prio => !active || c.express p s prio) with
    | some x => c.txStart p s x
    | none => match e.cut with
      | some (x, left) =>
        if c.eligible p s x left false then
          (c.setPort (portKey p s) { e with cut := none, cur := some (x, left, c.beat + c.txBeats p (left + 20)) }).ecount F.ETH_TX_FRAGMENTS_COUNT p s
        else c
      | none => match c.pick p s (fun prio => active && !c.express p s prio) with
        | some x => c.txStart p s x
        | none => c

/-- ETH_TRANSMIT_SELECT: at a fragment boundary a preemptable frame gives way to MAC control or an express frame; at a frame boundary the next one
starts. -/
def Chip.ethSelect (c : Chip) (p s : Nat) : Chip :=
  if !c.subPresent p s || !c.ethUp p s then c
  else
    let e := c.eport (portKey p s)
    let urgent := e.mac != [] || (c.pick p s (c.express p s)).isSome
    let c := if urgent then c.preempt p s else c
    let c := match (c.eport (portKey p s)).cur with
      | some (_, _, stop) => (c.advanceTo stop).txEnd p s
      | none => c
    c.choose p s

/-- Frames whose transmission has ended are counted as time passes. -/
def Chip.ethEnds (c : Chip) : Chip :=
  if c.ports = [] then c
  else (List.range 8).foldl (fun c k => if (c.eport k).cur.isSome then c.txEnd (k / 2) (k % 2) else c) c

/-! ### PPS (R319) -/

/-- The next whole second of the time base that PPS out uses, as a beat after this one. -/
def Chip.nextSecond (c : Chip) : Nat :=
  if c.rd F.ETH_PPS_CTRL_TIMEBASE = 1 then (c.beat / 900000000 + 1) * 900000000
  else
    let m := (c.eport (portKey (c.rd F.ETH_PPS_CTRL_PORT) 0)).map
    let s := (beatToAs m c.beat / 1000000000 + 1) * 1000000000
    let b := (asToBeat m s.toNat).toNat
    if c.beat < b then b else (asToBeat m (s.toNat + 1000000000)).toNat

/-- PPS_OUT_SECOND. -/
def Chip.ppsSecond (c : Chip) : Chip :=
  if !c.ethPresent 0 || !c.on F.ETH_PPS_CTRL_OUT_EN then c
  else
    let c := c.advanceTo c.nextSecond
    { c with ppsUntil := some (c.beat + nsBeats 10000000) }

/-! ### Safe state (R329) -/

/-- A port's outputs at safe-state entry. -/
def Chip.ethSafePort (c : Chip) (p s : Nat) : Chip :=
  if !c.subPresent p s || !c.ethUp p s then c
  else
    let c := (List.range 8).foldl (fun c prio => c.xoff p s prio) c
    let e := c.eport (portKey p s)
    match e.cur, e.cut with
    | some (x, _, stop), cut =>
      let abort := c.preempts p s && !c.express p s x.prio && x.frame.dmac != macDest && decide (c.beat < stop)
      let c := c.setPort (portKey p s) { e with cur := if abort then none else e.cur, cut := none }
      if abort || cut.isSome then (c.ecount F.ETH_TX_ABORTED_COUNT p s).emit (.ethAbort p s) else c
    | none, some _ => ((c.setPort (portKey p s) { e with cut := none }).ecount F.ETH_TX_ABORTED_COUNT p s).emit (.ethAbort p s)
    | none, none => c

def Chip.ethSafe (c : Chip) : Chip := (List.range 8).foldl (fun c k => c.ethSafePort (k / 2) (k % 2)) c

/-- A port leaves the safe state: quanta 0 for each priority that R313 does not hold. -/
def Chip.ethLeaveSafe (c : Chip) : Chip :=
  (List.range 8).foldl (fun c k =>
    let p := k / 2
    let s := k % 2
    if !c.subPresent p s then c
    else (List.range 8).foldl (fun c prio => if (c.eport (portKey p s)).held.contains prio then c else c.xon p s prio) c) c

end Sys2Proof.Machine
end

