-- ==== Sys2Proof/Machine/Host.lean ====
section
/-!
DEFINITION. Machine/Host.lean: the host port, device memory through BAR4, CXL.mem and the apertures, peer windows, mailboxes, instances, their
quotas and their resets (R349–R376, R392, R393).
-/
namespace Sys2Proof.Machine

/-! ### Mailboxes (R365–R367) -/

/-- A mailbox field of an owner: the HST copy for the manager (512), the INS copy for an instance. -/
def Chip.mb (c : Chip) (owner : Nat) (hst ins : Fld) (a : Nat := 0) : Nat := if owner = 512 then c.rd hst 0 0 a else c.rd ins owner 0 a
def Chip.mbWr (c : Chip) (owner : Nat) (hst ins : Fld) (v : Nat) (a : Nat := 0) : Chip :=
  if owner = 512 then c.wr hst v 0 0 a else c.wr ins v owner 0 a

def Chip.h2rProd (c : Chip) (o : Nat) : Nat := c.mb o F.HST_MB_H2R_PROD F.INS_MB_H2R_PROD
def Chip.h2rCons (c : Chip) (o : Nat) : Nat := c.mb o F.HST_MB_H2R_CONS F.INS_MB_H2R_CONS
def Chip.r2hProd (c : Chip) (o : Nat) : Nat := c.mb o F.HST_MB_R2H_PROD F.INS_MB_R2H_PROD
def Chip.r2hCons (c : Chip) (o : Nat) : Nat := c.mb o F.HST_MB_R2H_CONS F.INS_MB_R2H_CONS

/-- Word `w` of slot `k` of a direction: H2R slots lie before R2H slots (R374). -/
def Chip.slotWord (c : Chip) (o : Nat) (r2h : Bool) (k w : Nat) : Nat :=
  c.mb o F.HST_MB_SLOT_WORD F.INS_MB_SLOT_WORD (256 * b2n r2h + 16 * (k % 16) + w)

/-- A core serves the mailbox of an owner: the manager's in every state with rails or a control set, an instance's while it is in service
(R43, R369, R371, R378, R379, R397). -/
def Chip.mbServed (c : Chip) (o : Nat) : Bool :=
  c.coreServes o && (if o = 512 then c.mst != .off && c.mst != .keepalive else c.dataState && c.ownerServed o)

/-- Write one R2H message: its slot, then R2H_PROD, then vector 0 while IRQ_EN is 1 (R367). `words` is the message from W0 without its SEQ. -/
def Chip.r2hWrite (c : Chip) (o : Nat) (words : List Nat) : Chip :=
  let k := c.r2hProd o
  let c := (List.range 16).foldl (fun c w =>
    c.mbWr o F.HST_MB_SLOT_WORD F.INS_MB_SLOT_WORD (words.getD w 0 + (if w = 0 then k else 0)) (256 + 16 * (k % 16) + w)) c
  let c := c.mbWr o F.HST_MB_R2H_PROD F.INS_MB_R2H_PROD (k + 1)
  if c.mb o F.HST_MB_CTRL_IRQ_EN F.INS_MB_CTRL_IRQ_EN = 1 then c.msix (fnOf o) 0 else c

/-- Free R2H slots of an owner. -/
def Chip.r2hFree (c : Chip) (o : Nat) : Nat := 16 - subMod 16 (c.r2hProd o) (c.r2hCons o)

/-- Messages that wait for an owner are written as far as its ring and its core allow. -/
def Chip.mbDrain (c : Chip) (o : Nat) : Nat → Chip
  | 0 => c
  | fuel + 1 =>
    match c.mbOut.find? (fun (m : Nat × List Nat) => m.1 == o) with
    | none => c
    | some m =>
      if c.mbServed o && decide (0 < c.r2hFree o) then
        (({ c with mbOut := c.mbOut.erase m } : Chip).r2hWrite o m.2).mbDrain o fuel
      else c

/-- Every message that waits is written where it can be. -/
def Chip.mbFlush (c : Chip) : Chip := (c.mbOut.map (·.1)).foldl (fun c o => c.mbDrain o 1) c

/-- Send an R2H message to an owner: TYPE, EVENT, REQ_SEQ and STATUS, payload words. -/
def Chip.mbSend (c : Chip) (o typ : Nat) (event : Bool) (req status : Nat) (payload : List Nat) : Chip :=
  (({ c with mbOut := c.mbOut ++ [(o, (typ * 65536 + b2n event * 2 ^ 24) :: (req + status * 65536) :: payload)] } : Chip)).mbDrain o 17

/-- NOTICE to an owner: a code and its fields (R367). -/
def Chip.mbNotice (c : Chip) (o : Nat) (code : Nat) (rest : List Nat) : Chip := c.mbSend o 0x10 true 0 0 (code :: rest)

/-- MB_H2R_PROD_WRITE (R365): posts messages, or is ignored with MB_ERR where it would exceed the ring or move back. -/
def Chip.h2rProdWrite (c : Chip) (o v : Nat) : Chip :=
  let v := v % 65536
  if subMod 16 (c.h2rProd o) (c.h2rCons o) ≤ subMod 16 v (c.h2rCons o) ∧ subMod 16 v (c.h2rCons o) ≤ 16 then
    c.mbWr o F.HST_MB_H2R_PROD F.INS_MB_H2R_PROD v
  else c.mbWr o F.HST_MB_CTRL_MB_ERR F.INS_MB_CTRL_MB_ERR 1

/-- MB_HOST_CONS_WRITE (R365): frees slots, or is ignored with MB_ERR. -/
def Chip.r2hConsWrite (c : Chip) (o v : Nat) : Chip :=
  let v := v % 65536
  if subMod 16 (c.r2hProd o) v ≤ subMod 16 (c.r2hProd o) (c.r2hCons o) then
    (c.mbWr o F.HST_MB_R2H_CONS F.INS_MB_R2H_CONS v).mbDrain o 17
  else c.mbWr o F.HST_MB_CTRL_MB_ERR F.INS_MB_CTRL_MB_ERR 1

namespace Mb
def hello : Nat := 0x01
def ping : Nat := 0x02
def info : Nat := 0x03
def relay : Nat := 0x08
def relayIn : Nat := 0x09
end Mb

/-- The H2R message the core takes next: one waits, R2H has room, nothing is owed, and no RELAY is outstanding (R367, R368). -/
def Chip.mbHead (c : Chip) (o : Nat) : Option (List Nat) :=
  if c.mbServed o && c.h2rProd o != c.h2rCons o && decide (0 < c.r2hFree o) && !c.mbOut.any (fun (m : Nat × List Nat) => m.1 == o) &&
     !(o == 512 && c.relay.isSome) then
    some ((List.range 16).map (fun w => c.slotWord o false (c.h2rCons o) w))
  else none

def msgType (m : List Nat) : Nat := field (m.getD 0 0) 16 8

/-- A malformed message (R367): a wrong SEQ, a reserved bit, an unknown TYPE. -/
def Chip.msgBad (c : Chip) (o : Nat) (m : List Nat) : Bool :=
  (m.getD 0 0) % 65536 != c.h2rCons o || (m.getD 0 0) / 2 ^ 24 != 0 || (m.getD 1 0) / 2 ^ 24 != 0 ||
  !([Mb.hello, Mb.ping, Mb.info, Mb.relay].contains (msgType m))

/-- A TYPE that this owner may not send now: RELAY from an instance, or in REFUSED (R367, R393). -/
def Chip.msgDenied (c : Chip) (o : Nat) (m : List Nat) : Bool := msgType m == Mb.relay && (o != 512 || c.mst == .refused)

/-- The core takes the message: H2R_CONS advances. -/
def Chip.mbTake (c : Chip) (o : Nat) : Chip := c.mbWr o F.HST_MB_H2R_CONS F.INS_MB_H2R_CONS (c.h2rCons o + 1)

/-- Reply to the message taken, which had index `seq`. -/
def Chip.mbReply (c : Chip) (o typ seq status : Nat) (payload : List Nat) : Chip := c.mbSend o typ false seq status payload

/-- Perform a well-formed message of one TYPE from the head of an owner's H2R ring. -/
def Chip.mbRow (c : Chip) (o typ : Nat) (f : Chip → Nat → List Nat → Chip) : Chip :=
  match c.mbHead o with
  | some m => if msgType m = typ ∧ !c.msgBad o m ∧ !c.msgDenied o m then f (c.mbTake o) (c.h2rCons o) m else c
  | none => c

/-- PING (R367). -/
def Chip.mbPing (c : Chip) (o : Nat) : Chip := c.mbRow o Mb.ping (fun c seq _ => c.mbReply o Mb.ping seq St.ok [])

/-- GLB_FW_VER as a word. -/
def Chip.fwVer (c : Chip) : Nat := c.rd F.GLB_FW_VER_MAJOR * 2 ^ 24 + c.rd F.GLB_FW_VER_MINOR * 2 ^ 16 + c.rd F.GLB_FW_VER_BUILD
def Chip.fwIf (c : Chip) : Nat := c.rd F.GLB_FW_IF_IF_MAX * 2 ^ 16 + c.rd F.GLB_FW_IF_IF_MIN
/-- GLB_POSITION as a word. -/
def Chip.positionWord (c : Chip) : Nat :=
  c.rd F.GLB_POSITION_POSITION_VALID * 2 ^ 25 + c.rd F.GLB_POSITION_TWIN_VALID * 2 ^ 24 + c.rd F.GLB_POSITION_TWIN_ID * 2 ^ 16 +
  c.rd F.GLB_POSITION_MODULE_ID * 2 ^ 8 + c.rd F.GLB_POSITION_RICK * 16 + c.rd F.GLB_POSITION_SEAT

/-- INFO (R367): the queue and queue-pair quotas are the two quota words; the manager has none. -/
def Chip.mbInfo (c : Chip) (o : Nat) : Chip :=
  c.mbRow o Mb.info (fun c seq _ => c.mbReply o Mb.info seq St.ok
    [sourceOf o, c.fwVer, c.positionWord, if o = 512 then 0 else c.rd F.INS_QUOTA_Q_QUEUES o, if o = 512 then 0 else c.rd F.INS_QUOTA_QP_QPS o])

/-- MAILBOX_MALFORMED (R367, R393). -/
def Chip.mbMalformed (c : Chip) (o : Nat) : Chip :=
  match c.mbHead o with
  | some m =>
    let seq := c.h2rCons o
    if c.msgBad o m then (c.mbTake o).mbReply o (msgType m) seq St.format []
    else if c.msgDenied o m then (c.mbTake o).mbReply o (msgType m) seq St.localProtection []
    else c
  | none => c

/-! ### RELAY (R368) -/

/-- Beats between sends of a RELAY. -/
def relayBeats : Nat := 90000

/-- Send a relay frame or its acknowledgement on VC5. -/
def Chip.relaySend (c : Chip) (typ dest seq : Nat) (payload : List Byte) : Chip :=
  if dest = c.modId then c else c.routeFrame ⟨5, typ, dest, c.modId, false, 0, seq, payload⟩

/-- RELAY_SEND: the message goes out; its reply comes with the acknowledgement, or after eight sends. -/
def Chip.relayStart (c : Chip) : Chip :=
  c.mbRow 512 Mb.relay (fun c seq m =>
    let dest := m.getD 2 0 % 256
    let data := bytesOf (m.drop 3)
    ({ c with relay := some ⟨seq, dest, data, 1, c.beat⟩ } : Chip).relaySend 1 dest seq data)

/-- The oldest VC5 frame of a link's receive buffer. -/
def Chip.mgmtHead (c : Chip) (k : Nat) : Option LFrame := c.peekRx k 5

/-- RELAY_FRAME_RECEIVE: written once for each source and SEQ, and acknowledged; with no room, neither. -/
def Chip.relayReceive (c : Chip) (k : Nat) : Chip :=
  match c.mgmtHead k with
  | some f =>
    if f.typ ≠ 1 then c
    else
      let c := c.takeRx k 5
      let seen := Table.getD c.relaySeen f.src []
      if seen.contains f.ctx then c.relaySend 2 f.src f.ctx []
      else if !c.mbServed 512 || c.r2hFree 512 == 0 || c.mbOut.any (fun (m : Nat × List Nat) => m.1 == 512) then c
      else
        let c : Chip := { c with relaySeen := Table.insert f.src ((f.ctx :: seen).take 16) (Table.erase f.src c.relaySeen) }
        (c.mbSend 512 Mb.relayIn true 0 0 ((f.src + f.ctx % 65536 * 65536) :: wordsOf 13 f.payload)).relaySend 2 f.src f.ctx []
  | none => c

/-- RELAY_ACK_RECEIVE. -/
def Chip.relayAck (c : Chip) (k : Nat) : Chip :=
  match c.mgmtHead k with
  | some f =>
    if f.typ ≠ 2 then c
    else
      let c := c.takeRx k 5
      match c.relay with
      | some r => if r.seq = f.ctx ∧ r.dest = f.src then ({ c with relay := none } : Chip).mbReply 512 Mb.relay r.seq St.ok [] else c
      | none => c
  | none => c

/-- RELAY_RESEND_TIMER: 100 µs after the last send. -/
def Chip.relayTimer (c : Chip) : Chip :=
  match c.relay with
  | none => c
  | some r =>
    let c := c.advanceTo (r.at_ + relayBeats)
    if r.sends < 8 then ({ c with relay := some { r with sends := r.sends + 1, at_ := c.beat } } : Chip).relaySend 1 r.dest r.seq r.payload
    else ({ c with relay := none } : Chip).mbReply 512 Mb.relay r.seq St.retryExceeded []

/-! ### Instance reset (R303, R371–R373) -/

/-- Queue pairs of an owner. -/
def Chip.ownQps (c : Chip) (owner : Nat) : List Nat := (c.qps.filter (fun e => e.2.owner == owner)).map (·.1)

/-- A queue pair has operations begun that a drain runs on with. -/
def Chip.hasDrain (c : Chip) (q : QPair) : Bool :=
  q.st == .connected && (q.busy || (match c.queue q.sq with | some s => s.ents.any (fun e => e.started && e.res.isNone) | none => false))

/-- A queue pair is squashed by a reset (R303): RESET_NOTICE where it was CONNECTING or CONNECTED, its units back in their pools, and nothing of it is
left. Answers whether it sent the notice; in an instance reset it sends a second one 2 µs later, as the queue pair it was. -/
def Chip.resetQp (c : Chip) (n : Nat) (twice : Bool) : Bool × Chip :=
  match c.qpair n with
  | none => (false, c)
  | some q =>
    let tell := q.st == .connecting || q.st == .connected
    let c := if tell then c.sendNotice n else c
    let c : Chip := if tell && twice then { c with again := c.again ++ [(c.beat + usBeats 2, n, q)] } else c
    (tell, ((c.spendKey n).setQp n { q.fresh with closing := none }).grantAll n)

/-- The second RESET_NOTICE of a queue pair reset earlier. -/
def Chip.noticeAs (c : Chip) (n : Nat) (q : QPair) : Chip :=
  let now := c.qpair n
  let c := (c.setQp n q).sendNotice n
  match now with
  | some x => c.setQp n x
  | none => { c with qps := Table.erase n c.qps }

/-- Second notices leave when they are due (R303). -/
def Chip.sendAgain (c : Chip) : Chip :=
  (c.again.filter (fun e => decide (e.1 ≤ c.beat))).foldl (fun (c : Chip) e => c.noticeAs e.2.1 e.2.2)
    { c with again := c.again.filter (fun e => !decide (e.1 ≤ c.beat)) }

/-- The same, counted in the reset of its instance. -/
def Chip.noticeQp (c : Chip) (i n : Nat) : Chip :=
  let (t, c) := c.resetQp n true
  match Table.find? i c.insResets with
  | some r => if t then { c with insResets := Table.insert i { r with noticed := r.noticed + 1 } (Table.erase i c.insResets) } else c
  | none => c

/-- A tenant combine of a local context ends, and its entry with it: its chains are discarded (R254). -/
def Chip.dropTenant (c : Chip) (n : Nat) : Chip :=
  match c.comb 1 with
  | some b =>
    if b.ctx ≠ n then c
    else
      let c := (c.pinned b.pins (fun c => c.combineUndef b)).endCombine 1
      (c.onCtx n (fun x => { x with inFlight := x.inFlight.filter (fun i => !i.e.isCombine) })).pumpChannel 1
  | none => c

/-- Pending fault requests of a space fail, waiting ones are discarded (R159); a ring that waited stops waiting. -/
def Chip.failFaults (c : Chip) (space : Nat) : Chip :=
  let x := c.space space
  let c := (c.setSpace space { x with queue := x.queue.filter (fun q => q.cause == Cause.notice), opened := []
                                      waiting := x.waiting.filter (fun q => q.cause == Cause.notice) }).fqRefill space
  ((x.opened ++ (x.queue ++ x.waiting).filter (fun q => q.cause != Cause.notice)).flatMap (fun (q : FReq) => q.joined)).foldl (fun c w =>
    match w with
    | .ring q => c.onQueue q (fun s => { s with faulted := false })
    | w => c.answer false w) c

/-- A prefetch ends with the page in progress: REMAPPED tells of the pages moved (R371). -/
def Chip.cutPrefetch (c : Chip) (space : Nat) : Chip :=
  match c.prefetches.find? (fun p => p.space == space) with
  | none => c
  | some p =>
    let c : Chip := { c with prefetches := c.prefetches.filter (fun x => x.space ≠ space) }
    if 0 < p.next ∧ p.next ≤ p.pages then c.notice space p.va p.next 0 ((c.destTier p p.va).getD .crib) else c

/-- INSTANCE_RESET begins (R371): Close and the start of Drain. -/
def Chip.insClose (c : Chip) (i cause : Nat) : Chip :=
  let n := i + 2
  let c := ((c.wr F.INS_STATUS_STATE 2 i).wr F.INS_CTRL_RESET 1 i)
  let c : Chip := { c with insResets := Table.insert i { start := c.beat, cause := cause } (Table.erase i c.insResets)
                           mbOut := c.mbOut.filter (fun m => m.1 ≠ i) }
  let c := if cause = 5 ∧ (c.ctx n).st = .running then c.almDone n Why.contain else c
  let c := ((c.endShiftOf i).dropTenant n).onCtx n (fun x => { x with adm := none, admAgain := false, admWhy := none, admHead := none })
  let c := (c.cutPrefetch i).failFaults i
  (c.ownQps i).foldl (fun c q => match c.qpair q with
    | some x => if c.hasDrain x then c.setQp q { x with draining := true } else c.noticeQp i q
    | none => c) c

/-- A cause of an instance reset (R371, R372): it begins, or joins the one in progress. -/
def Chip.insReset (c : Chip) (i cause : Nat) : Chip :=
  if 512 ≤ i then c else if c.insResetting i then c else c.insClose i cause

/-- QP_DRAIN_END: a draining queue pair with nothing left sends its RESET_NOTICE. -/
def Chip.qpDrainEnd (c : Chip) (n : Nat) : Chip :=
  match c.qpair n with
  | some q => if q.draining && !c.hasDrain q then c.noticeQp q.owner n else c
  | none => c

/-- Instance fields of a page are back at their reset values, but for registers at the offsets kept. -/
def Chip.clearPage (c : Chip) (page : Nat) (keep : List Nat) : Chip :=
  { c with regs := c.regs.filter (fun e => e.1 / 2 ^ 56 ≠ page || keep.contains (e.1 / 2 ^ 8 % 2 ^ 16)) }

/-- The copies of a page's fields in one bank are back at their reset values. -/
def Chip.clearBank (c : Chip) (page b : Nat) (from_ : Nat := 0x80) : Chip :=
  { c with regs := c.regs.filter (fun e => e.1 / 2 ^ 56 ≠ page || e.1 / 2 ^ 24 % 2 ^ 32 ≠ b || e.1 / 2 ^ 8 % 2 ^ 16 < from_) }

/-- INS registers that an instance reset keeps (R376): STATUS (its bits are set apart), CTRL, quotas, INS_APT, RESET_STAT. -/
def insKept : List Nat := [0x80, 0x84, 0x88, 0x8c, 0x90, 0xc8, 0xe0]

/-- An instance that exists is in service while ENABLE is 1, but not in REFUSED (R369, R393). -/
def Chip.insHome (c : Chip) (i : Nat) : Nat :=
  if c.on F.INS_STATUS_VF_PRESENT i && c.on F.INS_CTRL_ENABLE i && c.mst != .refused then 1 else 0

/-- Release (R371): everything the instance holds is freed. -/
def Chip.insRelease (c : Chip) (i : Nat) : Chip :=
  let n := i + 2
  let c := (c.dropFlight n).endShiftOf i
  let c := (c.ownQps i).foldl Chip.removeQp c
  let c : Chip := { c with queues := c.queues.filter (fun e => qOwner e.1 ≠ i), admWait := Table.erase i c.admWait
                           ringFail := c.ringFail.filter (fun q => qOwner q ≠ i) }
  let c := ((c.freeKeys i).clearBank 0x71 (i + 1)).blankLoft i
  let c := c.setSpace i { c.space i with hints := [], lowSent := [] }
  let c : Chip := { c with xcache := c.xcache.filter (fun e => e.space ≠ i), engCache := c.engCache.filter (fun e => e.2.space ≠ i), walks := c.walks.filter (fun w => w.space ≠ i) }
  let c := (c.clearBank 0xa (i + 1)).clearBank 0x8 n
  let c := (List.range 64).foldl (fun c g => if c.on F.CMB_TGRP_VALID 0 g && c.rd F.CMB_TGRP_INSTANCE 0 g == i then
      (c.clr F.CMB_TGRP_VALID 0 g).clr F.CMB_TGRP_INSTANCE 0 g else c) c
  let c := ((c.resetShifts i).setCtx n {}).clearPage (0x100 + i) insKept
  let c : Chip := { c with rdLatch := Table.erase i c.rdLatch, wrLatch := Table.erase i c.wrLatch
                           thr := { c.thr with lastEnd := Table.erase i c.thr.lastEnd, spills := c.thr.spills.filter (fun s => s.1 ≠ i) } }
  let x := c.src (Flt.inst i)
  (c.setSrc (Flt.inst i) { x with buckets := [] }).wr F.INS_STATUS_CFG_ERR 0 i

/-- RESET_SQUASH: when every drain has ended, or 2 ms after the start, what is open is discarded, the instance's resources are released, and
completion is reported with NOTICE 0x01 to the manager. -/
def Chip.resetSquash (c : Chip) (i : Nat) : Chip :=
  match Table.find? i c.insResets with
  | none => c
  | some r =>
    let open_ := (c.ownQps i).any (fun q => match c.qpair q with | some x => x.draining && c.hasDrain x | none => false)
    let c := if open_ then c.advanceTo (r.start + usBeats 2000) else c
    let c := c.resetShapers i
    let c := (c.ownQps i).foldl (fun c q => match c.qpair q with | some x => if x.draining || x.st != .idle then c.noticeQp i q else c | none => c) c
    let r := (Table.find? i c.insResets).getD r
    let c := ((c.again.filter (fun e => e.2.2.owner == i)).foldl (fun c e => c.advanceTo e.1) c).sendAgain
    let c := c.insRelease i
    let c : Chip := { c with insResets := Table.erase i c.insResets }
    let c := (((c.wr F.INS_RESET_STAT_CAUSE r.cause i).wr F.INS_RESET_STAT_SQUASHED (b2n open_) i).wr F.INS_RESET_STAT_QPS_NOTICED (min 4095 r.noticed) i).wr
      F.INS_RESET_STAT_DURATION (min 65535 ((c.beat - r.start) / 9000)) i
    let c := (c.wr F.INS_STATUS_STATE (c.insHome i) i).wr F.INS_CTRL_RESET 0 i
    c.mbNotice 512 0x01 [i, r.cause * 2 ^ 29 + b2n open_ * 2 ^ 28 + min 4095 r.noticed * 2 ^ 16 + min 65535 ((c.beat - r.start) / 9000)]

/-- Instances that exist. -/
def Chip.instances (c : Chip) : List Nat := (List.range 512).filter (fun i => c.on F.INS_STATUS_VF_PRESENT i)

/-- VF_FLR. -/
def Chip.vfFlr (c : Chip) (i : Nat) : Chip :=
  if i < 512 ∧ c.on F.INS_STATUS_VF_PRESENT i then (c.count F.HST_FLR_VF).insReset i 1 else c

/-- The manager's queue pairs but those of COMBINE are reset without a completion, its admin queue is off, its mailbox is clear (R373). -/
def Chip.resetManager (c : Chip) : Chip :=
  let mine := (c.ownQps 512).filter (fun q => match c.qpair q with | some x => !x.combine | none => false)
  let c := mine.foldl (fun c q =>
    let c := (c.resetQp q false).2
    match c.qpair q with
    | some x => (c.onQueue x.sq Queue.emptied).onQueue x.rq Queue.emptied
    | none => c) c
  let c := ((c.wr F.RME_CTRL_ADMQ_EN 0).wr F.RME_STATUS_ADMQ_ERR 0)
  let c : Chip := { c with queues := Table.erase (qidOf 512 0) (Table.erase (qidOf 512 1) c.queues), admWait := Table.erase 512 c.admWait
                           mbOut := c.mbOut.filter (fun m => m.1 ≠ 512), relay := none }
  { c with regs := c.regs.filter (fun e => e.1 / 2 ^ 56 ≠ 0x78 || !(
      let off := e.1 / 2 ^ 8 % 2 ^ 16
      off == 0xb0 || off == 0xb4 || off == 0xb8 || decide (0x1000 ≤ off))) }

/-- The effects of a PF FLR: every existing instance is reset, superseding a reset in progress, and the manager's own state as above. -/
def Chip.pfReset (c : Chip) : Chip :=
  (c.instances.foldl (fun c i => c.insClose i 1) c).resetManager

/-- PF_FLR (R373). -/
def Chip.pfFlr (c : Chip) : Chip := (c.count F.HST_FLR_PF).pfReset

/-- INS_ENABLE (R369, R371): setting ENABLE puts an existing instance in service, clearing it starts an instance reset. -/
def Chip.insEnable (c : Chip) (i : Nat) (v : Bool) : Chip :=
  if 512 ≤ i then c
  else
    let was := c.on F.INS_CTRL_ENABLE i
    let c := c.wr F.INS_CTRL_ENABLE (b2n v) i
    if !c.on F.INS_STATUS_VF_PRESENT i then c
    else if v then (if c.insResetting i then c else c.wr F.INS_STATUS_STATE (c.insHome i) i)
    else if was then c.insReset i 3 else c

/-- INS_RESET (R371, R372). -/
def Chip.insResetCmd (c : Chip) (i : Nat) : Chip :=
  if i < 512 ∧ c.on F.INS_STATUS_VF_PRESENT i then c.insReset i 2 else c

/-- VF_ENABLE_CHANGE (R369): VFs 1 to `n` are enabled; instances beyond are removed with an instance reset. -/
def Chip.vfEnable (c : Chip) (n : Nat) : Chip :=
  (List.range 512).foldl (fun c i =>
    let was := c.on F.INS_STATUS_VF_PRESENT i
    if i < n ∧ !was then
      let c := c.wr F.INS_STATUS_VF_PRESENT 1 i
      if c.insResetting i then c else c.wr F.INS_STATUS_STATE (c.insHome i) i
    else if n ≤ i ∧ was then (c.wr F.INS_STATUS_VF_PRESENT 0 i).insReset i 4
    else c) c

/-- Sum of one quota field over every instance but `i`. -/
def Chip.quotaOthers (c : Chip) (f : Fld) (i : Nat) : Nat := ((List.range 512).map (fun j => if j = i then 0 else c.rd f j)).sum

/-- A quota value that R370 ignores: out of range, below present use, or overcommitting the module. -/
def Chip.quotaBad (c : Chip) (f : Fld) (i v top use limit mgr : Nat) : Bool :=
  decide (top < v) || decide (v < use) || decide (limit < c.quotaOthers f i + v + mgr)

/-- INSTANCE_QUOTA_WRITE (R370): INS_QUOTA_Q (0), INS_QUOTA_QP (1) or INS_QUOTA_KEY (2). -/
def Chip.quotaWrite (c : Chip) (i reg v : Nat) : Chip :=
  let err := c.wr F.INS_STATUS_CFG_ERR 1 i
  if 512 ≤ i then c
  else if reg = 0 then
    (if 8190 < v % 2 ^ 13 ∨ v % 2 ^ 13 < c.queuesUsed i then err else c.wr F.INS_QUOTA_Q_QUEUES v i)
  else if reg = 1 then
    (if c.quotaBad F.INS_QUOTA_QP_QPS i (v % 2 ^ 19) 262144 (c.qpsUsed i) 262144 (c.qpsUsed 512) then err else c.wr F.INS_QUOTA_QP_QPS v i)
  else
    let g := field v 0 13
    let x := field v 16 7
    if c.quotaBad F.INS_QUOTA_KEY_GCM i g 4096 (c.keysHeld 0 i) 4096 (c.keysHeld 0 mgrOwner) ||
       c.quotaBad F.INS_QUOTA_KEY_XTS i x 64 (c.keysHeld 1 i) 64 (c.keysHeld 1 mgrOwner) then err
    else (c.wr F.INS_QUOTA_KEY_GCM g i).wr F.INS_QUOTA_KEY_XTS x i

/-! ### Device memory (R352–R354) -/

/-- A device-memory access performed: a read is answered with its bytes, a write stores those whose enable is set; `errs` are the memory errors it
meets (R137, R138). -/
def Chip.dpaAccess (c : Chip) (path addr : Nat) (t : Tier) (a len : Nat) (data : Option (List (Option Byte))) (errs : List MemErr) : Chip :=
  let c := errs.foldl Chip.memError c
  match data with
  | none => let (d, c) := c.dpaRead t a len; c.emit (.memData path addr d)
  | some l => (enabledRuns 0 l).foldl (fun c r => c.dpaPut t (a + r.1) (clean r.2)) (if t = .loft then c else c.touch t a l.length)

/-- Some almanac is RUNNING or HELD. -/
def Chip.anyRun (c : Chip) : Bool := c.ctxs.any (fun e => e.2.st == .running || e.2.st == .held)

/-- Bytes an access covers. -/
def accLen (len : Nat) (data : Option (List (Option Byte))) : Nat := match data with | none => len | some l => l.length

/-- A violation of a host memory access: recorded, and a read answered with Completer Abort (R44). -/
def Chip.memViol (c : Chip) (page src addr : Nat) (write : Bool) (why : Viol) : Chip :=
  let c := c.violation page src addr (b2n write) 2 why
  if write then c else c.emit (.completerAbort src addr)

/-- BAR4_ACCESS (R352, R128, R415): an access to PF BAR4 at an offset, through the window while BAR4 is 256 MiB. -/
def Chip.bar4Access (c : Chip) (off len : Nat) (data : Option (List (Option Byte))) (errs : List MemErr) : Chip :=
  let full := c.on F.HST_STATUS_BAR4_FULL
  let n := accLen len data
  if !c.hostUp ∨ n = 0 ∨ (if full then 2 ^ 42 else 2 ^ 28) < off + n ∨ c.mst = .off ∨ c.mst = .keepalive then c
  else
    let a := if full then off else c.rd F.HST_WIN_BASE_BASE * 2 ^ 28 + off
    match c.dpa a, c.dpa (a + n - 1) with
    | some (t, x), some (u, _) =>
      if t ≠ u then c.memViol 0x78 0x3FF off data.isSome .unmapped
      else if c.mst = .safe ∨ (t = .loft ∧ c.anyRun) then c.memViol 0x78 0x3FF off data.isSome .state
      else c.dpaAccess 0 off t x n data errs
    | _, _ => c.memViol 0x78 0x3FF off data.isSome .unmapped

/-- CXL_MEM_ACCESS (R353): the HDM decoders reach the crib and the granary. -/
def Chip.cxlAccess (c : Chip) (a len : Nat) (data : Option (List (Option Byte))) (errs : List MemErr) : Chip :=
  let n := accLen len data
  if !c.hostUp ∨ !c.on F.HST_STATUS_CXL_MEM ∨ n = 0 then c
  else match c.dpa a, c.dpa (a + n - 1) with
    | some (t, x), some (u, _) => if t ≠ u ∨ t = .loft then c else c.dpaAccess 0x400 a t x n data errs
    | _, _ => c

/-- The translation of a page for an aperture access, with the case of R354 that applies, in the order of R46. -/
def Chip.apertureXlate (c : Chip) (i va : Nat) (write : Bool) : Option Viol × Chip :=
  let (r, c) := c.xlate i va (if write then .write else .read)
  (match r with
    | .ok t _ _ => if t = .crib ∨ t = .grn then none else some .state
    | .right => (match c.look i va (if write then .read else .write) with
        | .ok t _ _ => if t = .crib ∨ t = .grn then some .privilege else some .state
        | _ => some .privilege)
    | _ => some .unmapped, c)

/-- The translations of an aperture access, up to the first page with a case of R354. -/
def Chip.apertureRuns (c : Chip) (i : Nat) (write : Bool) : List (Nat × Nat) → Option Viol × Chip
  | [] => (none, c)
  | r :: t => match c.apertureXlate i r.1 write with
    | (some w, c) => (some w, c)
    | (none, c) => c.apertureRuns i write t

/-- APERTURE_ACCESS (R354, R369, R371): a VF's BAR4 access. -/
def Chip.apertureAccess (c : Chip) (i off len : Nat) (data : Option (List (Option Byte))) (errs : List MemErr) : Chip :=
  let n := accLen len data
  let page := 0x100 + i
  if !c.hostUp ∨ n = 0 ∨ 2 ^ 36 < off + n ∨ 512 ≤ i ∨ c.mst = .off ∨ c.mst = .keepalive then c
  else if !c.on F.INS_STATUS_VF_PRESENT i then (if data.isSome then c else c.emit (.unsupported i off))
  else if c.insResetting i then (if data.isSome then c else c.emit (.completerAbort i off))
  else if !c.dataState || !c.ownerServed i then c.memViol page i off data.isSome .state
  else
    let va := c.rd F.INS_APT_VA i * 2 ^ 36 + off
    match c.apertureRuns i data.isSome (runs va n) with
    | (some w, c) => c.memViol page i off data.isSome w
    | (none, c) =>
      let c := errs.foldl Chip.memError c
      match data with
      | none =>
        let (d, c) := c.vaRead i va n
        c.emit (.memData (i + 1) off d)
      | some l => (enabledRuns 0 l).foldl (fun c r => c.vaPut i (va + r.1) (clean r.2)) (c.vaTouch i va n)

/-- WINDOW_BASE_WRITE (R352). -/
def Chip.winBaseWrite (c : Chip) (v : Nat) : Chip := c.wr F.HST_WIN_BASE_BASE (v / 2 ^ 28)

/-- ATOMICOP_REQUEST (R350): Unsupported Request, and no violation. -/
def Chip.atomicRequest (c : Chip) (fn addr : Nat) : Chip := if c.hostUp then c.emit (.unsupported fn addr) else c

/-! ### The link (R27, R349, R382, R383) -/

/-- HOST_LINK_UP: the link reaches L0 where the port may train. -/
def Chip.linkUpHost (c : Chip) (speed width : Nat) : Chip :=
  if c.hostUp || c.inputs.perst || !c.hostReady then c
  else ((((c.wr F.HST_STATUS_LINK_UP 1).wr F.HST_STATUS_SPEED speed).wr F.HST_STATUS_WIDTH width).wr F.HST_STATUS_FLIT (b2n (speed == 6))).emit .readiness

/-- The link leaves L0, and the lanes it used lose lock. -/
def Chip.linkDownHost (c : Chip) : Chip :=
  let n := if c.hostUp then min 16 (c.rd F.HST_STATUS_WIDTH) else 0
  let c := (List.range n).foldl (fun c j => c.count F.CLK_DOMAIN_STATUS_LOSSES 1 0 (196 + j)) c
  (((c.wr F.HST_STATUS_LINK_UP 0).wr F.HST_STATUS_SPEED 0).wr F.HST_STATUS_WIDTH 0).wr F.HST_STATUS_FLIT 0

/-- PERST_ASSERT: the host port and the functions are reset, as by a PF FLR. -/
def Chip.perstAssert (c : Chip) : Chip :=
  let c : Chip := { c with inputs := { c.inputs with perst := true } }
  if c.mst = .off then c else { (c.pfReset.linkDownHost).wr F.HST_STATUS_CXL_MEM 0 with plainWrites := [], cplTimeout := 0 }

/-- PERST_DEASSERT. -/
def Chip.perstDeassert (c : Chip) : Chip := { c with inputs := { c.inputs with perst := false } }

/-- CONFIG_REQUEST (R349, R357, R358, R382): a configuration request is answered; its writes set what the module keeps of them. -/
def Chip.configRequest (c : Chip) (w : CfgWrite) : Chip :=
  if !c.hostUp then c
  else
    let c : Chip := match w with
      | .none => c
      | .cxlMem v => c.wr F.HST_STATUS_CXL_MEM (b2n v)
      | .bar4Full v => c.wr F.HST_STATUS_BAR4_FULL (b2n v)
      | .relaxed fn v => { c with plainWrites := if v then c.plainWrites.filter (· ≠ fn) else fn :: c.plainWrites.filter (· ≠ fn) }
      | .timeout t => { c with cplTimeout := t }
    c.emit .configDone

/-! ### Host reads and peer windows (R357, R363, R364) -/

/-- A read of [a, a + n) that a peer answers with an error blocks its DIRECT window. -/
def Chip.p2pBlock (c : Chip) (a kind : Nat) : Chip :=
  match c.p2pWindow a with
  | some w => if c.p2pState w = 2 ∧ (kind = 1 ∨ kind = 2) then (c.wr F.HST_P2P_STATUS_STATE 3 0 w).wr F.HST_P2P_STATUS_LAST_CPL kind 0 w else c
  | none => c

/-- HOST_READ_ERROR: the completion of a read of host memory fails (1 Unsupported Request, 2 Completer Abort, 3 timeout) or is poisoned (4). The
source rises, and the read that it answers takes poisoned data. -/
def Chip.hostReadError (c : Chip) (a n kind : Nat) : Chip :=
  let c := (c.hostReadBad kind).p2pBlock a kind
  if n = 0 then c else { c with hostBad := c.hostBad ++ [(a, n)] }

/-- P2P_PROBE: a 4-byte read to the window's base. -/
def Chip.p2pProbe (c : Chip) (w : Nat) : Chip :=
  if 16 ≤ w ∨ !c.on F.HST_P2P_CTRL_VALID 0 w ∨ c.on F.HST_P2P_CTRL_PROBE 0 w then c
  else
    let c := (c.wr F.HST_P2P_CTRL_PROBE 1 0 w).wr F.HST_P2P_STATUS_STATE 1 0 w
    ({ c with probes := Table.insert w c.beat (Table.erase w c.probes) } : Chip).emit (.hostRead 0 (c.rd F.HST_P2P_BASE_BASE 0 w * 4096) 4)

/-- P2P_PROBE_RESULT: success, an error, or none within 10 ms (3). -/
def Chip.p2pResult (c : Chip) (w cpl : Nat) : Chip :=
  if !c.on F.HST_P2P_CTRL_PROBE 0 w then c
  else
    let cpl := cpl % 4
    let c := if cpl = 3 then c.advanceTo (Table.getD c.probes w c.beat + nsBeats 10000000) else c
    let c := if cpl = 0 then c else c.hostReadBad cpl
    let c := ((c.wr F.HST_P2P_CTRL_PROBE 0 0 w).wr F.HST_P2P_STATUS_STATE (if cpl = 0 then 2 else 3) 0 w).wr F.HST_P2P_STATUS_LAST_CPL cpl 0 w
    { c with probes := Table.erase w c.probes }

/-- HST_P2P_CTRL and HST_P2P_BASE of the selected window are written: LOG2 and BASE only while VALID is 0, LOG2 within 12–48, the base aligned on
the size; setting VALID makes the state UNKNOWN. -/
def Chip.p2pCtrlWrite (c : Chip) (w v : Nat) : Chip :=
  let was := c.on F.HST_P2P_CTRL_VALID 0 w
  let c := if was then c else c.wr F.HST_P2P_CTRL_LOG2 (min 48 (max 12 (v % 64))) 0 w
  let c := c.wr F.HST_P2P_CTRL_VALID (v / 256) 0 w
  let c := if bit v 8 && !was then (c.wr F.HST_P2P_STATUS_STATE 0 0 w).wr F.HST_P2P_STATUS_LAST_CPL 0 0 w else c
  if bit v 9 then c.p2pProbe w else c

end Sys2Proof.Machine
end

