-- ==== Sys2Proof/Machine/Safe.lean ====
section
/-!
DEFINITION. Machine/Safe.lean: the outputs that the safe state drives, and their release (R223, R329, R415–R417).
-/
namespace Sys2Proof.Machine

/-- FWC: a command or update ends with a RESULT. -/
def Chip.fwcEnd (c : Chip) (code : Nat) : Chip :=
  { (c.wr F.FWC_RESULT_CODE code).wr F.FWC_STATUS_BUSY 0 with fwcBusy := 0 }

/-- An update is given up before its handoff bell: the loaded segments are discarded (R398). -/
def Chip.abandon (c : Chip) : Chip :=
  if c.rd F.FWC_STATUS_UPDATE = 4 ∨ c.rd F.FWC_STATUS_UPDATE = 5 then
    { (c.wr F.FWC_STATUS_UPDATE 0).fwcEnd 9 with update := none }
  else c

/-- The almanacs that run or are held are DONE with REASON 0x21 (R75, R416). -/
def Chip.haltAlmanacs (c : Chip) : Chip :=
  (c.ctxs.map (·.1)).foldl (fun c n => if (c.ctx n).st = .running ∨ (c.ctx n).st = .held then c.almDone n Why.safe else c) c

/-- QUIET on every link in service, with the HOLD that this module originates (R223). -/
def Chip.sendQuiet (c : Chip) : Chip :=
  let c := c.originate 4 .safe
  match c.hold.seen with
  | (_, b) :: _ => c.sendCtls c.linksUp (.quiet c.modId b)
  | [] => c

/-- The safe-state outputs (R415). -/
def Chip.safeOutputs (c : Chip) : Chip :=
  let c := c.haltAlmanacs
  let c := (c.endShift).onThr (fun t => { t with window := none })
  { c.sendQuiet.ethSafe with safeOut := true }

/-- What the outputs put on the wires, where nothing will send it later (R404). -/
def Chip.flushSafe (c : Chip) : Chip :=
  let c := (c.linksUp).foldl (fun c k => ((c.link k).ctlq.filter (fun e => match e.msg with | .quiet .. => true | .hold .. => true | _ => false)).foldl
    (fun c e => c.emit (.ctl k e.copy (c.link k).expect e.msg)) c) c
  (List.range 8).foldl (fun c k => (c.eport (portKey (k / 2) (k % 2))).mac.foldl (fun c f => c.ethEmit (k / 2) (k % 2) f) c) c

/-- The outputs are released (R417): LIVE, READY for the HOLD, XON, retransmission timers. -/
def Chip.safeRelease (c : Chip) : Chip :=
  let c : Chip := { c with safeOut := false }
  let c := (c.sendCtls c.linksUp .live).passCauses (· == .safe)
  let c := c.ethLeaveSafe
  (c.qps.map (·.1)).foldl (fun c n => c.armRtx n true) c

end Sys2Proof.Machine
end

