-- ==== Sys2Proof/Machine/Firmware.lean ====
section
/-!
DEFINITION. Machine/Firmware.lean: reeve cores and watchdogs, power-up, flash and images, the settings record, HELLO, live update, the governor,
main and auxiliary power, the keep-alive domain (R377–R404, R427–R430, R435, R436, R440, R450).
-/
namespace Sys2Proof.Machine

/-! ### Flash (R384) -/

/-- A byte of flash; an erased one reads 0xFF, so the store keeps complements. -/
def Chip.flashByte (c : Chip) (a : Nat) : Byte := ~~~ (c.flash.get a)
def Chip.flashRead (c : Chip) (a n : Nat) : List Byte := (List.range n).map (fun k => c.flashByte (a + k))
def Chip.flashWord (c : Chip) (a : Nat) : Nat := ofLE (c.flashRead a 4)
def Chip.flashWrite (c : Chip) (a : Nat) (l : List Byte) : Chip := { c with flash := c.flash.write a (l.map (fun b => ~~~ b)) }

/-- Bytes of a bank. -/
def bankBytes : Nat := 2 ^ 25
/-- The settings record. -/
def recordAt : Nat := 0x4002000

def Chip.runBank (c : Chip) : Nat := c.rd F.FWC_STATUS_RUN_BANK
/-- The bank that is not running. -/
def Chip.otherBank (c : Chip) : Nat := 1 - c.runBank

/-- A word of a bank's image header (R385). -/
def Chip.header (c : Chip) (bank off : Nat) : Nat := c.flashWord (bank * bankBytes + off)
def Chip.imgVer (c : Chip) (bank : Nat) : Nat := c.header bank 0x008
def Chip.imgIf (c : Chip) (bank : Nat) : Nat := c.header bank 0x00C
def Chip.imgHrec (c : Chip) (bank : Nat) : Nat := c.header bank 0x010 % 65536
def Chip.imgSvn (c : Chip) (bank : Nat) : Nat := c.header bank 0x018 % 256

/-- The test of an image (R386), as the RESULT it gives: 0 valid, 5 FORMAT, 3 SIGNATURE, 4 SVN. -/
def Chip.imageTest (c : Chip) (bank : Nat) : Nat :=
  let base := bank * bankBytes
  let len := c.header bank 0x004
  if c.header bank 0x000 % 256 ≠ 1 ∨ len < 8192 ∨ bankBytes < len then 5
  else
    let key := c.flashRead (base + 0x020) 96
    let sig := c.flashRead (base + 0x080) 96
    if Sha.sha384 key ≠ Config.vendorDigest then 3
    else
      let e := Sha.sha384 (c.flashRead base 0x020 ++ c.flashRead (base + 0x100) (len - 0x100))
      if !P384.verify (ofBE (key.take 48)) (ofBE (key.drop 48)) (ofBE (sig.take 48)) (ofBE (sig.drop 48)) e then 3
      else if c.imgSvn bank < c.rd F.FWC_BOOT_SVN_MIN then 4
      else 0

/-- A test of a bank shows in its FWC_BANK_VER register: FW_VER, or 0 where it is invalid. -/
def Chip.testBank (c : Chip) (bank : Nat) : Nat × Chip :=
  let r := c.imageTest bank
  let v := if r = 0 then c.imgVer bank else 0
  (r, if bank = 0 then c.wr F.FWC_BANK_A_VER_FW_VER v else c.wr F.FWC_BANK_B_VER_FW_VER v)

/-- GLB_FW_VER, GLB_FW_IF and HREC as an image gives them, and its training algorithm's revision (R141). -/
def Chip.setFw (c : Chip) (ver iface hrec : Nat) : Chip :=
  { (((((c.wr F.GLB_FW_VER_MAJOR (ver / 2 ^ 24)).wr F.GLB_FW_VER_MINOR (ver / 2 ^ 16)).wr F.GLB_FW_VER_BUILD ver).wr F.GLB_FW_IF_IF_MIN iface).wr
      F.GLB_FW_IF_IF_MAX (iface / 2 ^ 16)).wr F.FWC_GAP_HREC hrec with trainRev := Config.trainRevision ver }

/-! ### Phases (R380) -/

def Chip.phase (c : Chip) : Nat := c.rd F.FWC_STATUS_PHASE
def Chip.setPhase (c : Chip) (n : Nat) : Chip := c.wr F.FWC_STATUS_PHASE n

/-- The boot proceeds: the module is BOOTING in a phase. -/
def Chip.inPhase (c : Chip) (n : Nat) : Bool := c.mst == .booting && c.phase == n

/-- Main rails are up. -/
def Chip.railsUp (c : Chip) : Bool := c.mst != .off && c.mst != .keepalive && decide (4 ≤ c.phase) && decide (c.phase ≤ 7)

/-- The ROM turns to the other bank (R387). -/
def Chip.fallBack (c : Chip) : Chip :=
  ((c.wr F.FWC_BOOT_ACTIVE (1 - c.rd F.FWC_BOOT_ACTIVE)).wr F.FWC_BOOT_TRIAL 0).wr F.FWC_STATUS_FALLBACK 1

/-- BOOT_ROM_CHECKS_DONE: phase 0 ends. -/
def Chip.bootRomDone (c : Chip) : Chip :=
  if !c.inPhase 0 then c
  else
    let c := if c.on F.FWC_BOOT_TRIAL then c.wr F.FWC_BOOT_ATTEMPTS (min 3 (c.rd F.FWC_BOOT_ATTEMPTS + 1)) else c
    (if c.on F.FWC_BOOT_TRIAL ∧ c.rd F.FWC_BOOT_ATTEMPTS = 3 then c.fallBack else c).setPhase 1

/-- The chosen image starts. -/
def Chip.bootBank (c : Chip) (b : Nat) : Chip :=
  ((c.wr F.FWC_STATUS_RUN_BANK b).setFw (c.imgVer b) (c.imgIf b) (c.imgHrec b)).setPhase 2

/-- IMAGE_VERIFY_DONE: the ACTIVE bank boots, else the other, else phase 8. -/
def Chip.imageVerifyDone (c : Chip) : Chip :=
  if !c.inPhase 1 then c
  else
    let a := c.rd F.FWC_BOOT_ACTIVE
    let (r, c) := c.testBank a
    if r = 0 then c.bootBank a
    else
      let (r, c) := (c.fallBack).testBank (1 - a)
      if r = 0 then c.bootBank (1 - a) else c.setPhase 8

/-! ### General pins, as the record and R442 set them -/

/-- The function field of a pin. -/
def gpFld (p : Nat) : Fld := { F.MGT_GP_FUNC0_FUNC0 with off := 0x84 + 4 * (p / 8), lo := 4 * (p % 8) }
def Chip.gpFunc (c : Chip) (p : Nat) : Nat := c.rd (gpFld p)
/-- A pin's reset function (R442). -/
def gpReset (p : Nat) : Nat := if p = 0 then 4 else if p = 1 then 6 else if p = 2 then 3 else if p = 3 then 1 else if p = 4 then 2 else 0

/-- Beats of the 40 ns hold. -/
def holdBeats : Nat := 36

/-- A pin begins its hold, or begins it anew; a pin in its hold reads CHG (R443). -/
def Chip.startHold (c : Chip) (p f : Nat) : Chip :=
  let c : Chip := { c with holds := ⟨p, f, c.beat + holdBeats⟩ :: c.holds.filter (fun h => h.pin ≠ p) }
  c.wr F.MGT_GP_IN_CHG (setBit (c.rd F.MGT_GP_IN_CHG) p true)

/-! ### Settings record (R389, R390, R440, R212) -/

/-- AGL_EXPECT of every link, as R212 computes it from GLB_POSITION. -/
def Chip.expectLinks (c : Chip) : Chip :=
  let r := c.rd F.GLB_POSITION_RICK
  let s := c.rd F.GLB_POSITION_SEAT
  (List.range 32).foldl (fun c k =>
    let (role, link, m) : Nat × Nat × Nat :=
      if k < 15 then (0, 14 - k, r * 16 + (s + k + 1) % 16)
      else if k < 30 then (1, 29 - (k - 15), (r + (k - 15) + 1) % 16 * 16 + s)
      else (2, k, if c.twinValid then c.twinId else 0)
    let en := c.posValid && (decide (k < 30) || c.twinValid)
    (((c.wr F.AGL_EXPECT_ROLE role k).wr F.AGL_EXPECT_CHECK_EN (b2n en) k).wr F.AGL_EXPECT_PEER_LINK link k).wr F.AGL_EXPECT_PEER_MODULE m k) c

/-- The position and twin that a record with a good check gives. -/
def Chip.recordPosition (c : Chip) (w : Nat → Nat) : Chip :=
  let id := field (w 1) 8 8
  let twin := field (w 1) 16 8
  let okPos := w 0 % 256 == 1 && id == field (w 1) 4 4 * 16 + field (w 1) 0 4
  let badTwin := bit (w 0) 9 && (twin / 16 != field (w 1) 4 4 || twin == id)
  let c := ((((c.wr F.GLB_POSITION_SEAT (w 1)).wr F.GLB_POSITION_RICK (w 1 / 16)).wr F.GLB_POSITION_MODULE_ID id).wr F.GLB_POSITION_TWIN_ID twin)
  let c := (c.wr F.GLB_POSITION_POSITION_VALID (b2n (okPos && bit (w 0) 8))).wr F.GLB_POSITION_TWIN_VALID (b2n (okPos && bit (w 0) 9 && !badTwin))
  if !okPos || badTwin then c.event Flt.settings else c

/-- The pins take the functions of the record, or their reset functions; GP0 changes from FAULT_OUT under R443. -/
def Chip.recordPins (c : Chip) (f : Nat → Nat) : Chip :=
  (List.range 16).foldl (fun c p =>
    let g := if 7 ≤ f p then gpReset p else f p
    let c := c.wr (gpFld p) g
    if p = 0 ∧ g ≠ 4 then c.startHold 0 g else c) c

/-- SETTINGS_RECORD_READ: phase 2 ends, in phase 3, or in phase 9 while an alarm is latched (R381). `bad` is a flash read error. -/
def Chip.settingsRead (c : Chip) (bad : Bool) : Chip :=
  if !c.inPhase 2 then c
  else
    let rec_ := c.flashRead recordAt 256
    let ws := wordsOf 64 rec_
    let w (k : Nat) : Nat := ws.getD k 0
    let sum_ := crc32 (rec_.take 252)
    let cause := if bad then 3 else if rec_.all (· == 0xFF) then 2 else if w 63 ≠ sum_ then 1 else 0
    let c := if bad then c.event Flt.flash else c
    let (x, c) := if bad then c.free else (w 63, c)
    let (y, c) := if bad then c.free else (sum_, c)
    let c := (((c.wr F.GLB_SET_CHECK_STORED x).wr F.GLB_SET_CALC_COMPUTED y).wr F.GLB_SETTINGS_CAUSE cause).wr F.GLB_SETTINGS_DEFAULTS_USED (b2n (cause != 0))
    let c := if cause = 0 then
        let c := ((c.wr F.GLB_SETTINGS_RECORD_VER (w 0)).recordPosition w).wr F.HST_STATUS_BAR4_FULL (b2n (!bit (w 2) 0))
        let c := (List.range 4).foldl (fun c k => c.wr F.GLB_SET_TAG_TAG (w (5 + k)) 0 0 k) c
        let c := c.recordPins (fun p => field (w (3 + p / 8)) (4 * (p % 8)) 4)
        { c with smbAddr := field (w 2) 8 7 }
      else { c.recordPins gpReset with smbAddr := 0x5A }
    let c := c.expectLinks
    if c.on F.MGT_KA_ALARM_LATCHED && !c.on F.MGT_KA_ALARM_ACKED then { c.setPhase 9 with mst := .keepalive } else c.setPhase 3

/-- Phase 9 ends once the alarm is acknowledged and neither sense input is asserted (R381, R450). -/
def Chip.leavePhase9 (c : Chip) : Chip :=
  if c.mst = .keepalive ∧ c.on F.MGT_KA_ALARM_ACKED ∧ !c.inputs.leak ∧ !c.inputs.lid then { c.setPhase 3 with mst := .booting } else c

/-- KA_ACK (R450): accepted in phase 9, from a sideband target, with the right key. -/
def Chip.kaAck (c : Chip) (src v : Nat) : Chip :=
  if c.mst = .keepalive ∧ (src = 0x3FD ∨ src = 0x3FE) ∧ v / 65536 = 0x5AFE ∧ bit v 0 then
    (if c.on F.MGT_KA_ALARM_ACKED then c else (c.wr F.MGT_KA_ALARM_ACKED 1).event Flt.kaAlarm).leavePhase9
  else c

/-! ### Sense inputs with main power on (R406, R429, R441) -/

/-- MGT_COOLANT_F follows the sense inputs and the LEAK_IN pins. -/
def Chip.showSenses (c : Chip) : Chip :=
  (c.wr F.MGT_COOLANT_F_LEAK (b2n (c.inputs.leak || c.inputs.low.any (fun x => decide (10 ≤ x.2))))).wr F.MGT_COOLANT_F_LID (b2n c.inputs.lid)

/-- LEAK_SENSE and LID_OPEN: the sense asserts; with main power on it is an event of its source, held while it lasts. -/
def Chip.senseAssert (c : Chip) (lid : Bool) : Chip :=
  let c : Chip := { c with inputs := if lid then { c.inputs with lid := true } else { c.inputs with leak := true } }
  let c := c.showSenses
  if c.railsUp then c.onset (if lid then Flt.lid else Flt.leak) else c

/-- The onset of senses already asserted as main power comes up. -/
def Chip.sensesNow (c : Chip) : Chip :=
  let c := if c.inputs.leak then c.onset Flt.leak else c
  if c.inputs.lid then c.onset Flt.lid else c

/-- MAIN_RAILS_SEQUENCED: phase 3 ends; the governor is armed, and the sense inputs drive their sources. -/
def Chip.railsSequenced (c : Chip) : Chip :=
  if !c.inPhase 3 || !c.inputs.mainGood then c else (c.setPhase 4).showSenses.sensesNow

/-- DIE_RESETS_RELEASED: phase 4 ends; memory and ports begin to train, and the host port is ready. A link is DOWN until a lane of its peer locks or its
training signal is detected (R214, R216; log entry 222). -/
def Chip.diesReleased (c : Chip) : Chip :=
  if !c.inPhase 4 then c
  else
    let c : Chip := { c.setPhase 5 with hostReady := true }
    c.bootTraining

/-! ### READY and REFUSED (R54, R369, R392, R393) -/

/-- The revision recorded is within GLB_FW_IF. -/
def Chip.revOk (c : Chip) (rev : Nat) : Bool := decide (c.rd F.GLB_FW_IF_IF_MIN ≤ rev) && decide (rev ≤ c.rd F.GLB_FW_IF_IF_MAX)

/-- The module enters READY: instances whose ENABLE is set are in service. -/
def Chip.toReady (c : Chip) : Chip :=
  let c : Chip := { c.setPhase 7 with mst := .ready }
  (c.instances).foldl (fun c i => if c.insResetting i then c else c.wr F.INS_STATUS_STATE (c.insHome i) i) c

/-- The module enters REFUSED: every existing instance is reset. No CAUSE code names this reset, so its CAUSE is a free value (log entry 19). -/
def Chip.toRefused (c : Chip) : Chip :=
  let c : Chip := { c.setPhase 7 with mst := .refused }
  (c.instances).foldl (fun c i => let (f, c) := c.free; c.insReset i (f % 5)) c

/-- What the recorded revision leads to: READY, REFUSED, or READY with none recorded. -/
def Chip.byHello (c : Chip) : Chip := match c.hello with | some r => if c.revOk r then c.toReady else c.toRefused | none => c.toReady

/-- BOOT_COMPLETE: phase 5 ends once no memory unit trains. -/
def Chip.bootComplete (c : Chip) : Chip :=
  if !c.inPhase 5 || c.anyTraining then c
  else
    let c := ((c.wr F.FWC_BOOT_TRIAL 0).wr F.FWC_BOOT_ATTEMPTS 0)
    if c.bootSafe then { c.setPhase 7 with mst := .safe, bootSafe := false }
    else match c.hello with
      | some r => if c.revOk r then c.toReady else c.toRefused
      | none => c.setPhase 6

/-- HELLO (R392). -/
def Chip.mbHello (c : Chip) (o : Nat) : Chip :=
  c.mbRow o Mb.hello (fun c seq m =>
    let rev := m.getD 2 0 % 65536
    let ok := c.revOk rev
    let c := c.mbReply o Mb.hello seq (if ok then St.ok else St.format) [c.fwIf, c.fwVer]
    if o ≠ 512 then c
    else
      let c : Chip := { c with hello := some rev }
      if (c.mst == .booting && c.phase == 6) || (c.mst == .refused && ok) || (c.mst == .ready && !ok) then c.byHello else c)

/-! ### Cores and watchdogs (R378, R379, R403) -/

def Chip.coreState (c : Chip) (k : Nat) : Nat := c.rd F.FWC_CORE_STATE 0 k
def Chip.anyRestarting (c : Chip) : Bool := (List.range 16).any (fun k => c.coreState k == 1)

/-- A core of 4–15 is reset: admin commands in progress of the owners it serves complete with INTERNAL. -/
def Chip.dropAdmin (c : Chip) (k : Nat) : Chip :=
  if k < 4 then c
  else (c.admWait.map (·.1)).foldl (fun c o =>
    if o < 512 ∧ c.serverOf o = some k then
      ({ c with prefetches := c.prefetches.filter (fun p => p.space ≠ o) } : Chip).admDone o St.internal 0 0 0
    else c) c

/-- A core is reset and restarts. -/
def Chip.resetCore (c : Chip) (k : Nat) : Chip :=
  (((c.dropAdmin k).wr F.FWC_CORE_STATE 1 0 k).wr F.FWC_CORE_DUTY_LOST 1 0 k).event (Flt.wdCore k)

/-- WATCHDOG_CORE0_EXPIRY and WATCHDOG_EXPIRY: a running core's watchdog expires; of cores 4–15 the bell is kept for R378. -/
def Chip.watchdog (c : Chip) (k : Nat) : Chip :=
  if 16 ≤ k ∨ c.coreState k ≠ 0 ∨ c.mst = .off then c
  else
    let n := c.rd F.FWC_CORE_EXPIRIES 0 k
    let c := if n < 63 then c.wr F.FWC_CORE_EXPIRIES (n + 1) 0 k else c.wr F.PAGE_STATUS_CNT_SAT 1 4
    ({ c with restarts := Table.insert k ((c.bell :: Table.getD c.restarts k []).take 3) (Table.erase k c.restarts) } : Chip).resetCore k

/-- CORE_RESET: RST_CORE.RESET of a core, ignored for core 0; it does not count toward retirement. -/
def Chip.coreReset (c : Chip) (k : Nat) : Chip := if k = 0 ∨ 16 ≤ k ∨ c.coreState k ≠ 0 ∨ c.mst = .off then c else c.resetCore k

/-- Three restarts within 64 bells (R378). -/
def Chip.retires (c : Chip) (k : Nat) : Bool :=
  decide (4 ≤ k) && (match Table.getD c.restarts k [] with | [a, _, b] => decide (a < b + 64) | _ => false)

/-- CORE_RESTART_COMPLETE: the core resumes its duties, or is retired; messages that waited go out. -/
def Chip.coreRestarted (c : Chip) (k : Nat) : Chip :=
  if c.coreState k ≠ 1 then c else (c.wr F.FWC_CORE_STATE (if c.retires k then 2 else 0) 0 k).mbFlush

/-! ### FWC commands (R386, R391, R394–R402) -/

/-! RESULT codes of FWC. -/
namespace Fw
def ok : Nat := 0
def busy : Nat := 1
def state : Nat := 2
def ifMismatch : Nat := 6
def hrecUnknown : Nat := 7
def resumeFail : Nat := 8
def abandoned : Nat := 9
def flashErr : Nat := 10
def hostRead : Nat := 11
def privilege : Nat := 12
end Fw

def fromSideband (src : Nat) : Bool := src == 0x3FD || src == 0x3FE

/-- A command of FWC is taken: with another in progress it is ignored and RESULT reads BUSY; in phase 8 only PROGRAM_PAGE, VERIFY and ACTIVATE_NEXT
are accepted (R388). -/
def Chip.fwc (c : Chip) (cmd : Nat) (f : Chip → Chip) : Chip :=
  if c.mst = .off ∨ c.mst = .keepalive then c
  else if c.fwcBusy ≠ 0 then c.wr F.FWC_RESULT_CODE Fw.busy
  else if c.phase = 8 ∧ ¬ (cmd = 2 ∨ cmd = 4 ∨ cmd = 7) then c.wr F.FWC_RESULT_CODE Fw.state
  else f c

/-- A command goes on beyond this step. -/
def Chip.fwcStart (c : Chip) (cmd upd : Nat) : Chip := { (c.wr F.FWC_STATUS_BUSY 1).wr F.FWC_STATUS_UPDATE upd with fwcBusy := cmd }

/-- STAGE. -/
def Chip.stage_ (c : Chip) (src : Nat) : Chip :=
  c.fwc 1 (fun c => if fromSideband src then c.fwcEnd Fw.privilege else { c.fwcStart 1 1 with verified := false })

/-- A bank that was not written to its end (R402): its bytes are free values, and its header's FORMAT is erased, so that no test finds it valid. -/
def Chip.spoilBank (c : Chip) (bank : Nat) : Chip :=
  let c := ({ c with flash := c.flash.undefine c.freeCtr (bank * bankBytes) bankBytes, freeCtr := c.freeCtr + 1 } : Chip).flashWrite (bank * bankBytes) [0xFF]
  if bank = 0 then c.wr F.FWC_BANK_A_VER_FW_VER 0 else c.wr F.FWC_BANK_B_VER_FW_VER 0

/-- A settings record that was not written to its end (R391): erased, or with a check word that does not match its free bytes. -/
def Chip.spoilRecord (c : Chip) : Chip :=
  let (v, c) := c.free
  if v % 2 = 0 then c.flashWrite recordAt (List.replicate 256 0xFF)
  else
    let (l, c) := (List.range 63).foldl (fun (x : List Nat × Chip) _ => let (w, c) := x.2.free; (w :: x.1, c)) ([], c)
    let body := bytesOf (l.map (· % 2 ^ 32))
    c.flashWrite recordAt (body ++ toLE 4 (crc32 body ^^^ 1))

/-- What power that falls or a reset leaves of a flash write in progress. -/
def Chip.cutFlash (c : Chip) : Chip := if c.fwcBusy = 1 then c.spoilBank c.otherBank else if c.fwcBusy = 6 then c.spoilRecord else c

/-- STAGE_COMPLETE: the image is written to the bank that is not running, or the host read (1) or the flash (2) failed. -/
def Chip.stageComplete (c : Chip) (fail : Nat) : Chip :=
  if c.fwcBusy ≠ 1 then c
  else
    let bank := c.otherBank
    let c := c.wr F.FWC_STATUS_UPDATE 0
    let n := min bankBytes (c.rd F.FWC_LEN_BYTES)
    let (d, c) := if fail = 1 then ([], c) else c.tierRead .host 0 (c.rd F.FWC_SRC_ADDR * 4096) n
    if fail = 1 ∨ d.any (·.2) then (c.spoilBank bank).fwcEnd Fw.hostRead
    else if fail ≠ 0 then ((c.spoilBank bank).event Flt.flash).fwcEnd Fw.flashErr
    else (c.flashWrite (bank * bankBytes) (d.map (·.1))).fwcEnd Fw.ok

/-- VERIFY. -/
def Chip.verify_ (c : Chip) : Chip :=
  c.fwc 2 (fun c =>
    let (r, c) := c.testBank c.otherBank
    { (c.wr F.FWC_STATUS_UPDATE (if r = 0 then 3 else 0)).fwcEnd r with verified := decide (r = 0) })

/-- ACTIVATE_LIVE: the conditions of R395, in order; then the segments load. -/
def Chip.activateLive (c : Chip) : Chip :=
  c.fwc 3 (fun c =>
    let b := c.otherBank
    let range := c.header b 0x014
    let hrec := c.rd F.FWC_GAP_HREC
    let mismatch := match c.hello with
      | some r => decide (r < c.imgIf b % 65536) || decide (c.imgIf b / 65536 < r)
      | none => false
    if !c.verified then c.fwcEnd Fw.state
    else if hrec < range % 65536 ∨ range / 65536 < hrec then c.fwcEnd Fw.hrecUnknown
    else if mismatch then c.fwcEnd Fw.ifMismatch
    else if c.mst = .booting || c.anyRestarting then c.fwcEnd Fw.state
    else { c.fwcStart 3 4 with update := some { bank := b, ver := c.fwVer, iface := c.fwIf, hrec := hrec } })

/-- LIVE_LOAD_COMPLETE: the handoff bell is named. -/
def Chip.liveLoaded (c : Chip) : Chip :=
  if c.rd F.FWC_STATUS_UPDATE = 4 ∧ c.update.isSome then
    (c.wr F.FWC_HANDOFF_BELL_BELL (c.bellAhead 4096)).wr F.FWC_STATUS_UPDATE 5
  else c

/-- HANDOFF_BELL: every core freezes into the handoff record and enters its new segment; the service gap begins. -/
def Chip.handoff (c : Chip) : Chip :=
  match c.update with
  | some u =>
    if c.rd F.FWC_STATUS_UPDATE ≠ 5 then c
    else
      let c := c.advanceTo (c.rd F.FWC_HANDOFF_BELL_BELL * bellBeats)
      let wd := (List.range 16).map (fun k => c.rd F.FWC_CORE_WD_MS 0 k)
      let c := (List.range 16).foldl (fun c k => c.wr F.FWC_CORE_WD_MS 20 0 k) c
      { (c.setFw (c.imgVer u.bank) (c.imgIf u.bank) u.hrec).wr F.FWC_STATUS_UPDATE 6 with
        gap := true, update := some { u with wd := wd, at_ := c.beat } }
  | none => c

/-- The gap ends: watchdog periods come from the record, and messages that waited go out. -/
def Chip.gapEnd (c : Chip) (u : Update) (code : Nat) : Chip :=
  let c := (List.range 16).foldl (fun c k => c.wr F.FWC_CORE_WD_MS (u.wd.getD k 0) 0 k) c
  let c := (c.wr F.FWC_GAP_DURATION (min 65535 ((c.beat - u.at_) / 9000))).wr F.FWC_STATUS_UPDATE 0
  { c.fwcEnd code with gap := false, update := none }.mbFlush

/-- Every core that is not retired has reported. -/
def Chip.allReported (c : Chip) (l : List Nat) : Bool := (List.range 16).all (fun k => l.contains k || c.coreState k == 2)

/-- CORE_RESUME_REPORT: the last report makes the new bank ACTIVE. -/
def Chip.resumeReport (c : Chip) (k : Nat) : Chip :=
  match c.update with
  | some u =>
    if c.rd F.FWC_STATUS_UPDATE ≠ 6 ∨ 16 ≤ k ∨ u.reported.contains k then c
    else
      let l := k :: u.reported
      if c.allReported l then
        let c := ((c.wr F.FWC_BOOT_ACTIVE u.bank).wr F.FWC_BOOT_TRIAL 0).wr F.FWC_STATUS_RUN_BANK u.bank
        { (c.wr F.FWC_GAP_HREC (c.imgHrec u.bank)).gapEnd u Fw.ok with verified := false }
      else { c with update := some { u with reported := l } }
  | none => c

/-- HANDOFF_TIMEOUT: 15 ms after the handoff bell every core returns to the old image. -/
def Chip.handoffTimeout (c : Chip) : Chip :=
  match c.update with
  | some u =>
    if c.rd F.FWC_STATUS_UPDATE ≠ 6 then c
    else ((c.advanceTo (u.at_ + nsBeats 15000000)).setFw u.ver u.iface u.hrec).gapEnd u Fw.resumeFail
  | none => c

/-- ACTIVATE_NEXT: the staged bank is ACTIVE on trial; in phase 8 the ROM restarts. -/
def Chip.activateNext (c : Chip) : Chip :=
  c.fwc 4 (fun c =>
    if !c.verified || (c.mst == .booting && c.phase != 8) || c.anyRestarting then c.fwcEnd Fw.state
    else
      let c := ((c.wr F.FWC_BOOT_ACTIVE c.otherBank).wr F.FWC_BOOT_TRIAL 1).fwcEnd Fw.ok
      if c.phase = 8 then c.setPhase 0 else c)

/-- ABANDON: before the handoff bell the loaded segments are discarded; with none loaded nothing is. -/
def Chip.abandonCmd (c : Chip) : Chip :=
  if c.mst = .off ∨ c.mst = .keepalive then c
  else if c.rd F.FWC_STATUS_UPDATE = 4 ∨ c.rd F.FWC_STATUS_UPDATE = 5 then c.abandon
  else c.fwc 5 (fun c => c.fwcEnd Fw.state)

/-- SET_WRITE: from the manager or the sideband, while the module is not RUNNING. -/
def Chip.setWrite (c : Chip) (src : Nat) : Chip :=
  c.fwc 6 (fun c =>
    if src ≠ 0x3FF ∧ !fromSideband src then c.fwcEnd Fw.privilege
    else if c.mst = .running then c.fwcEnd Fw.state
    else c.fwcStart 6 (c.rd F.FWC_STATUS_UPDATE))

/-- The record that FWC_SET_BUF gives, with a fresh check word. -/
def Chip.newRecord (c : Chip) : List Byte :=
  let body := (bytesOf ((List.range 64).map (fun k => c.rd F.FWC_SET_BUF_WORD 0 0 k))).take 252
  body ++ toLE 4 (crc32 body)

/-- SET_WRITE_COMPLETE; `bad` is a flash error. -/
def Chip.setWriteDone (c : Chip) (bad : Bool) : Chip :=
  if c.fwcBusy ≠ 6 then c
  else if bad then (c.event Flt.flash).fwcEnd Fw.flashErr
  else (c.flashWrite recordAt c.newRecord).fwcEnd Fw.ok

/-- PROGRAM_PAGE. -/
def Chip.programPage (c : Chip) : Chip :=
  c.fwc 7 (fun c =>
    let data := bytesOf ((List.range 1024).map (fun k => c.rd F.FWC_PAGE_DATA 0 0 k))
    let c := c.flashWrite (c.otherBank * bankBytes + c.rd F.FWC_FLASH_ADDR_PAGE * 4096) data
    { (c.wr F.FWC_STATUS_UPDATE 0).fwcEnd Fw.ok with verified := false })

/-- RAISE_SVN: from the manager only. -/
def Chip.raiseSvn (c : Chip) (src : Nat) : Chip :=
  c.fwc 8 (fun c => if src = 0x3FF then (c.wr F.FWC_BOOT_SVN_MIN (c.imgSvn c.runBank)).fwcEnd Fw.ok else c.fwcEnd Fw.privilege)

/-! ### The keep-alive domain (R427–R430) -/

/-- The clock of the domain, in seconds. -/
def Chip.rtc (c : Chip) : Nat := (c.rd F.MGT_RTC_SECONDS + (c.beat - c.rtcAt) / 900000000) % 2 ^ 48
def Chip.setRtc (c : Chip) (v : Nat) : Chip := { c.wr F.MGT_RTC_SECONDS v with rtcAt := c.beat }

/-- The snapshot as main power falls, and the alarm record cleared. -/
def Chip.snapshot (c : Chip) : Chip :=
  let c := (List.range 32).foldl (fun c g => c.wr F.FLT_SNAP_STATUS (c.groupWord g (·.status)) 0 0 g) c
  let c := ((c.wr F.FLT_SNAP_TIME_SECONDS c.rtc).wr F.FLT_SNAP_INFO_VALID 1).wr F.FLT_SNAP_INFO_KA_LOST 0
  ((((c.wr F.MGT_KA_ALARM_LATCHED 0).wr F.MGT_KA_ALARM_ACKED 0).wr F.MGT_KA_ALARM_CAUSE 0).wr F.MGT_KA_ALARM_COUNT 0).wr F.MGT_KA_TIME_SECONDS 0

/-- KA_SENSE_SAMPLE: with neither input powered, an input asserted at two samples in a row latches an alarm. -/
def Chip.kaSample (c : Chip) (leak lid : Bool) : Chip :=
  if c.mst ≠ .off ∨ c.inputs.auxGood then c
  else
    let next (v : Bool) (k : Nat) : Nat := if v then min 3 (k + 1) else 0
    let s := (next leak c.inputs.kaSeen.1, next lid c.inputs.kaSeen.2)
    let c : Chip := { c with inputs := { c.inputs with kaSeen := s, leak := leak, lid := lid } }
    let cause := b2n (s.1 == 2) + 2 * b2n (s.2 == 2)
    if cause = 0 then c
    else if c.on F.MGT_KA_ALARM_LATCHED then c.wr F.MGT_KA_ALARM_COUNT (min 255 (c.rd F.MGT_KA_ALARM_COUNT + 1))
    else ((c.wr F.MGT_KA_ALARM_LATCHED 1).wr F.MGT_KA_ALARM_CAUSE cause).wr F.MGT_KA_TIME_SECONDS c.rtc

/-- KA_CAPACITOR_LOST: the domain's contents are lost; the snapshot's words hold no defined value. -/
def Chip.kaLost (c : Chip) : Chip :=
  let c := (List.range 32).foldl (fun c g => let (v, c) := c.free; c.wr F.FLT_SNAP_STATUS v 0 0 g) c
  let (t, c) := c.free
  let c := ((c.wr F.FLT_SNAP_TIME_SECONDS t).wr F.FLT_SNAP_INFO_VALID 0).wr F.FLT_SNAP_INFO_KA_LOST 1
  let c := ((((c.wr F.MGT_KA_ALARM_LATCHED 0).wr F.MGT_KA_ALARM_ACKED 0).wr F.MGT_KA_ALARM_CAUSE 0).wr F.MGT_KA_ALARM_COUNT 0).wr F.MGT_KA_TIME_SECONDS 0
  { c.setRtc 0 with inputs := { c.inputs with kaSeen := (0, 0) } }

/-! ### Power and module reset (R404, R414, R436) -/

/-- A field whose value a module reset and a loss of main power keep: identity, fuses and flash (bank versions, boot control, power coefficients, FORCE_FULL), the
keep-alive domain, and RST_CAUSE. -/
def regLasts (k : Nat) : Bool :=
  let page := k / 2 ^ 56
  let off := k / 2 ^ 8 % 2 ^ 16
  (page == 0 && [0x80, 0x88].contains off) || (page == 2 && off == 0x84) || (page == 4 && [0xa0, 0xa4, 0xa8].contains off) ||
  (page == 9 && off == 0xb4) || (page == 5 && [0xb0, 0xb8, 0xc0].contains off) ||
  (0x10 ≤ page && page ≤ 0x1b && off == 0x84) || (0x20 ≤ page && page ≤ 0x27 && off == 0x90) ||
  (page == 3 && ([0xe0, 0xe8].contains off || (decide (0x600 ≤ off) && decide (off < 0x680))))

/-- Everything is reset but what lasts; memory contents are not kept, and a new link EPOCH is drawn (R219, R404). -/
def Chip.blank (c : Chip) (st : ModState) : Chip :=
  let c := c.setRtc c.rtc
  let t := c.freeCtr
  let d : Chip := {
    variant := c.variant, mst := st, regs := c.regs.filter (fun e => regLasts e.1), host := c.host, trainCache := c.trainCache, flash := c.flash
    inputs := { c.inputs with low := [] }, out := c.out, freeCtr := t + 2, epochTag := t + 1
    crib := Mem.undefine {} t 0 cribBytes, grn := Mem.undefine {} t 0 c.grnBytes, loft := Mem.undefine {} t 0 (384 * sliceBytes) }
  d.showSenses

/-- MODULE_RESET: the safe-state outputs, then the reset; RST_CAUSE tells who asked. -/
def Chip.moduleReset (c : Chip) (src : Nat) : Chip :=
  if c.mst = .off then c
  else
    let c := (c.safeOutputs.flushSafe.cutFlash).blank .booting
    (c.wr F.RST_CAUSE_COUNT (min 65535 (c.rd F.RST_CAUSE_COUNT + 1))).wr F.RST_CAUSE_CAUSE (if src = 0x3FF then 1 else if src = 0x3FC then 3 else 2)

/-- A power-up: phase 0 begins. -/
def Chip.powerUp (c : Chip) : Chip := (c.blank .booting).wr F.RST_CAUSE_CAUSE 0

/-- AUX_POWER_GOOD: auxiliary power has been in range for 10 ms, and phase 0 begins; the count of module resets starts anew (R403). -/
def Chip.auxGood (c : Chip) : Chip :=
  if c.inputs.auxGood then c else ({ c with inputs := { c.inputs with auxGood := true, kaSeen := (0, 0) } } : Chip).powerUp.wr F.RST_CAUSE_COUNT 0

/-- MAIN_POWER_LOSS: main power falls, alone or with auxiliary power (`aux`); the rails go off, the keep-alive domain takes its snapshot where
MAIN was present, and what the flash was being written is left without a good check. -/
def Chip.mainLoss (c : Chip) (main aux : Bool) : Chip :=
  if !main && !aux then c
  else
    let had := c.inputs.mainGood
    let c : Chip := { c with inputs := { c.inputs with mainGood := c.inputs.mainGood && !main, auxGood := c.inputs.auxGood && !aux } }
    if c.mst = .off then c else ((if had then c.snapshot else c).cutFlash).blank .off

/-- MAIN_POWER_RETURN: with auxiliary power good, phase 0 begins. -/
def Chip.mainReturn (c : Chip) : Chip :=
  let was := c.inputs.mainGood
  let c : Chip := { c with inputs := { c.inputs with mainGood := true } }
  if !was && c.mst == .off && c.inputs.auxGood then c.powerUp else c

/-! ### The governor (R399, R400) -/

/-- FWC_GOV.SKIPPING follows the causes; its beginning is an event of POWER_SKIP. -/
def Chip.skipNow (c : Chip) : Chip :=
  let v := c.skipPower || c.skipTemp
  let c := if v && !c.on F.FWC_GOV_SKIPPING then c.event Flt.powerSkip else c
  c.wr F.FWC_GOV_SKIPPING (b2n v)

/-- GOVERNOR_POWER_LIMIT. -/
def Chip.govPower (c : Chip) : Chip := if c.railsUp then { c.wr F.FWC_GOV_POWER 1 with skipPower := true }.skipNow else c

/-- GOVERNOR_SKIP_END: the mean has fallen to 98% of the limit; `n` thresher cycles were skipped. -/
def Chip.govEnd (c : Chip) (n : Nat) : Chip :=
  if c.skipPower then { c.count F.FWC_GOV_SKIP_CYCLES n with skipPower := false }.skipNow else c

/-- OVERCURRENT. -/
def Chip.overcurrent (c : Chip) : Chip := if c.railsUp then (c.wr F.FWC_GOV_CURRENT 1).onset Flt.current else c

/-- JUNCTION_TEMP_LIMIT: 95 °C, or 105 °C (`max_`). -/
def Chip.junction (c : Chip) (max_ : Bool) : Chip :=
  if !c.railsUp then c
  else
    let c := c.wr F.FWC_GOV_THERMAL 1
    if max_ then c.onset Flt.tjMax else { c.onset Flt.tjHigh with skipTemp := true }.skipNow

/-- CRIB_TEMP_LIMIT. -/
def Chip.cribHot (c : Chip) : Chip := if c.railsUp then (c.wr F.FWC_GOV_THERMAL 1).onset Flt.cribTemp else c

/-- RAIL_OUT_OF_LIMIT. -/
def Chip.railBad (c : Chip) : Chip := if c.railsUp then (c.wr F.FWC_GOV_RAIL 1).onset Flt.rail else c

/-- FAULT_CAUSE_GONE (R408): a persisting cause ends. -/
def Chip.faultGone (c : Chip) (s : Nat) : Chip :=
  let c := if s = Flt.leak then { c with inputs := { c.inputs with leak := false, low := [] } }.showSenses
    else if s = Flt.lid then { c with inputs := { c.inputs with lid := false } }.showSenses
    else if s = Flt.tjHigh then { c with skipTemp := false }.skipNow else c
  (if srcNamed s then c.causeGone s else c).leavePhase9

end Sys2Proof.Machine
end

