-- ==== Sys2Proof/Machine/Twin.lean ====
section
/-!
DEFINITION. Machine/Twin.lean: twins: heartbeats, loss, substitutions and the switch bell, mirror writes, lift and attach
(R122, R256, R418–R426, R432).
-/
namespace Sys2Proof.Machine

/-! ### State (R54, R418, R420, R431) -/

/-- The code of MODULE_STATE (R54). -/
def ModState.code : ModState → Nat
  | .off => 0 | .keepalive => 1 | .booting => 2 | .refused => 3 | .ready => 4 | .running => 5 | .safe => 6

namespace Tw
def none_ : Nat := 0
def paired : Nat := 1
def lifting : Nat := 2
def receiving : Nat := 3
def carrying : Nat := 4
def lifted : Nat := 5
def attaching : Nat := 6
def resync : Nat := 7
def bereft : Nat := 8
end Tw

def Chip.tw (c : Chip) : Nat := c.rd F.FLT_TWIN_STATUS_STATE
def Chip.setTw (c : Chip) (s : Nat) : Chip := c.wr F.FLT_TWIN_STATUS_STATE s
def Chip.twResult (c : Chip) (r : Nat) : Chip := c.wr F.FLT_TWIN_STATUS_RESULT r
def Chip.onTwin (c : Chip) (f : Twin → Twin) : Chip := { c with twin := f c.twin }

/-- FLT_TWIN_STATUS.MIRROR_SYNC (R420). -/
def Chip.mirrorSync (c : Chip) : Bool := c.mirrorOn && !c.twin.copying

/-- FLT_TWIN_STATUS.TWIN_READY (R431). -/
def Chip.twinReady (c : Chip) : Bool := c.tw == Tw.paired && (!c.on F.FLT_TWIN_CTRL_MIRROR || c.mirrorSync)

/-- FLT_TWIN_COPY.MIB (R431): what the copy in progress has still on the twin links, in MiB rounded up. -/
def Chip.copyLeft (c : Chip) : Nat :=
  let bytes (f : LFrame) : Nat := if f.vc = 2 then f.payload.length - 16 else 0
  let left (k : Nat) : Nat := (((c.link k).txq.map (fun e => bytes e.1)).sum) + (((c.link k).replay.map (fun (e : RFrame) => bytes e.frame)).sum)
  if c.twin.copying then ceilDiv (left 30 + left 31) (2 ^ 20) else 0

/-- The ALMANAC_ID of a context, 0 when EMPTY. -/
def Chip.almanacId (c : Chip) (n : Nat) : Nat :=
  match (c.ctx n).head with | some h => if (c.ctx n).st = .empty then 0 else h.id | none => 0

/-- The heartbeat of this bell (R418). -/
def Chip.heartbeat (c : Chip) : Heartbeat :=
  { modId := c.modId, state := c.mst.code, twinState := c.tw, fallow := (c.ctx 1).st == .admitted
    mirror := c.on F.FLT_TWIN_CTRL_MIRROR, mirrorSync := c.mirrorSync, bell := c.bell
    alm0 := c.almanacId 0, alm1 := c.almanacId 1, twin := c.twinId }

/-- HEARTBEAT on each twin link in service, while TWIN_VALID is 1. -/
def Chip.sendHeartbeat (c : Chip) : Chip :=
  if c.twinValid then c.sendCtls ([30, 31].filter c.inService) (.heartbeat c.heartbeat) else c

/-! ### Announcements (R421) -/

/-- The payload of a VC5 frame with TYPE 0x10 (log entry 90): KIND, LOST, CARRIER, switch bell, BELL_WAIT index and ALM_STEP. -/
def Subst.bytes (s : Subst) : List Byte := toLE 1 s.kind ++ toLE 1 s.lost ++ toLE 1 s.carrier ++ toLE 8 s.bell ++ toLE 4 s.idx ++ toLE 8 s.step
def Subst.parse (b : List Byte) : Subst := ⟨leAt b 0 1, leAt b 1 1, leAt b 2 1, leAt b 3 8, leAt b 11 4, leAt b 15 8⟩

/-- An announcement goes to the peer of every link in service but one. -/
def Chip.floodSubst (c : Chip) (s : Subst) (via : Option Nat) : Chip :=
  (c.linksUp.filter (fun k => some k ≠ via)).foldl (fun c k =>
    c.sendFrame k ⟨5, 0x10, c.rd F.AGL_PEER_MODULE k, c.modId, false, 0, 0, s.bytes⟩) c

/-- The carrier announces a substitution; its own switch bell is the one it names. -/
def Chip.announce (c : Chip) (s : Subst) : Chip :=
  (c.onTwin (fun t => { t with subst := some s, seen := s :: t.seen })).floodSubst s none

/-- The substitution for a lost twin: the first bell boundary at least 4,096 beats ahead. -/
def Chip.announceLoss (c : Chip) : Chip := c.announce ⟨0, c.twinId, c.modId, c.bellAhead 4096, 0, 0⟩

/-! ### Loss (R419, R423, R426) -/

/-- A lift or attach ends with a result (R426). -/
def Chip.endProcedure (c : Chip) (r : Nat) : Chip :=
  { (c.onTwin (fun t => { t with copying := false, copied := false, subst := none })).twResult r with mirrorAll := false }

/-- A lift, attach or resync is in progress. -/
def Chip.inProcedure (c : Chip) : Bool := [Tw.lifting, Tw.receiving, Tw.attaching, Tw.resync].contains c.tw

/-- The module is BEREFT; a fallow almanac ADMITTED by now must be admitted again before it can carry (R423, R426; log entry 235). -/
def Chip.toBereft (c : Chip) : Chip := (c.setTw Tw.bereft).onTwin (fun t => { t with stale := (c.ctx 1).st == .admitted })

/-- The twin is declared lost (R419): TWIN_LOST; a procedure in progress ends as LOST. With the fallow almanac ADMITTED the survivor announces LOSS,
otherwise it is BEREFT. A survivor of a lift or attach whose copy was not complete is BEREFT. -/
def Chip.declareLost (c : Chip) : Chip :=
  let c := c.event Flt.twinLost
  let carries := !c.inProcedure || c.twin.copied || c.tw == Tw.resync
  let c := if c.inProcedure then c.endProcedure 7 else c
  let c : Chip := { c with lossCarried := true }
  let c := c.setTw Tw.paired
  if carries ∧ (c.ctx 1).st = .admitted then c.announceLoss
  else c.toBereft.onTwin (fun t => { t with bereftDue := true })

/-- A failed bell, or one that is not (R419): the third in a row declares the loss. -/
def Chip.judgeBell (c : Chip) (failed : Bool) : Chip :=
  let n := if failed then min 3 (c.rd F.FLT_TWIN_STATUS_FAILED + 1) else 0
  let c := c.wr F.FLT_TWIN_STATUS_FAILED n
  if failed ∧ n = 3 ∧ c.twin.subst = none then c.declareLost else c

/-- The twin is expected to be heard: a pair that is neither broken nor lifted. -/
def Chip.expectsTwin (c : Chip) : Bool := c.twinValid && (c.tw == Tw.paired || c.inProcedure)

/-- A BEREFT module announces once its context 1 is ADMITTED anew, and a carrier announces ATTACH once its fallow almanac waits for a bell far enough
ahead, or gives up at END (R423, R425). -/
def Chip.twinPoll (c : Chip) : Chip :=
  let c := if c.twin.stale && (c.ctx 1).st != .admitted then c.onTwin (fun t => { t with stale := false }) else c
  if c.tw = Tw.bereft ∧ !c.twin.stale ∧ c.twin.subst = none ∧ (c.ctx 1).st = .admitted ∧ c.mst ≠ .safe ∧ !c.on F.CMB_SUBST_ACTIVE then c.announceLoss
  else if c.tw = Tw.attaching ∧ c.twin.copied ∧ c.twin.subst = none ∧ c.on F.CMB_SUBST_ACTIVE ∧ c.rd F.CMB_SUBST_CARRIER = c.modId then
    let x := c.ctx 1
    if x.st = .done then (c.endProcedure 5).setTw Tw.carrying
    else match x.bellWait with
      | some b => if c.beat + 4096 ≤ b * bellBeats then
          c.announce ⟨2, c.rd F.CMB_SUBST_LOST, c.modId, b, c.waitIdx 1, c.rd F.ALM_STEP_STEP 0 1⟩ else c
      | none => c
  else c

/-- The safe state of a survivor before its switch bell ends a procedure as LOST does (R426). -/
def Chip.twinSafe (c : Chip) : Chip :=
  let own : Bool := match c.twin.subst with | some s => s.carrier == c.modId | none => false
  if c.inProcedure ∨ own then
    let copied := c.twin.copied || c.tw == Tw.resync
    let c := c.endProcedure 7
    if copied then c.setTw Tw.paired else c.toBereft
  else c

/-! ### Heartbeats (R418–R420, R422, R425) -/

/-- What a heartbeat's TWIN_STATE makes of this module's own: the twin begins a lift or an attach, cancels, or ends one. -/
def Chip.followTwin (c : Chip) (prev : Option Heartbeat) (h : Heartbeat) : Chip :=
  let was : Nat := match prev with | some p => p.twinState | none => Tw.none_
  let mine := c.tw
  if mine = Tw.none_ ∧ (h.twinState = Tw.none_ ∨ h.twinState = Tw.paired) then c.setTw Tw.paired
  else if mine = Tw.paired ∧ h.twinState = Tw.lifting then
    (c.setTw Tw.receiving).onTwin (fun t => { t with copying := true, copied := false })
  else if mine = Tw.carrying ∧ h.twinState = Tw.attaching then
    let c := (c.setTw Tw.attaching).onTwin (fun t => { t with copying := true, copied := false })
    (c.steadRanges (fun _ => true)).foldl (fun c r => c.mirrorSend r.1 ((c.vaRead steadSpace (r.1 + c.mirrorOfs) r.2).1.map (·.1))) c
  else if c.twin.subst.isSome then c
  else if c.inProcedure ∧ h.twinState = Tw.paired ∧ [Tw.lifting, Tw.receiving, Tw.attaching].contains was then (c.endProcedure 6).setTw Tw.paired
  else if mine = Tw.resync ∧ h.twinState = Tw.paired ∧ was = Tw.resync then (c.onTwin (fun t => { t with copying := false })).setTw Tw.paired
  else if mine = Tw.attaching ∧ h.twinState = Tw.carrying ∧ was = Tw.attaching then (c.endProcedure 5).setTw Tw.none_
  else c

/-- The last beat at which this bell's heartbeat is not missing on a twin link: its expected arrival and 64 beats (R419). -/
def Chip.heartbeatBy (c : Chip) (k : Nat) : Nat :=
  c.bell * bellBeats + (if c.delayOk k then c.rd F.CLK_LINK_DELAY_DELAY 0 k / 64 else 300) + 64

/-- HEARTBEAT (R419): it is recorded; the first of a bell that arrives in time decides whether the bell failed. Mirror modes that differ hold
TWIN_LINK asserted. -/
def Chip.recvHeartbeat (c : Chip) (k : Nat) (h : Heartbeat) : Chip :=
  if !c.twinValid ∨ ¬ (k = 30 ∨ k = 31) ∨ !c.inService k ∨ c.posLimited k then c
  else
    let prev := c.twinHb
    let first := !c.twin.heard.any (fun e => e.2 == c.bell)
    let inTime := c.twin.checked != some c.bell && decide (c.beat ≤ c.heartbeatBy k)
    let c : Chip := { c with twinHb := some h }
    let c := c.onTwin (fun t => if inTime then { t with heard := (k, c.bell) :: t.heard.filter (fun e => e.2 == c.bell) } else t)
    let c := c.wr F.FLT_TWIN_STATUS_FALLOW_PEER (b2n h.fallow)
    let c := if h.mirror != c.on F.FLT_TWIN_CTRL_MIRROR then c.onset Flt.twinLink else c.causeGone Flt.twinLink
    let bad := h.state == 6 || h.twin != c.modId
    if !first ∨ !inTime then c
    else if bad then if c.expectsTwin then c.judgeBell true else c
    else (if c.expectsTwin then c.judgeBell false else c).followTwin prev h

/-- HEARTBEAT_MISSING (R419): 64 beats after the last expected arrival of this bell, the twin links on which none arrived are counted. On one link, or
while the row link still carries the twin's mark, that is TWIN_LINK; otherwise the bell failed. -/
def Chip.heartbeatMissing (c : Chip) : Chip :=
  let got := [30, 31].filter (fun k => c.twin.heard.contains (k, c.bell))
  if !c.expectsTwin ∨ c.twin.checked = some c.bell ∨ got.length = 2 then c
  else
    let c := (c.advanceTo (max (c.heartbeatBy 30) (c.heartbeatBy 31))).onTwin (fun t => { t with checked := some c.bell })
    let c := c.count F.FLT_HB_MISSED_COUNT (2 - got.length)
    let row := rowLink (seatOf c.modId) (seatOf c.twinId)
    let rowGood := c.inService row && decide (Table.getD c.clk.markBell row 0 = c.bell) && (Table.find? row c.clk.markBell).isSome
    if got = [] ∧ !rowGood then c.judgeBell true
    else
      let c := c.event Flt.twinLink
      if got = [] then c.judgeBell false else c

/-! ### Announcements received (R421) -/

/-- A substitution is taken, unless a LOSS in force or pending that names its carrier has the lower carrier; a LOSS that names this module raises
TWIN_DECLARED. -/
def Chip.takeSubst (c : Chip) (s : Subst) : Chip :=
  let mutual_ (t : Subst) : Bool := s.kind == 0 && t.kind == 0 && t.lost == s.carrier && t.carrier == s.lost
  let inForce : List Subst := if c.on F.CMB_SUBST_ACTIVE then [⟨0, c.rd F.CMB_SUBST_LOST, c.rd F.CMB_SUBST_CARRIER, 0, 0, 0⟩] else []
  let rivals := (match c.twin.subst with | some t => [t] | none => []) ++ inForce
  if rivals.any (fun t => mutual_ t && decide (t.carrier < s.carrier)) then c
  else
    let late := decide (s.bell * bellBeats ≤ c.beat)
    let c := if late then c.event Flt.substLate else c
    let c := c.onTwin (fun t => { t with subst := some (if late then { s with bell := c.bell + 1 } else s) })
    let c := if s.kind = 0 then c.holdSlots s.lost else c
    if s.kind = 0 ∧ s.lost = c.modId then c.event Flt.twinDeclared else c

/-- SUBSTITUTION_ANNOUNCE: the oldest such frame on a link is taken; its first copy is forwarded once and kept. -/
def Chip.substAnnounce (c : Chip) (k : Nat) : Chip :=
  match (c.link k).rx.find? (fun r => !r.placed && !r.forward && r.frame.vc == 5 && r.frame.typ == 0x10) with
  | none => c
  | some r =>
    let s := Subst.parse r.frame.payload
    let c := c.clientTakes k (fun f => f.vc == 5 && f.typ == 0x10)
    if c.twin.seen.contains s then c
    else
      let c := c.onTwin (fun t => { t with seen := s :: t.seen })
      (c.floodSubst s (some k)).takeSubst s

/-! ### The switch bell (R75, R107, R122, R256, R422, R423, R425) -/

/-- An almanac takes the place of another: progress, ALM_STEP, entries in flight, combines and causes of HOLD go over. -/
def Chip.moveAlmanac (c : Chip) (a b : Nat) : Chip :=
  let x := c.ctx a
  let c := c.onCtx b (fun y => { y with
    st := x.st, next := x.next, frames := x.frames, bellWait := x.bellWait, startBell := none, stopReq := none, failHold := x.failHold
    started := true, lastIssued := x.lastIssued, inFlight := x.inFlight, cached := [] })
  let c := (c.wr F.ALM_STEP_STEP (c.rd F.ALM_STEP_STEP 0 a) 0 b).wr F.ALM_HELD_BELLS 0 0 b
  let c : Chip := { c with cmb := c.cmb.map (fun e => if e.2.ctx = a then (e.1, { e.2 with ctx := b }) else e) }
  let own (p : HoldPart) : HoldPart := { p with own := p.own.map (fun o => match o with
    | .late m i => if m = a then .late b i else o
    | .reeval m => if m = a then .reeval b else o
    | _ => o) }
  let c := c.onHold (fun h => { h with now := own h.now, later := h.later.map (fun x => (x.1, own x.2)) })
  (c.onCtx a (fun y => { y with inFlight := [] })).almDone a 0

/-- The carrier's copy of the partner's chaff starts at +0, unless it was mirrored (R122). -/
def Chip.partnerChaff (c : Chip) : Chip :=
  c.chaffNamed.foldl (fun c x =>
    let d := c.descAt 0 x.1
    if d.mirrored && c.mirrorOn then c
    else c.zeroTensor { d with base := d.base + c.mirrorOfs }) c

/-- The carrier re-issues an entry that the lost module had issued and not completed, for its position only (R423): operands at VA + MIRROR_OFS;
it is late until its transfer completes. A combine still in progress here takes the position in; one that has ended runs for it alone. -/
def Chip.reissueLost (c : Chip) (idx : Nat) : Chip :=
  let e := c.entry 0 idx
  let here : Bool := match c.comb 0 with | some b => e.isCombine && b.idx == idx | none => false
  if here then c.countNans 0 (c.rd F.CMB_SUBST_LOST)
  else
    let shift (w : List Nat) : List Nat :=
      if w = [] then [] else
      let b := bytesOf w
      let move (o : Nat) : List Byte := toLE 8 (leAt b o 8 + c.mirrorOfs)
      wordsOf 16 (move 0 ++ (b.drop 8).take 40 ++ (if (Desc.parse b).scaleMode = 0 then (b.drop 48).take 8 else move 48) ++ b.drop 56)
    let ds := c.entryDescs 0 e
    let i : Issued := {
      idx := idx, words := c.entryWords 0 idx, upd := c.entryWords 0 (idx + 1), descs := if e.isCombine then ds else ds.map shift
      step := c.rd F.ALM_STEP_STEP 0 1, issue := c.beat, slotEnd := c.beat, occEnd := c.beat, late := true, lone := e.isCombine }
    let c := c.toUnit 1 i
    if c.hold.bell.isSome then
      if c.hold.now.isOrigin ∧ c.hold.resume = none then
        c.onHold (fun h => { h with now := { h.now with own := h.now.own ++ [.late 1 idx], readySent := false } })
      else c.originate 0 (.late 1 idx)
    else c

/-- The running test of every context at the switch bell (R256): a HELD almanac that passes reports so. -/
def Chip.switchTest (c : Chip) (n : Nat) : Chip :=
  if (c.ctx n).st = .held ∧ (c.ctx n).adm = none then c.beginAdmission n .rerun else c.readmitCtx n

/-- The carrier's contexts at the switch bell of a LOSS or LIFT. -/
def Chip.switchCarrier (c : Chip) (s : Subst) (reissue : List Nat) : Chip :=
  let c := if s.kind = 0 then c.partnerChaff else c
  let run := (c.ctx 0).st == .running || (c.ctx 0).st == .held
  let c := if run ∧ (c.ctx 1).st = .admitted then
      let c := c.moveAlmanac 0 1
      if s.kind = 0 then reissue.foldl Chip.reissueLost c else c
    else c
  let c := (c.setTw Tw.carrying).onTwin (fun t => { t with copying := false, copied := false })
  (c.passCauses (· == .lost)).reportReady

/-- Context 0 resumes from the entry after the join BELL_WAIT (R425). -/
def Chip.joinAlmanac (c : Chip) (s : Subst) : Chip :=
  if (c.ctx 0).st ≠ .admitted then c
  else
    let c := c.onCtx 0 (fun x =>
      { x with
        frames := [{ origin := s.bell * bellBeats, loopIdx := s.idx }], st := if c.hold.held then .held else .running, bellWait := none, startBell := none, inFlight := [], cached := [], started := true
        lastIssued := s.idx, failHold := false, stopReq := none })
    (c.wr F.ALM_STEP_STEP s.step 0 0).wr F.ALM_HELD_BELLS 0 0 0

/-- SWITCH_BELL (R421): the substitution enters CMB_SUBST, or leaves it for ATTACH, and the contexts of the pair switch. `reissue` names the entries
that the lost module had issued and not completed at its last heartbeat. -/
def Chip.switchBell (c : Chip) (reissue : List Nat) : Chip :=
  match c.twin.subst with
  | none => c
  | some s =>
    let c := (c.advanceTo (s.bell * bellBeats)).onTwin (fun t => { t with subst := none })
    let c := c.wr F.FLT_TWIN_BELL_BELL s.bell
    let c := if s.kind = 2 then ((c.wr F.CMB_SUBST_ACTIVE 0).wr F.CMB_SUBST_CARRIER 0).wr F.CMB_SUBST_LOST 0
      else (((c.wr F.CMB_SUBST_ACTIVE 1).wr F.CMB_SUBST_CARRIER s.carrier).wr F.CMB_SUBST_LOST s.lost).redirect s.lost
    let c := c.wr F.FLT_TWIN_STATUS_PARTNER
      (if s.kind = 2 then 0 else if s.carrier = c.modId then s.lost else if s.lost = c.modId then s.carrier else s.lost)
    let c :=
      if c.mst = .safe then c
      else if s.kind ≠ 2 ∧ s.carrier = c.modId then c.switchCarrier s reissue
      else if s.kind = 1 ∧ s.lost = c.modId then
        let c := if (c.ctx 0).st = .running ∨ (c.ctx 0).st = .held then c.almDone 0 Why.stopped else c
        { c with mute := true, mirrorAll := false }
      else if s.kind = 2 ∧ s.carrier = c.modId then
        let c := c.joinAlmanac s
        let c := if (c.ctx 1).st = .running ∨ (c.ctx 1).st = .held then c.almDone 1 0 else c
        let c := (c.setTw Tw.resync).onTwin (fun t => { t with copying := true, copied := false })
        (c.steadRanges (·.mirrored)).foldl (fun c r => c.mirrorSend r.1 ((c.vaRead steadSpace r.1 r.2).1.map (·.1))) c
      else if s.kind = 2 ∧ s.lost = c.modId then
        ((c.joinAlmanac s).setTw Tw.resync).onTwin (fun t => { t with copying := true, copied := false })
      else c
    if c.mst = .safe then c else [0, 1].foldl Chip.switchTest c

/-! ### Mirror writes (R420, R425) -/

/-- MIRROR_WRITE_RECEIVE: the oldest mirror frame on a link is written at VA + MIRROR_OFS in space 512; while this module attaches, at VA. -/
def Chip.mirrorWriteReceive (c : Chip) (k : Nat) : Chip :=
  match (c.link k).rx.find? (fun r => !r.placed && !r.forward && r.frame.vc == 2 && r.frame.typ == 1) with
  | none => c
  | some r =>
    if !c.twinValid ∨ ¬ (k = 30 ∨ k = 31) then c.clientTakes k (fun f => f.vc == 2 && f.typ == 1)
    else
      let va := leAt r.frame.payload 0 16 % 2 ^ 57
      let dst := va + (if c.tw = Tw.attaching then 0 else c.mirrorOfs)
      let data := r.frame.payload.drop 16
      let c := if c.rangeOk steadSpace dst data.length .write then c else c.event Flt.xltStead
      (c.vaWrite steadSpace dst (clean data)).clientTakes k (fun f => f.vc == 2 && f.typ == 1)

/-! ### Commands (R420, R422, R423, R425, R426, R432) -/

/-- The fields of FLT_TWIN_CTRL and FLT_TWIN_OFS are held while context 0 or 1 is ADMITTED, RUNNING or HELD (R420). -/
def Chip.mirrorHeld (c : Chip) : Bool := !c.steadIdle

/-- TWIN_CTRL_WRITE. -/
def Chip.twinCtrlWrite (c : Chip) (v : Nat) : Chip :=
  let c := if bit v 2 then c.wr F.FLT_TWIN_CTRL_MIRROR_ERR 0 else c
  let c := c.wr F.FLT_TWIN_CTRL_RECOVER_HOLD (b2n (bit v 1))
  if bit v 0 == c.on F.FLT_TWIN_CTRL_MIRROR then c
  else if c.mirrorHeld then c.wr F.FLT_TWIN_CTRL_MIRROR_ERR 1
  else
    let c := c.wr F.FLT_TWIN_CTRL_MIRROR (b2n (bit v 0))
    match c.twinHb with
    | some h => if h.mirror != c.on F.FLT_TWIN_CTRL_MIRROR then c.onset Flt.twinLink else c.causeGone Flt.twinLink
    | none => c

/-- A write of FLT_TWIN_OFS, in 64 KiB: ignored with MIRROR_ERR where it would change the offset held. -/
def Chip.twinOfsWrite (c : Chip) (ofs : Nat) : Chip :=
  if c.mirrorHeld then if ofs % 2 ^ 41 = c.rd F.FLT_TWIN_OFS_OFS then c else c.wr F.FLT_TWIN_CTRL_MIRROR_ERR 1
  else c.wr F.FLT_TWIN_OFS_OFS ofs

/-- The manager: the host's own requester. -/
def isManager (src : Nat) : Bool := src == 0x3FF

/-- LIFT (R422): the first condition not met gives RESULT; else the handover begins with the copy of context 0's tensors. -/
def Chip.lift (c : Chip) (src : Nat) : Chip :=
  let serving := c.instances.any (fun i => c.insHome i == 1)
  if !isManager src ∨ c.tw ≠ Tw.paired ∨ c.twin.subst.isSome then c.twResult 1
  else if serving then c.twResult 4
  else match c.twinHb with
    | none => c.twResult 2
    | some h =>
      if !h.fallow then c.twResult 2
      else if h.alm0 ≠ c.almanacId 0 then c.twResult 3
      else
        let c := ((c.twResult 0).setTw Tw.lifting).onTwin (fun t => { t with copying := true, copied := false })
        let c : Chip := { c with mirrorAll := true }
        (c.steadRanges (fun _ => true)).foldl (fun c r => c.mirrorSend r.1 ((c.vaRead steadSpace r.1 r.2).1.map (·.1))) c

/-- ATTACH (R425): accepted only while the carrier's heartbeat shows it CARRYING for this module. -/
def Chip.attach (c : Chip) (src : Nat) : Chip :=
  let ok : Bool := match c.twinHb with | some h => h.twinState == Tw.carrying && h.twin == c.modId | none => false
  if isManager src && ok && !c.inProcedure then
    ((c.twResult 0).setTw Tw.attaching).onTwin (fun t => { t with copying := true, copied := false })
  else c.twResult 1

/-- CANCEL (R426): before a switch bell is announced. -/
def Chip.cancel (c : Chip) (src : Nat) : Chip :=
  if isManager src && [Tw.lifting, Tw.receiving, Tw.attaching].contains c.tw && c.twin.subst.isNone then (c.endProcedure 6).setTw Tw.paired
  else c.twResult 1

/-- RECOVERED (R423, R432): consent, once. -/
def Chip.recovered (c : Chip) : Chip :=
  if c.tw = Tw.carrying ∨ c.tw = Tw.bereft then ({ c.twResult 0 with consent := true } : Chip).reportReady
  else c.twResult 1

/-- TWIN_COPY_COMPLETE (R422, R425): a lift's carrier announces LIFT, an attach's carrier may announce ATTACH, a resync leaves the twins PAIRED. A
module that sends has every mirror frame acknowledged. -/
def Chip.twinCopyComplete (c : Chip) : Chip :=
  if c.tw = Tw.receiving then
    if c.twin.copied then c
    else (c.onTwin (fun t => { t with copied := true })).announce ⟨1, c.twinId, c.modId, c.bellAhead 4096, 0, 0⟩
  else if c.tw = Tw.lifting then if c.copyLeft = 0 then c.onTwin (fun t => { t with copying := false, copied := true }) else c
  else if c.tw = Tw.attaching then if c.copyLeft = 0 then (c.onTwin (fun t => { t with copying := false, copied := true })).twinPoll else c
  else if c.tw = Tw.resync then if c.copyLeft = 0 then (c.onTwin (fun t => { t with copying := false })).setTw Tw.paired else c
  else c

/-- LIFT_DRAIN_COMPLETE (R422): every frame sent is acknowledged. -/
def Chip.liftDrainComplete (c : Chip) : Chip :=
  let clear := (List.range 32).all (fun k => (c.link k).replay == [] && (c.link k).cur == [])
  if c.tw = Tw.lifting ∧ c.mute ∧ clear then c.setTw Tw.lifted else c

/-- What a bell boundary does for the pair: the heartbeat, and the HOLD of a BEREFT module whose context 0 runs (R418, R423). -/
def Chip.twinBell (c : Chip) : Chip :=
  let c := if c.twin.bereftDue then
      let c := c.onTwin (fun t => { t with bereftDue := false })
      if c.tw = Tw.bereft ∧ (c.ctx 0).st = .running then c.originate 1 .lost else c
    else c
  c.sendHeartbeat

end Sys2Proof.Machine
end

