-- ==== Sys2Proof/Machine/Glb.lean ====
section
/-!
DEFINITION. Machine/Glb.lean: module state commands, operating modes, service levels, bell boundaries (R5, R18–R22, R27, R54–R56, R438).
-/
namespace Sys2Proof.Machine

/-! ### State commands (R54) -/

def Chip.cmdResult (c : Chip) (r : Nat) : Chip := c.wr F.GLB_STATE_CMD_RESULT r

/-- GO_READY: from SAFE with no SAFE cause, the outputs are released and the module becomes READY, or REFUSED where HELLO says so. -/
def Chip.goReady (c : Chip) : Chip :=
  if c.mst = .off then c
  else if c.mst = .safe then (if c.safeCause then c.cmdResult 2 else (c.cmdResult 1).safeRelease.byHello)
  else c.cmdResult 3

/-- GO_SAFE: from READY or RUNNING, the safe state is entered as this step ends. -/
def Chip.goSafe (c : Chip) : Chip :=
  if c.mst = .off then c
  else if c.mst = .ready ∨ c.mst = .running then { c.cmdResult 1 with safeReq := true }
  else c.cmdResult 3

/-! ### Operating mode (R20–R22, R55, R56) -/

/-- MODE_REQUEST: a write of GLB_MODE. A request counts toward the next bell boundary when at least 64 beats remain before it. -/
def Chip.modeWrite (c : Chip) (v : Nat) : Chip :=
  let c := if bit v 9 then c.wr F.GLB_MODE_REFUSED 0 else c
  let c := if bit v 10 then c.wr F.GLB_MODE_FORCED 0 else c
  let req := field v 4 2
  let c := (c.wr F.GLB_MODE_REQUEST req).wr F.GLB_MODE_PENDING (b2n (req != c.modeNo))
  { c with modeBell := if c.beat + 64 ≤ (c.bell + 1) * bellBeats then c.bell + 1 else c.bell + 2 }

/-- A mode comes into force: the bell is recorded, links and local almanacs follow, and a HOLD for an excluded mode passes. -/
def Chip.takeMode (c : Chip) (m : Nat) : Chip :=
  if m = c.modeNo then c
  else
    let c : Chip := { c with mode := Mode.ofCode m }
    let c := ((c.wr F.GLB_MODE_AT_BELL c.bell).readmit).linkBell
    if (c.ctx 0).includes m then c.passCauses (· == .mode) else c

/-- A request is refused at its bell. -/
def Chip.refuseMode (c : Chip) (why : Nat) : Chip := (c.wr F.GLB_MODE_REFUSED 1).wr F.GLB_MODE_REFUSE_REASON why

/-- The bell boundary at which a request or a forced change is due. -/
def Chip.modeDue (c : Chip) : Option Nat :=
  match c.forceBell, c.on F.GLB_MODE_PENDING with
  | some f, true => some (min f c.modeBell)
  | some f, false => some f
  | none, true => some c.modeBell
  | none, false => none

/-- MODE_BELL_EVALUATION (R56). -/
def Chip.modeEval (c : Chip) : Chip :=
  match c.modeDue with
  | none => c
  | some b =>
    let c := c.advanceTo (b * bellBeats)
    let forced : Bool := match c.forceBell with | some f => decide (f ≤ c.bell) | none => false
    let due := c.on F.GLB_MODE_PENDING && decide (c.modeBell ≤ c.bell)
    let req := c.rd F.GLB_MODE_REQUEST
    let st := (c.ctx 0).st
    let runs := st == .running || st == .held
    let c :=
      if forced then
        let c : Chip := { c with forceBell := none }
        let c := (c.wr F.GLB_MODE_FORCED 1).takeMode 1
        let c := if due ∧ req ≠ 1 then c.refuseMode 3 else c
        if runs && !(c.ctx 0).includes 1 && !c.ownCauses.contains .mode then c.originate 2 .mode else c
      else if !due then c
      else if req = 0 ∧ 3000 < c.rd F.MGT_COOLANT_T_INLET then c.refuseMode 2
      else if (runs || st == .admitted) && !(c.ctx 0).includes req then c.refuseMode 1
      else c.takeMode req
    if due then c.wr F.GLB_MODE_PENDING 0 else c

/-! ### Service level (R27) -/

/-- The crib stacks that hold page tables and the almanac store: those of the roots of enabled spaces and of the tables of almanacs held. -/
def Chip.tableStacks (c : Chip) : List Nat :=
  (((List.range 513).filter (fun s => c.on F.XLT_SPACE_CTRL_ENABLE 0 s)).map (fun s => c.rd F.XLT_ROOT_BASE 0 s * 2 ^ 21 / 2 ^ 36)) ++
  c.ctxs.flatMap (fun x => match x.2.head with
    | some h => (runs (c.entryVa x.1 0) (32 * h.entryCount)).filterMap (fun r =>
        match c.look (ctxSpace x.1) r.1 .read with | .ok .crib a _ => some (a / 2 ^ 36) | _ => none)
    | none => [])

/-- The data level's stacks work: those of `tableStacks`, any one where nothing is held. -/
def Chip.tablesUp (c : Chip) : Bool := (List.range 12).any c.stackUp && c.tableStacks.all c.stackUp

/-- GLB_STATE.SERVICE_LEVEL: the highest level whose units all work; the host link and core 0 are needed for control alone. -/
def Chip.serviceLevel (c : Chip) : Nat :=
  let control := b2n (c.hostUp && c.rd F.FWC_CORE_STATE 0 0 == 0)
  if !c.dataState then control
  else if c.steadLevel && c.surveyCurrent then 4
  else if c.tablesUp && (c.linksUp != [] || (List.range 4).any c.portUp) then 3
  else control

/-! ### Bell boundary (R5) -/

/-- The sensors are read (R168, R400, R438, R449). -/
def Chip.readSensors (c : Chip) (r : Sensors) : Chip :=
  let c := ((c.wr F.MGT_COOLANT_T_INLET r.inlet).wr F.MGT_COOLANT_T_OUTLET r.outlet).wr F.MGT_COOLANT_F_FLOW r.flow
  let c := ((c.wr F.MGT_INPUT_VOLTAGE r.volts).wr F.MGT_INPUT_CURRENT r.amps).wr F.FWC_POWER_WATTS r.watts
  let c := c.wr F.FWC_GOV_TJ_MAX r.junction
  let c := (List.range 12).foldl (fun c n => c.wr F.CRB_STATUS_TEMP (r.crib.getD n 0) n) c
  ((List.range c.channels).foldl (fun c n => c.wr F.GRN_CH_STATUS_TEMP (r.grn.getD n 0) (n / 4) 0 (n % 4)) c).showSenses

/-- The coolant rule (R22): in FULL, an inlet above 32 °C at this boundary and the one before raises the source, and the change to BALANCED
comes at the next boundary. -/
def Chip.coolant (c : Chip) (n : Nat) : Chip :=
  if c.rd F.MGT_COOLANT_T_INLET ≤ 3200 then { c.causeGone Flt.coolantInlet with hotBell := none }
  else if c.mode ≠ .full then { c with hotBell := none }
  else match c.hotBell with
    | some b => if b < n then { c.onset Flt.coolantInlet with forceBell := some (c.forceBell.getD (n + 1)) } else c
    | none => { c with hotBell := some n }

/-- The next bell boundary that has not been taken. -/
def Chip.nextBell (c : Chip) : Nat := if c.bellDone < c.bell then c.bell else c.bell + 1

/-- BELL_BOUNDARY: the next bell boundary comes, with what the sensors give there. -/
def Chip.bellBoundary (c : Chip) (r : Sensors) : Chip :=
  let n := c.nextBell
  let m := c.bellDone
  let c : Chip := { c.advanceTo (n * bellBeats) with bellDone := n }
  if c.mst = .off ∨ c.mst = .keepalive then c
  else
    let c := (c.readSensors r).coolant n
    let c : Chip := { c with srcs := c.srcs.map (fun e => (e.1, e.2.atBell m n)) }
    (c.clockBell.linkBell).twinBell

end Sys2Proof.Machine
end

