-- ==== Sys2Proof/Machine/Pins.lean ====
section
/-!
DEFINITION. Machine/Pins.lean: the general pins of the sideband: functions, holds, drive, PPS in, LEAK_IN (R319, R440–R443, R449).
-/
namespace Sys2Proof.Machine

/-- A pin's function is given by its register only once the settings record has been read; before, GP0 carries FAULT_OUT and the others are
inputs (R440). -/
def Chip.pinsSet (c : Chip) : Bool := !(c.mst == .booting && (c.phase ≤ 2 || c.phase == 8))

/-- A pin is in its hold (R443). -/
def Chip.pinHeld (c : Chip) (p : Nat) : Bool := c.holds.any (fun h => h.pin == p)

/-- A pin acts with a function: its register gives it, and it is not in its hold. -/
def Chip.pinActs (c : Chip) (p f : Nat) : Bool := c.pinsSet && !c.pinHeld p && c.gpFunc p == f

/-- FAULT_OUT is asserted: to the end of phase 4, and while the safe-state outputs act (R441, R415). -/
def Chip.faultOut (c : Chip) : Bool := c.mst != .off && (decide (c.phase ≤ 4) || decide (8 ≤ c.phase) || c.safeOut)

/-- The level a pin drives, where it drives one. An open-drain pin drives low while asserted. -/
def Chip.pinDrive (c : Chip) (p : Nat) : Option Bool :=
  if c.mst = .off ∨ c.pinHeld p then none
  else if !c.pinsSet then (if p = 0 then some false else none)
  else
    let f := c.gpFunc p
    if f = 0 then (if bit (c.rd F.MGT_GP_OE_OE) p then some (bit (c.rd F.MGT_GP_OUT_OUT) p) else none)
    else if f = 2 then some (c.on F.ETH_PPS_CTRL_OUT_EN && (match c.ppsUntil with | some b => decide (c.beat < b) | none => false))
    else if f = 3 then some c.twinReady
    else if f = 4 then (if c.faultOut then some false else none)
    else if f = 6 then (if c.anySrc (fun _ x => x.status) then some false else none)
    else none

/-- MGT_GP_IN.IN: the level of every pin; bits of `free` stand for the pins the module does not drive. -/
def Chip.pinLevels (c : Chip) (free : Nat) : Nat :=
  (List.range 16).foldl (fun v p => v + b2n ((c.pinDrive p).getD (bit free p)) * 2 ^ p) 0

/-- A LEAK_IN pin is no longer asserted; LEAK ends with the last input that asserted it. -/
def Chip.leakInEnd (c : Chip) (p : Nat) : Chip :=
  let others := c.inputs.low.filter (fun x => x.1 ≠ p)
  let c := ({ c with inputs := { c.inputs with low := others } } : Chip).showSenses
  if c.inputs.leak || others.any (fun x => decide (10 ≤ x.2)) then c else c.causeGone Flt.leak

/-- GP_FUNC_WRITE (R442, R443): a pin takes another function through its hold; an unusable code is stored as 0 with GP_CFG_ERR. -/
def Chip.gpFuncWrite (c : Chip) (p f : Nat) : Chip :=
  if 16 ≤ p then c
  else
    let f := f % 16
    let bad := decide (7 ≤ f) || ((f == 1 || f == 2) && c.variant == .r)
    let c := if bad then c.wr F.MGT_STATUS_GP_CFG_ERR 1 else c
    let f := if bad then 0 else f
    if f = c.gpFunc p then c
    else (if c.gpFunc p = 5 then c.leakInEnd p else c).wr (gpFld p) f |>.startHold p f

/-- GP_HOLD_END: 40 ns after the write the pin is given to its function. -/
def Chip.gpHoldEnd (c : Chip) (p : Nat) : Chip :=
  match c.holds.find? (fun h => h.pin == p) with
  | none => c
  | some h =>
    let c := c.advanceTo h.until_
    { c.wr F.MGT_GP_IN_CHG (setBit (c.rd F.MGT_GP_IN_CHG) p false) with holds := c.holds.filter (fun h => h.pin ≠ p) }

/-- The pull of a pin. -/
def pullFld (p : Nat) : Fld := { F.MGT_GP_PULL_PULL0 with lo := 2 * p }

/-- A write of MGT_GP_PULL: 3 is stored as 1. -/
def Chip.gpPullWrite (c : Chip) (v : Nat) : Chip :=
  (List.range 16).foldl (fun c p => let x := field v (2 * p) 2; c.wr (pullFld p) (if x = 3 then 1 else x) ) c

/-- PPS_IN_EDGE: a rising edge on the lowest-numbered pin that selects PPS_IN captures BEAT. -/
def Chip.ppsIn (c : Chip) (p : Nat) : Chip :=
  let first := (List.range 16).find? (fun q => c.pinsSet && c.gpFunc q == 1)
  if c.mst = .off ∨ !c.ethPresent 0 ∨ first ≠ some p ∨ c.pinHeld p then c
  else (c.wr F.ETH_PPS_IN_BEAT c.beat).wr F.ETH_PPS_CTRL_IN_NEW 1

/-- LEAK_IN_SAMPLE: the tenth low sample in a row, 1 µs apart, is an event of LEAK with main power on; a high one ends what the pin asserted. -/
def Chip.leakInSample (c : Chip) (p : Nat) (low : Bool) : Chip :=
  if !c.pinActs p 5 ∨ c.mst = .off then c
  else
    if low then
      let k := min 10 (Table.getD c.inputs.low p 0 + 1)
      let c := ({ c with inputs := { c.inputs with low := (p, k) :: c.inputs.low.filter (fun x => x.1 ≠ p) } } : Chip).showSenses
      if k = 10 ∧ c.railsUp then c.onset Flt.leak else c
    else c.leakInEnd p

end Sys2Proof.Machine
end

