-- ==== Sys2Proof/Machine/Bus.lean ====
section
/-!
DEFINITION. Machine/Bus.lean: the register fabric: the page map, where a register lies, who reaches it and when, violations, reads with their
views and latches, writes with their effects (R9–R11, R30–R50, and the register rules of every chapter).
-/
namespace Sys2Proof.Machine

/-! ### The page map (R30, R49) -/

/-- A mapped page: its block code, the number of its block's first page, and the registers after its header. -/
def pageRow (p : Nat) : Option (Nat × Nat × List RegDef) :=
  if p = 0 then some (0x1, 0, regsGlb)
  else if p = 1 then some (0x2, 1, regsClk)
  else if p = 2 then some (0x3, 2, regsRst)
  else if p = 3 then some (0x4, 3, regsFlt)
  else if p = 4 then some (0x5, 4, regsFwc)
  else if p = 5 then some (0x6, 5, regsMgt)
  else if p = 8 then some (0x10, 8, regsAlm)
  else if p = 9 then some (0x11, 9, regsThr)
  else if p = 0xa then some (0x12, 0xa, regsAri)
  else if p = 0xb then some (0x13, 0xb, regsLft)
  else if 0x10 ≤ p ∧ p < 0x1c then some (0x20, 0x10, regsCrb)
  else if 0x20 ≤ p ∧ p < 0x28 then some (0x21, 0x20, regsGrn)
  else if p = 0x30 then some (0x22, 0x30, regsXlt)
  else if p = 0x31 then some (0x30, 0x31, regsCmb)
  else if 0x40 ≤ p ∧ p < 0x60 then some (0x40, 0x40, regsAgl)
  else if 0x60 ≤ p ∧ p < 0x64 then some (0x50, 0x60, regsEth)
  else if p = 0x68 then some (0x60, 0x68, regsRme)
  else if p = 0x69 then some (0x61, 0x69, regsOrt)
  else if p = 0x70 then some (0x70, 0x70, regsCph)
  else if p = 0x71 then some (0x71, 0x71, regsKey)
  else if p = 0x78 then some (0x78, 0x78, regsHst)
  else if 0x100 ≤ p ∧ p < 0x300 then some (0x80, 0x100, regsIns)
  else none

/-- Pages absent on the variant. -/
def Chip.pageAbsent (c : Chip) (p : Nat) : Bool :=
  match c.variant with
  | .f => false
  | .r => (0x50 ≤ p && p < 0x5e) || (0x60 ≤ p && p < 0x64) || [0x69, 0x70, 0x71].contains p
  | .g => 0x24 ≤ p && p < 0x28

/-- The pages of the control set (R43). -/
def controlPage (p : Nat) : Bool := p ≤ 5 || p == 0x78

/-- PAGE_STATUS.IN_SERVICE of a present page (R34, R53); of a page whose chapter gives no rule for it, log entry 204 (DESIGN CHOICE). -/
def Chip.pageService (c : Chip) (p : Nat) : Bool :=
  if 0x10 ≤ p ∧ p < 0x1c then c.stackUp (p - 0x10)
  else if 0x20 ≤ p ∧ p < 0x28 then (List.range 4).all (fun k => c.channelUp (4 * (p - 0x20) + k))
  else if 0x40 ≤ p ∧ p < 0x60 then bit (c.rd F.GLB_SVC_LINKS_LINKS) (p - 0x40)
  else if 0x60 ≤ p ∧ p < 0x64 then c.ethUp (p - 0x60) 0 || c.ethUp (p - 0x60) 1
  else if p = 0x68 then c.on F.RME_CTRL_ENABLE
  else if p = 0x69 then c.on F.ORT_CTRL_ENABLE
  else if p = 0x78 then c.hostUp
  else if 0x100 ≤ p then c.rd F.INS_STATUS_STATE (p - 0x100) == 1
  else true

/-! ### Where a register lies -/

/-- A register found at an address: page, index of its field copies, Ethernet sub-port, whose key staging it is, the register, its element, and
whether the address is the _HI word of a pair. -/
structure Loc where
  page : Nat
  idx : Nat
  sub : Nat := 0
  owner : Nat := 0x3FF
  reg : RegDef
  elem : Nat
  hi : Bool
  deriving DecidableEq, Repr

/-- The element and half of a register that lies at an offset. -/
def RegDef.at_ (r : RegDef) (off : Nat) : Option (Nat × Bool) :=
  if off < r.off then none
  else
    let d := off - r.off
    let a := if r.count = 1 then 0 else d / r.stride
    let w := d - a * r.stride
    if r.count ≤ a then none else if w = 0 then some (a, false) else if w = 4 ∧ r.pair then some (a, true) else none

/-- The register at an offset, its element and half. -/
def findReg (off : Nat) : List RegDef → Option (RegDef × Nat × Bool)
  | [] => none
  | r :: t => match r.at_ off with
    | some (a, h) => some (r, a, h)
    | none => findReg off t

/-- Ethernet registers that sub-port b has copies of (R331). -/
def subReg (off : Nat) : Bool := (0x80 ≤ off && off < 0xd8) || off == 0x130 || 0x400 ≤ off

/-- The register at an offset of a mapped page; none where the chapter defines none (R36). -/
def Chip.locate (c : Chip) (page off : Nat) : Option Loc :=
  match pageRow page with
  | none => none
  | some (_, base, regs) =>
    let i := page - base
    if off < 0x80 then (findReg off regsHdr).map (fun (r, a, h) => { page := page, idx := page, reg := r, elem := a, hi := h })
    else if base = 0x60 ∧ 0x8000 ≤ off then
      if c.breakout i && subReg (off - 0x8000) then
        (findReg (off - 0x8000) regs).map (fun (r, a, h) => { page := page, idx := i, sub := 1, reg := r, elem := a, hi := h })
      else none
    else if base = 0x60 ∧ 0 < i ∧ 0x120 ≤ off ∧ off < 0x130 then none
    else if base = 0x100 ∧ 0x200 ≤ off ∧ off < 0x280 then
      if c.variant = .r then none
      else (findReg (off - 0x180) regsKey).map (fun (r, a, h) => { page := page, idx := 0, owner := i, reg := r, elem := a, hi := h })
    else (findReg off regs).map (fun (r, a, h) => { page := page, idx := i, reg := r, elem := a, hi := h })

/-- The copy of a banked register that its selectors name. -/
def Chip.bankOf (c : Chip) (l : Loc) : Nat :=
  match l.reg.bank with
  | .none => if l.sub = 1 then subBank 1 else if l.reg.fields.any (fun f => f.page == 0x71) then keyBank l.owner else 0
  | .almCtx => c.rd F.ALM_CTX_CTX
  | .thrInst => c.rd F.THR_SHIFT_SEL_INSTANCE
  | .thrPwr => c.rd F.THR_PWR_SEL_INDEX
  | .ariScope => if c.on F.ARI_SEL_SCOPE then c.rd F.ARI_SEL_INSTANCE + 1 else 0
  | .lftInst => c.rd F.LFT_SEL_INSTANCE
  | .xltSpace => c.rd F.XLT_SEL_SPACE
  | .xltPool => poolBank (c.rd F.XLT_SEL_SPACE) (c.rd F.XLT_POOL_SEL_POOL)
  | .clkLink => c.rd F.CLK_LINK_SEL_LINK
  | .clkDomain => c.rd F.CLK_DOMAIN_SEL_DOMAIN
  | .aglVc => c.rd F.AGL_VC_SEL_VC l.idx
  | .cmbXs => c.rd F.CMB_XS_SEL_STEAD
  | .cmbTgrp => c.rd F.CMB_TGRP_SEL_TGROUP
  | .ortPort => c.rd F.ORT_PORT_SEL_PORT
  | .ortQp => 0
  | .ethShp => c.rd F.ETH_SHP_SEL_INSTANCE l.idx
  | .p2p => c.rd F.HST_P2P_SEL_WINDOW
  | .fltSrc => 0
  | .fltInst => c.rd F.FLT_INST_SEL_INSTANCE
  | .fwcCore => c.rd F.FWC_CORE_SEL_CORE

/-! ### Views: fields whose value is another part of the state -/

/-- A clock domain exists on the variant (R172). -/
def Chip.domainPresent (c : Chip) (d : Nat) : Bool :=
  match c.variant with
  | .f => true
  | .r => !(d == 6 || (116 ≤ d && d < 172) || (180 ≤ d && d < 196))
  | .g => !(36 ≤ d && d < 52)

/-- A clock domain is in lock (R172): receive lanes by their lock or their link; the root and the domains that follow it from the end of phase 4, when
the root runs (R380; log entry 223); the sideband's clock and the keep-alive crystal, which no PLL or recovery follows, by a bit of `free`. -/
def Chip.domainLocked (c : Chip) (d free : Nat) : Bool :=
  if !c.domainPresent d then false
  else if 52 ≤ d ∧ d < 180 then
    let k := (d - 52) / 4
    let j := (d - 52) % 4
    c.on (if j = 0 then F.AGL_LANES_RX_LOCK0 else if j = 1 then F.AGL_LANES_RX_LOCK1 else if j = 2 then F.AGL_LANES_RX_LOCK2
      else F.AGL_LANES_RX_LOCK3) k
  else if 180 ≤ d ∧ d < 196 then
    let p := (d - 180) / 4
    c.ethUp p (if c.breakout p then (d - 180) % 4 / 2 else 0)
  else if 196 ≤ d ∧ d < 212 then c.hostUp && decide (d - 196 < c.rd F.HST_STATUS_WIDTH)
  else if d < 52 then decide (5 ≤ c.rd F.FWC_STATUS_PHASE)
  else bit free 0

/-- The QP that ORT_QP_SEL selects. -/
def Chip.selQp (c : Chip) : Option QPair := c.qpair (c.rd F.ORT_QP_SEL_QPN)

def KeySt.code : KeySt → Nat
  | .free => 0 | .empty => 1 | .valid => 2 | .spent => 3

def FltClass.code : FltClass → Nat
  | .note => 0 | .contain => 1 | .safe => 2

/-- KEY_INFO of the slot a requester has selected; an instance sees 0 for a slot it does not own (R375). -/
def Chip.keyInfo (c : Chip) (req : Nat) (f : Fld) : Nat :=
  let (kind, slot) := c.selKey req
  let k := c.keySlot kind slot
  if k.st = .free ∨ (req ≠ mgrOwner ∧ k.owner ≠ req) then 0
  else if f = F.KEY_INFO_STATE then k.st.code
  else if f = F.KEY_INFO_TX_BOUND then b2n k.tx.isSome
  else if f = F.KEY_INFO_BOUND then b2n (c.keyBound kind slot)
  else k.owner

/-- The value of a field that is computed from other state; `free` is a free value for what the spec leaves open. -/
def Chip.view (c : Chip) (l : Loc) (f : Fld) (free : Nat) : Option Nat :=
  match l.reg.reg with
  | .PAGE_ID => match pageRow l.page with
    | some (code, base, _) => some (if f = F.PAGE_ID_BLOCK then code else l.page - base)
    | none => some 0
  | .PAGE_CAP => if f = F.PAGE_CAP_PRESENT then some (b2n (!c.pageAbsent l.page)) else none
  | .PAGE_STATUS => if f = F.PAGE_STATUS_FAULT then some (b2n (c.pageFault l.page))
    else if f = F.PAGE_STATUS_IN_SERVICE then some (b2n (c.pageService l.page)) else none
  | .GLB_CAP => if f = F.GLB_CAP_ETH_PORTS then some (if c.variant = .r then 0 else 15)
    else if f = F.GLB_CAP_ORT ∨ f = F.GLB_CAP_CIPHER then some (b2n (c.variant != .r)) else none
  | .GLB_CAP_LINKS => some (if c.variant = .r then 0xC000FFFF else 0xFFFFFFFF)
  | .GLB_CAP_GRN => some (2 ^ c.channels - 1)
  | .GLB_STATE => if f = F.GLB_STATE_SAFE_CAUSE then some (b2n c.safeCause)
    else if f = F.GLB_STATE_SERVICE_LEVEL then some c.serviceLevel
    else if f = F.GLB_STATE_MODULE_STATE then some c.mst.code else none
  | .GLB_MODE => if f = F.GLB_MODE_MODE then some c.modeNo else none
  | .ALM_STATE => let x := c.ctx (c.rd F.ALM_CTX_CTX)
    if f = F.ALM_STATE_STATE then some x.st.code else if f = F.ALM_STATE_BUSY then some (b2n x.adm.isSome) else none
  | .THR_STATUS => if f = F.THR_STATUS_OPEN then some (b2n c.inWindow)
    else if f = F.THR_STATUS_INSTANCE then some (c.shiftInst.getD 0) else some c.thrOwner
  | .ARI_GEN_OUT => some c.genOut
  | .LFT_STATUS => some (if f = F.LFT_STATUS_STEAD then c.steadSlices else c.freeSlices.length)
  | .LFT_RESIDENT => let i := c.rd F.LFT_SEL_INSTANCE
    some (if f = F.LFT_RESIDENT_SPILLED then c.spilledCount i else c.residentCount i)
  | .XLT_FQ_STATUS => if f = F.XLT_FQ_STATUS_PENDING then some (c.space (c.rd F.XLT_SEL_SPACE)).pend else none
  | .CLK_STATUS => if f = F.CLK_STATUS_HOLD then some c.holdCode
    else if f = F.CLK_STATUS_SURVEY_CURRENT then some (b2n c.surveyCurrent)
    else if f = F.CLK_STATUS_PROVISIONAL then some (b2n ((List.range 32).any (fun k => c.on F.CLK_LINK_DELAY_PROVISIONAL 0 k))) else none
  | .CLK_BEAT => some c.beat
  | .CLK_DOMAIN_STATUS => let d := c.rd F.CLK_DOMAIN_SEL_DOMAIN
    if f = F.CLK_DOMAIN_STATUS_PRESENT then some (b2n (c.domainPresent d))
    else if f = F.CLK_DOMAIN_STATUS_LOCKED then some (b2n (c.domainLocked d free)) else none
  | .AGL_SEQ => if f = F.AGL_SEQ_OLDEST then
      some (match (c.link l.idx).replay with | r :: _ => r.lseq | [] => c.rd F.AGL_SEQ_NEXT l.idx) else none
  | .AGL_REPLAY => some (c.link l.idx).replay.length
  | .AGL_VC_CREDIT => let v := c.rd F.AGL_VC_SEL_VC l.idx
    some (if f = F.AGL_VC_CREDIT_RX_OCC then (c.link l.idx).occ v else (c.link l.idx).credit v)
  | .CMB_STATUS => if f = F.CMB_STATUS_FLOORS then some c.floorsBusy else none
  | .CMB_RING_WAIT => some (c.rd F.CMB_RING_WAIT_BEATS + c.riddleWaited)
  | .RME_STATUS => if f = F.RME_STATUS_ENABLED then some (b2n (c.on F.RME_CTRL_ENABLE)) else none
  | .RME_CACHE => some (if f = F.RME_CACHE_PINNED then c.pinnedQps else c.ctxCache.length)
  | .ORT_QP_STATE => match c.selQp with
    | none => some 0
    | some q => some (if f = F.ORT_QP_STATE_CAUSE then q.cause else if f = F.ORT_QP_STATE_COLD then b2n q.srtt.isNone
        else if f = F.ORT_QP_STATE_RETRIES then q.retries else q.st.code)
  | .ORT_QP_RTT => match c.selQp with
    | none => some 0
    | some q => some (if f = F.ORT_QP_RTT_SRTT then min 65535 (q.srtt.getD 0) else q.rto)
  | .ETH_CTRL => if f = F.ETH_CTRL_BREAKOUT then some (c.rd F.ETH_CTRL_BREAKOUT l.idx) else none
  | .ETH_MAC => some (c.rd F.ETH_MAC_ADDR l.idx)
  | .ETH_SHP_LEVEL => some (c.shaperLevel l.idx (c.rd F.ETH_SHP_SEL_INSTANCE l.idx))
  | .CPH_STATUS => some (if f = F.CPH_STATUS_HOLD_FREE then c.holdFree else b2n (c.mode == .linkFirst || c.mode == .quiet))
  | .KEY_STATUS => let s := c.stage l.owner
    if f = F.KEY_STATUS_TWEAK_HI then some (b2n s.hi.isSome) else if f = F.KEY_STATUS_TWEAK_LO then some (b2n s.lo.isSome)
    else if f = F.KEY_STATUS_WORDS then some ((List.range 16).foldl (fun v k => v + b2n (Table.find? k s.words).isSome * 2 ^ k) 0) else none
  | .KEY_INFO => some (c.keyInfo l.owner f)
  | .INS_USE => some (if f = F.INS_USE_QUEUES then c.queuesUsed l.idx else c.keysHeld 0 l.idx + c.keysHeld 1 l.idx)
  | .INS_USE_QP => some (c.qpsUsed l.idx)
  | .FLT_SUMMARY => some (c.groupBits (·.status))
  | .FLT_SEVERE_SUM => some (c.groupBits (·.severe))
  | .FLT_SRC_CFG => let s := c.rd F.FLT_SRC_SEL_SOURCE
    let x := c.src s
    if !srcNamed s then some 0
    else some (if f = F.FLT_SRC_CFG_CLASS then x.cls.code else if f = F.FLT_SRC_CFG_FIXED then b2n (srcFixed s) else if f = F.FLT_SRC_CFG_W then x.w else x.n)
  | .FLT_SRC_COUNT => let s := c.rd F.FLT_SRC_SEL_SOURCE
    some (if srcNamed s then (c.src s).count else 0)
  | .FLT_SRC_WINDOW => let s := c.rd F.FLT_SRC_SEL_SOURCE
    some (if srcNamed s then (c.src s).sum else 0)
  | .FLT_STATUS => some (c.groupWord l.elem (·.status))
  | .FLT_SEVERE => some (c.groupWord l.elem (·.severe))
  | .FLT_FORCE => some (c.groupWord l.elem (·.force))
  | .FLT_ENABLE => some (c.groupWord l.elem (·.enable))
  | .FLT_TWIN_STATUS => if f = F.FLT_TWIN_STATUS_TWIN_READY then some (b2n c.twinReady)
    else if f = F.FLT_TWIN_STATUS_MIRROR_SYNC then some (b2n c.mirrorSync) else none
  | .FLT_TWIN_COPY => some c.copyLeft
  | .MGT_GP_IN => if f = F.MGT_GP_IN_IN then some (c.pinLevels free) else none
  | .MGT_RTC => some c.rtc
  | _ => none

/-- The value a field reads: a view, zero for a WO field, or what it holds. -/
def Chip.fieldVal (c : Chip) (l : Loc) (free : Nat) (f : Fld) : Nat :=
  match c.view l f free with
  | some v => v % 2 ^ f.width
  | none => if f.acc = .wo then 0 else c.rd f l.idx (c.bankOf l) l.elem

/-- The value of a register: 32 bits, or 64 of a pair. -/
def Chip.regVal (c : Chip) (l : Loc) (free : Nat) : Nat := l.reg.fields.foldl (fun v f => v + c.fieldVal l free f * 2 ^ f.lo) 0

/-- Registers a read of which takes a free value. -/
def Loc.open_ (l : Loc) : Bool := l.reg.reg == .MGT_GP_IN || l.reg.reg == .CLK_DOMAIN_STATUS

/-- RC fields of a register clear as it is read (R9, R11). -/
def Chip.clearRc (c : Chip) (l : Loc) : Chip :=
  if l.reg.reg = .FLT_SRC_COUNT then
    let s := c.rd F.FLT_SRC_SEL_SOURCE
    if srcNamed s then c.setSrc s { c.src s with count := 0 } else c
  else if l.reg.reg = .CMB_RING_WAIT then
    { c.wr F.CMB_RING_WAIT_BEATS 0 with cmb := c.cmb.map (fun e => (e.1, { e.2 with waitFrom := e.2.waitFrom.map (fun _ => c.beat) })) }
  else if l.reg.reg = .CMB_TRIG_PEAK then c.wr F.CMB_TRIG_PEAK_PEAK c.opsInFlight
  else l.reg.fields.foldl (fun d f => if f.acc = .rc then d.wr f 0 l.idx (c.bankOf l) l.elem else d) c

/-! ### Reads (R9, R11, R36, R39, R49) -/

/-- A _HI word misses the requester's latch. -/
def Chip.latchMiss (c : Chip) (page : Nat) : Chip := c.wr F.PAGE_STATUS_LATCH_MISS 1 page

/-- A 32-bit read at an aligned address that breaks no rule: the word and the state after. `addr` is the BAR0 address. -/
def Chip.readWord (c : Chip) (src addr : Nat) : Nat × Chip :=
  let page := addr / 65536
  let off := addr % 65536
  if c.pageAbsent page && !(off == 0 || off == 4) then (0, c)
  else match c.locate page off with
    | none => (0, c)
    | some l =>
      let (free, c) := if l.open_ then c.free else (0, c)
      let v := c.regVal l free
      if !l.reg.pair then (v % 2 ^ 32, c.clearRc l)
      else if !l.hi then
        (v % 2 ^ 32, ({ c with rdLatch := Table.insert src ⟨addr, v / 2 ^ 32 % 2 ^ 32⟩ (Table.erase src c.rdLatch) } : Chip).clearRc l)
      else match Table.find? src c.rdLatch with
        | some x => if x.pair + 4 = addr then (x.word, { c with rdLatch := Table.erase src c.rdLatch }) else (v / 2 ^ 32 % 2 ^ 32, c.latchMiss page)
        | none => (v / 2 ^ 32 % 2 ^ 32, c.latchMiss page)

/-! ### Writes (R9, R40) -/

/-- `old` without the bits that are set in `v` (W1C). -/
def clearBits (old v w : Nat) : Nat := Nat.land old (Nat.xor (v % 2 ^ w) (2 ^ w - 1))

/-- One field takes its part of a written value by its access type. -/
def Chip.putFld (c : Chip) (l : Loc) (v : Nat) (f : Fld) : Chip :=
  let b := c.bankOf l
  match f.acc with
  | .rw => c.wr f (v / 2 ^ f.lo) l.idx b l.elem
  | .w1c => c.wr f (clearBits (c.rd f l.idx b l.elem) (v / 2 ^ f.lo) f.width) l.idx b l.elem
  | _ => c

/-- A register takes a written value field by field. -/
def Chip.putReg (c : Chip) (l : Loc) (v : Nat) : Chip := l.reg.fields.foldl (fun c f => c.putFld l v f) c

/-- VIOL_CLEAR (R47): the record is cleared and capture re-armed. -/
def Chip.violClear (c : Chip) (page : Nat) : Chip :=
  (((((((c.wr F.VIOL_INFO_COUNT 0 page).wr F.VIOL_INFO_BAR 0 page).wr F.VIOL_INFO_REASON 0 page).wr F.VIOL_INFO_ACCESS 0 page).wr F.VIOL_INFO_SOURCE 0 page).wr
    F.VIOL_ADDR_ADDR 0 page)).wr F.PAGE_STATUS_VIOL 0 page

/-- ALM_CMD of a context; other values are ignored (R89). -/
def Chip.almCmd (c : Chip) (n cmd : Nat) : Chip :=
  if cmd = 1 then c.almLoad n else if cmd = 2 then c.almAdmit n else if cmd = 3 then c.almRun n else if cmd = 4 then c.almStop n
  else if cmd = 5 then c.almUnload n else c

/-- FWC_CMD (R401). -/
def Chip.fwcCmd (c : Chip) (src cmd : Nat) : Chip :=
  if cmd = 1 then c.stage_ src else if cmd = 2 then c.verify_ else if cmd = 3 then c.activateLive else if cmd = 4 then c.activateNext
  else if cmd = 5 then c.abandonCmd else if cmd = 6 then c.setWrite src else if cmd = 7 then c.programPage else if cmd = 8 then c.raiseSvn src else c

/-- FLT_TWIN_CMD (R431). -/
def Chip.twinCmd (c : Chip) (src cmd : Nat) : Chip :=
  if cmd = 1 then c.lift src else if cmd = 2 then c.attach src else if cmd = 3 then c.cancel src else if cmd = 4 then c.recovered else c

/-- Each source of a group whose bit is set in `v` changes by `f`. -/
def Chip.onGroup (c : Chip) (g v : Nat) (f : Src → Src) : Chip :=
  (List.range 32).foldl (fun c b =>
    let s := 32 * g + b
    if bit v b && srcNamed s then c.setSrc s (f (c.src s)) else c) c

/-- Both stead contexts are EMPTY, LOADED, REFUSED or DONE. -/
def Chip.steadFree (c : Chip) : Bool := (c.ctx 0).st.idle && (c.ctx 1).st.idle

/-- A CMB_TGRP write (R259): a binding waits while its instance has a tenant combine in progress. -/
def Chip.tgrpWrite (c : Chip) (g v : Nat) : Chip :=
  let busy : Bool := match c.comb 1 with | some b => b.ctx == v % 512 + 2 | none => false
  if bit v 31 && busy then { c with tgrpDue := Table.insert g (v % 512) (Table.erase g c.tgrpDue) }
  else (({ c with tgrpDue := Table.erase g c.tgrpDue } : Chip).wr F.CMB_TGRP_VALID (v / 2 ^ 31) 0 g).wr F.CMB_TGRP_INSTANCE v 0 g

/-- Bindings that waited take effect once the combine has completed. -/
def Chip.tgrpDone (c : Chip) : Chip :=
  if c.tgrpDue = [] then c
  else
    let busy (i : Nat) : Bool := match c.comb 1 with | some b => b.ctx == i + 2 | none => false
    c.tgrpDue.foldl (fun c e => if busy e.2 then c else
      ({ c with tgrpDue := Table.erase e.1 c.tgrpDue } : Chip).tgrpWrite e.1 (e.2 + 2 ^ 31)) c

/-- The value LOG2 fields of rings store. -/
def clampLog (v : Nat) : Nat := min 16 (max 4 v)

/-- An admin configuration register (R305, R376): sizes within 4–16, a vector the owner may use or none. -/
def Chip.admCfg (c : Chip) (owner : Nat) (vec cq q : Fld) (idx v : Nat) : Chip :=
  let x := field v 16 11
  ((c.wr vec (if vectorOk owner x then x else 0x7FF) idx).wr cq (clampLog (field v 8 5)) idx).wr q (clampLog (field v 0 5)) idx

/-- A write of ETH_CTRL (R307): BREAKOUT only while ENABLE is 0; clearing ENABLE takes the links down. -/
def Chip.ethCtrl (c : Chip) (l : Loc) (v : Nat) : Chip :=
  let p := l.idx
  let on_ := c.erd F.ETH_CTRL_ENABLE p l.sub == 1
  let c := if bit v 1 == c.on F.ETH_CTRL_BREAKOUT p then c
    else if c.ethEnabled p then c.ewr F.ETH_STATUS_CFG_ERR 1 p l.sub else c.wr F.ETH_CTRL_BREAKOUT (v / 2) p
  let c := (c.ewr F.ETH_CTRL_AN_EN (v / 4) p l.sub).ewr F.ETH_CTRL_ENABLE v p l.sub
  if on_ && !bit v 0 then (if c.breakout p then c.ethLinkDown p l.sub else (c.ethLinkDown p 0).ethLinkDown p 1) else c

/-- A write of ETH_PFC_CFG (R313): a reservation above 6 MiB of the port's buffer is ignored with CFG_ERR. -/
def Chip.pfcCfg (c : Chip) (l : Loc) (v : Nat) : Chip :=
  let p := l.idx
  let other := ((c.subs p).filter (· ≠ l.sub)).map (fun s => popCount (c.erd F.ETH_PFC_CFG_EN p s) 8 * c.headroom p s)
  let want := popCount v 8 * (field v 8 16 * 1024)
  if 6 * 2 ^ 20 < want + other.sum then c.ewr F.ETH_STATUS_CFG_ERR 1 p l.sub
  else (((c.ewr F.ETH_PFC_CFG_STORM (max 1 (field v 24 8)) p l.sub).ewr F.ETH_PFC_CFG_HEADROOM (field v 8 16) p l.sub).ewr F.ETH_PFC_CFG_EN v p l.sub).recheckShares p

/-- A W1C write of STORM: a priority whose unbroken pause still holds keeps its flag (R11, R315). -/
def Chip.stormClear (c : Chip) (l : Loc) (v : Nat) : Chip :=
  let s := c.erd F.ETH_PFC_STATUS_STORM l.idx l.sub
  let c := c.putReg l v
  (List.range 8).foldl (fun c q => if bit s q && c.stormHolds l.idx l.sub q then
    c.ewr F.ETH_PFC_STATUS_STORM (setBit (c.erd F.ETH_PFC_STATUS_STORM l.idx l.sub) q true) l.idx l.sub else c) c

/-- A W1C write of REEVAL_FAIL: it stays while the operational list still fails (R11, R325). -/
def Chip.reevalClear (c : Chip) (l : Loc) (v : Nat) : Chip :=
  let s := c.erd F.ETH_GATE_STATUS_REEVAL_FAIL l.idx l.sub
  let c := c.putReg l v
  if s = 1 ∧ c.gateFails l.idx l.sub then c.ewr F.ETH_GATE_STATUS_REEVAL_FAIL 1 l.idx l.sub else c

/-- Firmware's requester. -/
def isFirmware (src : Nat) : Bool := src == 0x3FC

/-- The effect of writing `v` to a register: what its chapter gives it, or the plain effect of its fields' access types. -/
def Chip.regWrite (c : Chip) (l : Loc) (src v : Nat) : Chip :=
  let i := l.idx
  let b := c.bankOf l
  match l.reg.reg with
  | .PAGE_STATUS => if bit v 0 then (c.violClear l.page).putReg l (v / 2 * 2) else c.putReg l v
  | .GLB_CMD => if v % 16 = 1 then c.goReady else if v % 16 = 2 then c.goSafe else c
  | .GLB_MODE => c.modeWrite v
  | .ALM_CTX => c.wr F.ALM_CTX_CTX (min 513 (v % 1024))
  | .ALM_CMD => c.almCmd b (v % 16)
  | .ALM_BASE => if (c.ctx b).st.idle then c.putReg l v else c
  | .ALM_DESC => if (c.ctx b).st.idle then c.putReg l v else c
  | .ALM_DESC_COUNT => c.wr F.ALM_DESC_COUNT_COUNT (min 16777216 (v % 2 ^ 25)) 0 b
  | .THR_SHIFT_CFG => ((c.wr F.THR_SHIFT_CFG_QUANTUM (max 5 (field v 16 16)) 0 b).wr F.THR_SHIFT_CFG_PRIORITY (v / 4096) 0 b).wr
      F.THR_SHIFT_CFG_SHARE (min 1024 (v % 2048)) 0 b
  | .THR_SHIFT_CMD => if bit v 0 then c.thrApply else c
  | .ARI_CHAFF_CMD => if bit v 0 then c.chaffClearStart src else c
  | .LFT_QUOTA =>
    let c := if bit v 31 then c.wr F.LFT_QUOTA_CFG_ERR 0 0 b else c
    c.loftQuotaWrite b (v % 512)
  | .LFT_SPILL => c.spillRegionWrite b (field v 22 18)
  | .CRB_CTRL =>
    let c := c.wr F.CRB_CTRL_FORCE_FULL (v / 4) i
    if h : i < 12 then c.unitCtrl (.stack ⟨i, h⟩) (bit v 0) (bit v 1) else c
  | .GRN_CTRL =>
    let c := c.wr F.GRN_CTRL_FORCE_FULL (v / 4) i
    if h : i < 8 then c.unitCtrl (.page ⟨i, h⟩) (bit v 0) (bit v 1) else c
  | .XLT_SEL => c.wr F.XLT_SEL_SPACE (min 512 (v % 1024))
  | .XLT_ROOT => if c.on F.XLT_SPACE_CTRL_ENABLE 0 b then c else c.putReg l v
  | .XLT_FQ_BASE => if c.on F.XLT_SPACE_CTRL_FQ_EN 0 b then c else c.putReg l v
  | .XLT_FQ_SIZE => if c.on F.XLT_SPACE_CTRL_FQ_EN 0 b then c else c.wr F.XLT_FQ_SIZE_LOG2 (clampLog (v % 32)) 0 b
  | .XLT_FQ_CONS => c.fqConsWrite b v
  | .XLT_FQ_TIMEOUT => c.wr F.XLT_FQ_TIMEOUT_MS (max 1 (v % 65536)) 0 b
  | .XLT_FQ_REPLY =>
    let act := field v 30 2
    if act = 0 then c.faultReply (field v 16 10) (v % 65536) true else if act = 1 then c.faultReply (field v 16 10) (v % 65536) false else c
  | .XLT_INV_CMD =>
    let c := c.putReg l v
    if bit v 0 then c.invalidateGo (c.rd F.XLT_SEL_SPACE) (bit v 1) (c.rd F.XLT_INV_VA_VA) (c.rd F.XLT_INV_SIZE_PAGES) else c
  | .XLT_POOL_SEL => c.wr F.XLT_POOL_SEL_POOL (min 2 (v % 4))
  | .XLT_POOL_BASE => if c.rd F.XLT_POOL_SIZE_LOG2 0 b = 0 then c.putReg l v else c
  | .XLT_POOL_SIZE => let x := v % 32
    (c.wr F.XLT_POOL_SIZE_LOG2 (if x = 0 then 0 else min 20 (max 4 x)) 0 b).poolCheck (c.rd F.XLT_SEL_SPACE) (c.rd F.XLT_POOL_SEL_POOL)
  | .XLT_POOL_LOW => (c.putReg l v).poolCheck (c.rd F.XLT_SEL_SPACE) (c.rd F.XLT_POOL_SEL_POOL)
  | .XLT_POOL_PROD => c.poolProdWrite (c.rd F.XLT_SEL_SPACE) (c.rd F.XLT_POOL_SEL_POOL) v
  | .CLK_CTRL =>
    let c := if c.steadFree then c.wr F.CLK_CTRL_TK_COUNT (min 8 (max 1 (field v 4 4))) else c
    let c := if bit v 1 then c.resurvey else c
    if bit v 0 then c.surveyGo else c
  | .CLK_TK_ORDER0 => if c.steadFree then c.putReg l v else c
  | .CLK_TK_ORDER1 => if c.steadFree then c.putReg l v else c
  | .CLK_DOMAIN_SEL => c.wr F.CLK_DOMAIN_SEL_DOMAIN (min 213 (v % 256))
  | .AGL_CTRL =>
    let c := c.linkDisable i (bit v 3)
    let c := if bit v 2 then c.retrain i else c
    if bit v 1 then c.restoreStart i true else c
  | .AGL_VC_SEL => c.wr F.AGL_VC_SEL_VC (min 6 (v % 8)) i
  | .AGL_VC_CFG =>
    let c := if bit v 15 then c.wr F.AGL_VC_CFG_CFG_ERR 0 i b else c
    let c := c.wr F.AGL_VC_CFG_WEIGHT (v / 2 ^ 24) i b
    if v % 2 ^ 15 = c.rd F.AGL_VC_CFG_BUF i b then c else c.vcBufWrite i b (v % 2 ^ 15)
  | .CMB_STEAD => if c.steadFree then c.putReg l v else c
  | .CMB_XS_QP => if c.steadFree then c.putReg l v else c
  | .CMB_TGRP => c.tgrpWrite b v
  | .CMB_TWAIT => c.wr F.CMB_TWAIT_MS (max 1 (v % 65536))
  | .RME_CTRL =>
    let c := c.wr F.RME_CTRL_ADMQ_EN (v / 2)
    if !bit v 0 && c.qps != [] then c else c.wr F.RME_CTRL_ENABLE v
  | .RME_CTX_BASE => if c.on F.RME_CTRL_ENABLE then c else c.putReg l v
  | .RME_ADMQ_BASE => if c.on F.RME_CTRL_ADMQ_EN then c else c.putReg l v
  | .RME_ADMQ_CFG => if c.on F.RME_CTRL_ADMQ_EN then c else c.admCfg 512 F.RME_ADMQ_CFG_VECTOR F.RME_ADMQ_CFG_CQ_LOG2 F.RME_ADMQ_CFG_Q_LOG2 0 v
  | .RME_ADMCQ_BASE => if c.on F.RME_CTRL_ADMQ_EN then c else c.putReg l v
  | .RME_ADMCQ_SHADOW => if c.on F.RME_CTRL_ADMQ_EN then c else c.putReg l v
  | .ORT_UDP_PORT => if c.on F.ORT_CTRL_ENABLE then c else c.putReg l v
  | .ORT_QP_TIMEOUT => (c.wr F.ORT_QP_TIMEOUT_CREDIT_WAIT (max 1 (field v 8 16))).wr F.ORT_QP_TIMEOUT_RETRY_LIMIT (max 1 (v % 16))
  | .ORT_CONN_WAIT => c.wr F.ORT_CONN_WAIT_MS (max 1 (v % 65536))
  | .ORT_ADDR => if c.on F.ORT_CTRL_ENABLE then c else c.putReg l v
  | .ORT_ADDR_V4 => if c.on F.ORT_CTRL_ENABLE then c else c.putReg l v
  | .ORT_ADDR_CFG => if c.on F.ORT_CTRL_ENABLE then c else c.putReg l v
  | .ETH_CTRL => c.ethCtrl l v
  | .ETH_MAC => if c.ethEnabled i then c.ewr F.ETH_STATUS_CFG_ERR 1 i l.sub else c.wr F.ETH_MAC_ADDR v i
  | .ETH_PFC_CFG => c.pfcCfg l v
  | .ETH_PFC_STATUS => c.stormClear l v
  | .ETH_GATE_STATUS => c.reevalClear l v
  | .ETH_PREEMPT =>
    let c := (c.ewr F.ETH_PREEMPT_EXPRESS v i l.sub).ewr F.ETH_PREEMPT_EN (v / 256) i l.sub
    let c := if bit v 8 then c else (c.ewr F.ETH_STATUS_VERIFY 0 i l.sub).setPreempt i l.sub false
    if bit v 9 then c.verifyRestart i l.sub else c
  | .ETH_GATE_CTRL =>
    let c := c.putReg l v
    if bit v 2 then c.gateChange i l.sub else c
  | .ETH_TMAP_CTRL => if bit v 0 then c.tmapCommit i else c
  | .ETH_SHP_CMD => if bit v 0 then c.shaperApply i else c
  | .CPH_TEST => if bit v 0 then c.cipherTest else c
  | .KEY_SEL => c.keySel l.owner (v / 2 ^ 31) (v % 4096)
  | .KEY_CMD => if v % 4 = 1 then c.keyCommit l.owner else if v % 4 = 2 then c.zeroise l.owner else c
  | .KEY_TWEAK => c.keyTweak l.owner l.hi v
  | .KEY_SECTOR => c.keySector l.owner v
  | .KEY_DATA => c.keyData l.owner l.elem v
  | .HST_WIN_BASE => c.winBaseWrite v
  | .HST_P2P_BASE => if c.on F.HST_P2P_CTRL_VALID 0 b then c else c.putReg l v
  | .HST_P2P_CTRL => c.p2pCtrlWrite b v
  | .HST_MB_H2R => c.h2rProdWrite 512 (v % 65536)
  | .HST_MB_R2H => c.r2hConsWrite 512 (field v 16 16)
  | .HST_MB_SLOT => if l.elem < 256 || isFirmware src then c.putReg l v else c
  | .INS_CTRL =>
    let c := c.insEnable i (bit v 0)
    if bit v 1 then c.insResetCmd i else c
  | .INS_QUOTA_Q => c.quotaWrite i 0 v
  | .INS_QUOTA_QP => c.quotaWrite i 1 v
  | .INS_QUOTA_KEY => c.quotaWrite i 2 v
  | .INS_ADMQ_BASE => if c.on F.INS_ADMQ_CTRL_ADMQ_EN i then c else c.putReg l v
  | .INS_ADMQ_CFG => if c.on F.INS_ADMQ_CTRL_ADMQ_EN i then c else c.admCfg i F.INS_ADMQ_CFG_VECTOR F.INS_ADMQ_CFG_CQ_LOG2 F.INS_ADMQ_CFG_Q_LOG2 i v
  | .INS_ADMCQ_BASE => if c.on F.INS_ADMQ_CTRL_ADMQ_EN i then c else c.putReg l v
  | .INS_ADMCQ_SHADOW => if c.on F.INS_ADMQ_CTRL_ADMQ_EN i then c else c.putReg l v
  | .INS_MB_H2R => c.h2rProdWrite i (v % 65536)
  | .INS_MB_R2H => c.r2hConsWrite i (field v 16 16)
  | .INS_MB_SLOT => if l.elem < 256 || isFirmware src then c.putReg l v else c
  | .FWC_CMD => c.fwcCmd src (v % 16)
  | .FLT_SRC_CFG => c.setSrcCfg (c.rd F.FLT_SRC_SEL_SOURCE) (field v 30 2) (v % 256) (field v 8 16)
  | .FLT_STATUS => c.onGroup l.elem v Src.clearStatus
  | .FLT_SEVERE => c.onGroup l.elem v (fun x => { x with severe := false })
  | .FLT_FORCE => (List.range 32).foldl (fun c k => c.setForce (32 * l.elem + k) (bit v k)) c
  | .FLT_ENABLE => (List.range 32).foldl (fun c k =>
      let s := 32 * l.elem + k
      if srcNamed s && !srcFixed s then c.setSrc s { c.src s with enable := bit v k } else c) c
  | .FLT_TWIN_CTRL => c.twinCtrlWrite v
  | .FLT_TWIN_CMD => c.twinCmd src (v % 8)
  | .FLT_TWIN_OFS => c.twinOfsWrite (v / 65536)
  | .MGT_GP_FUNC0 => (List.range 8).foldl (fun c p => c.gpFuncWrite p (field v (4 * p) 4)) c
  | .MGT_GP_FUNC1 => (List.range 8).foldl (fun c p => c.gpFuncWrite (8 + p) (field v (4 * p) 4)) c
  | .MGT_GP_PULL => c.gpPullWrite v
  | .MGT_RTC => c.setRtc v
  | .MGT_KA_ACK => c.kaAck src v
  | .RST_CMD => if v / 65536 = 0x5EED ∧ v % 16 = 1 then c.moduleReset src else c
  | .RST_CORE => if bit v 0 then c.coreReset (c.rd F.RST_CORE_SEL_CORE) else c
  | _ => c.putReg l v

/-- A pair that the write latch serves: it has a field software writes whole. -/
def Loc.rwPair (l : Loc) : Bool := l.reg.pair && l.reg.fields.any (fun f => f.acc == .rw)

/-- A 32-bit write at an aligned address that breaks no rule. -/
def Chip.writeWord (c : Chip) (src addr v : Nat) : Chip :=
  let v := v % 2 ^ 32
  match c.locate (addr / 65536) (addr % 65536) with
  | none => c
  | some l =>
    if !l.rwPair then c.regWrite l src (if l.hi && l.reg.reg != .KEY_TWEAK then v * 2 ^ 32 else v)
    else if !l.hi then { c with wrLatch := Table.insert src ⟨addr, v⟩ (Table.erase src c.wrLatch) }
    else match Table.find? src c.wrLatch with
      | some x =>
        if x.pair + 4 = addr then ({ c with wrLatch := Table.erase src c.wrLatch } : Chip).regWrite l src (x.word + v * 2 ^ 32)
        else (c.latchMiss l.page).regWrite l src (c.regVal l 0 % 2 ^ 32 + v * 2 ^ 32)
      | none => (c.latchMiss l.page).regWrite l src (c.regVal l 0 % 2 ^ 32 + v * 2 ^ 32)

/-! ### Requesters, reach and violations (R31, R42–R48) -/

/-- The BAR0 address of the physical function that a requester's address stands for (R32, R42). -/
def busAddr (src addr : Nat) : Nat := if src < 512 then 0x1000000 + src * 65536 + addr % 65536 else addr

/-- The BAR code of a requester's path; firmware's internal path has none of the four and is recorded as 0 (DESIGN CHOICE, log entry 205). -/
def busBar (src : Nat) : Nat := if fromSideband src then 3 else 0

/-- The page takes part in the register reach of the module state (R43, R388). -/
def Chip.stateReach (c : Chip) (src page off : Nat) : Bool :=
  if isFirmware src then true
  else if src < 512 then c.dataState && c.rd F.INS_STATUS_STATE src == 1
  else match c.mst with
    | .off => false
    | .keepalive => fromSideband src && (page == 0 || page == 5)
    | .booting => if c.phase = 8 then fromSideband src && (page == 0 || page == 5 || page == 4) else controlPage page
    | .refused => controlPage page || decide (off < 0x80)
    | .safe => controlPage page || decide (off < 0x80)
    | _ => true

/-- INS registers that only the manager writes (R375). -/
def managerOnly (off : Nat) : Bool := [0x84, 0x88, 0x8c, 0x90, 0xc8, 0xcc].contains off

/-- A write outside the requester's reach (R42, R375). -/
def noReach (src page off : Nat) : Bool :=
  (fromSideband src && !([0, 2, 3, 4, 5].contains page)) || (decide (src < 512) && managerOnly off)

/-- The first rule that a 32-bit access breaks (R46). A read of an unmapped address or an absent page breaks none (R31, R45, R49). -/
def Chip.busBad (c : Chip) (src addr : Nat) (write size : Bool) : Option Viol :=
  let a := busAddr src addr
  let page := a / 65536
  let off := a % 65536
  let mapped := (pageRow page).isSome && decide (a < 0x4000000)
  if !mapped then (if write then some .unmapped else none)
  else if c.pageAbsent page then (if write then some .absent else none)
  else if !c.stateReach src page off then some .state
  else if write && noReach src page off then some .privilege
  else if size then some .size
  else none

/-- A violating sideband transaction sets its target's flag (R445, R448). -/
def Chip.sideViol (c : Chip) (src : Nat) : Chip :=
  if src = 0x3FE then c.wr F.MGT_STATUS_SPI_VIOL 1 else if src = 0x3FD then c.wr F.MGT_STATUS_SMB_VIOL 1 else c

/-- A violation is recorded in the header of the page, or in GLB's where it has none (R45); a sideband target reports it (R44). -/
def Chip.busViol (c : Chip) (src addr : Nat) (write : Bool) (why : Viol) : Chip :=
  let page := busAddr src addr / 65536
  let home := if (pageRow page).isSome && !c.pageAbsent page && decide (busAddr src addr < 0x4000000) then page else 0
  (c.violation home src addr (b2n write) (busBar src) why).sideViol src

/-- Nothing answers and nothing is recorded (R43, R369, R371, R382, R444). -/
def Chip.busDead (c : Chip) (src : Nat) : Bool :=
  c.mst == .off || (if fromSideband src then c.inPhase 0 else if isFirmware src then false else !c.hostUp) ||
  (decide (src < 512) && (!c.on F.INS_STATUS_VF_PRESENT src || c.insResetting src))

/-- An aligned access of 4 bytes, or one of 8, with every byte enable set (`full`). -/
def sizeOk (addr size : Nat) (full : Bool) : Bool := full && ((size == 4 && addr % 4 == 0) || (size == 8 && addr % 8 == 0))

/-- One 32-bit read: the word where no rule is broken. -/
def Chip.busRead32 (c : Chip) (src addr : Nat) (badSize : Bool) : Option Nat × Chip :=
  match c.busBad src addr false badSize with
  | some w => (none, c.busViol src addr false w)
  | none => let (v, c) := c.readWord src (busAddr src addr); (some v, c)

/-- One 32-bit write. -/
def Chip.busWrite32 (c : Chip) (src addr v : Nat) (badSize : Bool) : Chip :=
  match c.busBad src addr true badSize with
  | some w => c.busViol src addr true w
  | none => c.writeWord src (busAddr src addr) v

/-- What a read returns: the data, or where it violates a rule Completer Abort to a host and zero to a sideband target (R44). -/
def Chip.answerRead (c : Chip) (src addr : Nat) (v : Option Nat) : Chip :=
  match v with
  | some d => c.emit (.readData src addr d)
  | none => c.emit (if fromSideband src then .readData src addr 0 else .completerAbort src addr)

/-- A register read of `size` bytes, with every byte enable set or not (`full`, R37): 8 bytes are the lower word, then the higher. -/
def Chip.busRead (c : Chip) (src addr size : Nat) (full : Bool := true) : Chip :=
  if c.busDead src then
    (if src < 512 ∧ c.mst ≠ .off ∧ c.hostUp then c.emit (if c.on F.INS_STATUS_VF_PRESENT src then .completerAbort src addr else .unsupported src addr) else c)
  else if !sizeOk addr size full then let (v, c) := c.busRead32 src addr true; c.answerRead src addr v
  else
    let (v, c) := c.busRead32 src addr false
    let c := c.answerRead src addr v
    if size = 8 then let (v, c) := c.busRead32 src (addr + 4) false; c.answerRead src (addr + 4) v else c

/-- A register write of `size` bytes. -/
def Chip.busWrite (c : Chip) (src addr size v : Nat) (full : Bool := true) : Chip :=
  if c.busDead src then c
  else if !sizeOk addr size full then c.busWrite32 src addr v true
  else
    let c := c.busWrite32 src addr v false
    if size = 8 then c.busWrite32 src (addr + 4) (v / 2 ^ 32) false else c

end Sys2Proof.Machine
end

