-- ==== Sys2Proof/Machine/Sideband.lean ====
section
/-!
DEFINITION. Machine/Sideband.lean: the management SPI target and the SMBus target (R444–R448).
-/
namespace Sys2Proof.Machine

/-- The SPI target's and the SMBus target's requester numbers (R42). -/
def spiSrc : Nat := 0x3FE
def smbSrc : Nat := 0x3FD

/-! ### SPI (R444–R446) -/

/-- One SPI data word is written: a violation sets SPI_VIOL. -/
def Chip.spiPut (c : Chip) (addr v : Nat) : Chip :=
  match c.busBad spiSrc addr true (addr % 4 != 0) with
  | some w => c.busViol spiSrc addr true w
  | none => c.writeWord spiSrc addr v

/-- The words of a SPI WRITE, at the address and each one after it. -/
def Chip.spiPuts (c : Chip) (addr : Nat) : List Nat → Chip
  | [] => c
  | v :: t => (c.spiPut addr v).spiPuts (addr + 4) t

/-- SPI_WRITE: the whole words of a transaction. -/
def Chip.spiWrite (c : Chip) (addr : Nat) (words : List Nat) : Chip := if c.busDead spiSrc then c else c.spiPuts addr words

/-- One SPI word is fetched and shifted out: a violating one reads zero and sets SPI_VIOL. -/
def Chip.spiGet (c : Chip) (addr : Nat) : Chip :=
  match c.busRead32 spiSrc addr (addr % 4 != 0) with
  | (some v, c) => c.emit (.sideband spiSrc v)
  | (none, c) => c.emit (.sideband spiSrc 0)

def Chip.spiGets (c : Chip) (addr : Nat) : Nat → Chip
  | 0 => c
  | n + 1 => (c.spiGet addr).spiGets (addr + 4) n

/-- SPI_READ: the `n` words that a transaction fetches. -/
def Chip.spiRead (c : Chip) (addr n : Nat) : Chip := if c.busDead spiSrc then c else c.spiGets addr n

/-- Bits [3:0] of MGT_STATUS. -/
def Chip.spiFlags (c : Chip) : Nat :=
  c.rd F.MGT_STATUS_SPI_VIOL + 2 * c.rd F.MGT_STATUS_SPI_PARTIAL + 4 * c.rd F.MGT_STATUS_SPI_SHORT + 8 * c.rd F.MGT_STATUS_SPI_BADCMD

/-- SPI_STATUS: READY and the SPI flags. -/
def Chip.spiStatus (c : Chip) : Chip := if c.busDead spiSrc then c else c.emit (.sideband spiSrc (0x80 + c.spiFlags))

/-- SPI_CS_RELEASE: a transaction of `edges` clock edges whose command byte was `cmd` ends (R446). -/
def Chip.spiRelease (c : Chip) (cmd edges : Nat) : Chip :=
  if c.busDead spiSrc then c
  else if edges < 8 then c.wr F.MGT_STATUS_SPI_SHORT 1
  else if cmd = 0x05 then c
  else if cmd ≠ 0x02 ∧ cmd ≠ 0x0B then c.wr F.MGT_STATUS_SPI_BADCMD 1
  else if edges < 40 then c.wr F.MGT_STATUS_SPI_SHORT 1
  else if (cmd = 0x0B ∧ edges < 72) ∨ (edges - 40) % 32 ≠ 0 then c.wr F.MGT_STATUS_SPI_PARTIAL 1
  else c

/-! ### SMBus (R447, R448) -/

/-- A transaction whose byte count and PEC are right is performed. -/
def Chip.smb (c : Chip) (countOk pecBad : Bool) (f : Chip → Chip) : Chip :=
  if c.busDead smbSrc then c
  else if !countOk then c.wr F.MGT_STATUS_SMB_FORMAT 1
  else if pecBad then c.wr F.MGT_STATUS_SMB_PEC 1
  else f c

/-- SMB_BLOCK_WRITE: command 0x01, a word written. -/
def Chip.smbWrite (c : Chip) (count addr v : Nat) (pecBad : Bool) : Chip :=
  c.smb (count == 8) pecBad (fun c =>
    match c.busBad smbSrc addr true (addr % 4 != 0) with
    | some w => c.busViol smbSrc addr true w
    | none => c.writeWord smbSrc addr v)

/-- SMB_PROCESS_CALL: command 0x02, a word read; four zero bytes for a violation. -/
def Chip.smbRead (c : Chip) (count addr : Nat) (pecBad : Bool) : Chip :=
  c.smb (count == 4) pecBad (fun c =>
    match c.busRead32 smbSrc addr (addr % 4 != 0) with
    | (some v, c) => c.emit (.sideband smbSrc v)
    | (none, c) => c.emit (.sideband smbSrc 0))

/-- SMB_READ_BYTE: command 0x03, READY and the SMBus flags. -/
def Chip.smbByte (c : Chip) : Chip :=
  if c.busDead smbSrc then c
  else c.emit (.sideband smbSrc (0x80 + 4 * c.rd F.MGT_STATUS_SMB_PEC + 2 * c.rd F.MGT_STATUS_SMB_FORMAT + c.rd F.MGT_STATUS_SMB_VIOL))

/-- SMB_TIMEOUT: after 25 ms the interface is reset and its transaction discarded; a transaction has no effect before it ends. -/
def Chip.smbTimeout (c : Chip) : Chip := c

end Sys2Proof.Machine
end

