-- ==== Sys2Proof/Machine/Settle.lean ====
section
/-!
DEFINITION. Machine/Settle.lean: what a command's end brings with it: instance resets and the safe state that fault sources asked for, re-admission,
ring failures, completions and messages that waited, and MODULE_STATE READY or RUNNING (R54, R76, R371, R411, R415).
-/
namespace Sys2Proof.Machine

/-- Instance resets that CONTAIN-class sources asked for (R371, R411). -/
def Chip.doContain (c : Chip) : Chip :=
  let l := c.containReq
  l.foldl (fun c i => c.insReset i 5) { c with containReq := [] }

/-- The safe state is entered (R415, R416): what it ends and what it drives. -/
def Chip.enterSafe (c : Chip) : Chip := { (c.abandon.safeOutputs).twinSafe with safeReq := false }

/-- What a SAFE-class cause does in the present state (R415): nothing more in SAFE or OFF; in the boot phases before READY the outputs act and the
module becomes SAFE when the boot completes. -/
def Chip.doSafe (c : Chip) : Chip :=
  if !c.safeReq then c
  else match c.mst with
    | .off => { c with safeReq := false }
    | .safe => { c with safeReq := false }
    | .keepalive => { c.safeOutputs with safeReq := false, bootSafe := true }
    | .booting => if c.phase = 6 then { c.enterSafe.setPhase 7 with mst := .safe } else { c.safeOutputs with safeReq := false, bootSafe := true }
    | _ => { c.enterSafe.setPhase 7 with mst := .safe }

/-- Re-admission that a change of hardware state asked for (R76). -/
def Chip.doReadmit (c : Chip) : Chip := if c.readmitReq then { c with readmitReq := false }.readmitAll else c

/-- The module is RUNNING while an almanac is RUNNING or HELD, and READY otherwise (R54). -/
def Chip.deriveState (c : Chip) : Chip :=
  match c.mst with
  | .ready => if c.anyRun then { c with mst := .running } else c
  | .running => if c.anyRun then c else { c with mst := .ready }
  | _ => c

/-- A combine queue pair grants what the sheaf slots that are free allow, and sends the level-3 messages that wait (R245, R300). -/
def Chip.xsPoll (c : Chip) : Chip :=
  (c.qps.filter (fun e => e.2.combine && (e.2.st == .connected || e.2.st == .connecting))).foldl (fun (c : Chip) e => (c.grantOne e.1).goOn e.1) c

/-- The requests a command left behind are taken up, and cleared. -/
def Chip.settle (c : Chip) : Chip :=
  let c := (c.doContain.doSafe).doReadmit
  let c := (((((if c.rmeOn then c.xsPoll else c).sendAgain).ringFails).admPoll).ethEnds.mbFlush).twinPoll
  let c := ((c.tgrpDone.doContain).doSafe).doReadmit
  { c with safeReq := false, containReq := [], readmitReq := false }.deriveState

/-- A command's answer: the state its operation and what follows from it leave; the queue is the rest of the queue. -/
def State.run (f : Chip → Chip) (s : State) : Host.Outcome State Fault Refusal := .next { s with chip := (f s.chip).settle }

end Sys2Proof.Machine
end

