-- ==== Sys2Proof/Machine/Rows.lean ====
section
/-!
DEFINITION. Machine/Rows.lean: what a command needs before its effect: a register command reaches its register as any write does (R42–R48), a link
or port command has its link or port.
-/
namespace Sys2Proof.Machine

/-- A command that is a write of the register at an offset of a page, of the block whose first page is `base`: it breaks a rule and is recorded, or
has its effect. An instance reaches its own page alone. -/
def Chip.asWriteAt (c : Chip) (src base page off : Nat) (f : Chip → Chip) : Chip :=
  if src < 512 ∧ page ≠ 0x100 + src then c
  else if (pageRow page).map (·.2.1) ≠ some base then c
  else if c.busDead src then c
  else match c.busBad src (page * 65536 + off) true false with
    | some w => c.busViol src (if src < 512 then off else page * 65536 + off) true w
    | none => if (c.locate page off).isSome then f c else c

/-- A command that writes the register of a field, in page `idx` of its block and the copy of sub-port `sub`. -/
def Chip.asWrite (c : Chip) (src : Nat) (r : Fld) (idx sub : Nat) (f : Chip → Chip) : Chip :=
  c.asWriteAt src r.page (r.page + idx) (r.off + 0x8000 * sub) f

/-- The same for element `a` of an array of registers. -/
def Chip.asWriteElem (c : Chip) (src : Nat) (r : Fld) (a : Nat) (f : Chip → Chip) : Chip :=
  c.asWriteAt src r.page r.page (r.off + r.stride * a) f

/-- A command that writes a KEY register, at byte `o` after the first of its array: in the manager's page, or the copy in an instance's own page (R375). -/
def Chip.keyWrite (c : Chip) (src : Nat) (r : Fld) (f : Chip → Nat → Chip) (o : Nat := 0) : Chip :=
  if src < 512 then c.asWriteAt src 0x100 (0x100 + src) (r.off + o + 0x180) (fun c => f c src)
  else c.asWriteAt src r.page r.page (r.off + o) (fun c => f c mgrOwner)

/-- What happens on a link: it is present, and the main rails are up. -/
def Chip.linkRow (c : Chip) (k : Nat) (f : Chip → Chip) : Chip := if c.railsUp && c.linkPresent k then f c else c

/-- What a link-control message does that arrives on a link in service, at a time in 1/64 beat (R202); a link with an end that has no position carries no
stead-time message (R217). -/
def Chip.actCtl (c : Chip) (k arrive : Nat) (m : CtlMsg) : Chip :=
  if m.steadTime && c.posLimited k then c
  else match m with
    | .ack => c
    | .nak n => c.retryFrom k n
    | .credit freed => c.linkCredit k freed
    | .bell m => c.recvMark k m arrive
    | .hold origin b cause => c.recvHold k origin b cause
    | .ready origin b => c.recvReady k origin b
    | .resume hb rb => c.takeResume hb rb (some k)
    | .surveyReq seq _ => c.recvSurveyReq k seq arrive
    | .surveyRsp seq t2 t3 => c.surveyRsp k seq t2 t3 arrive
    | .heartbeat h => c.recvHeartbeat k h
    | .shed keepB => c.recvShed k keepB
    | .restore phase b => c.recvRestore k phase b
    | .quiet origin b => c.recvQuiet k origin b
    | .live => c.recvLive k
    | .peer _ => c

/-- What every VC7 frame received in service brings (R204): its flit is counted, and its header's ACK releases frames. -/
def Chip.gotMsg (c : Chip) (k ack : Nat) : Chip := (c.gotFlits k 1).linkAck k ack

/-- A copy of a message sent in two (R203): whether it is acted on, and what it brings. -/
def Chip.gotCopy (c : Chip) (k ack : Nat) (copy : Bool) (m : CtlMsg) : Bool × Chip := (c.gotMsg k ack).firstCopy k copy m

/-- A VC7 frame is received (R202–R204): its flit is counted, its header's ACK releases frames, and the message is acted on, one of two copies once.
Only PEER is heard before the link is in service. -/
def Chip.recvCtl (c : Chip) (k ack : Nat) (copy : Bool) (arrive : Nat) (m : CtlMsg) : Chip :=
  match m with
  | .peer p => (c.gotFlits k 1).recvPeer k ack copy p
  | m =>
    if !c.inService k then c.gotFlits k 1
    else
      let r := if m.twice then c.gotCopy k ack copy m else (true, c.gotMsg k ack)
      if r.1 then r.2.actCtl k arrive m else r.2

/-- The VC7 frame that a CONTROL slot holds (R196, R200): lost with its codeword, failed, of an unknown code and discarded, or received now. A frame of
VC0–VC6 in a CONTROL slot fails. -/
def Chip.recvControl (c : Chip) (k arrive : Nat) (s : Slot) : Chip :=
  if s.lost || !c.sends k then c
  else match LFrame.parse s.bytes with
    | none => if c.inService k then (c.gotFlits k 1).frameFails k else c.gotFlits k 1
    | some (lseq, ack, f) =>
      if f.vc ≠ 7 then (if c.inService k then (c.gotFlits k 1).frameFails k else c.gotFlits k 1)
      else match CtlMsg.ofPayload f.typ f.payload with
        | some m => c.recvCtl k ack (bit lseq 0) arrive m
        | none => (c.gotFlits k 1).count F.AGL_DROP_CTRL_COUNT 1 k

/-- The slots that FRAME_RECEIVE names, slot by slot. -/
def slotList (kinds : List Nat) (lost : List Bool) (bytes : List (List Byte)) : List Slot :=
  (kinds.zip (lost.zip bytes)).map (fun x => ⟨x.1, x.2.1, x.2.2⟩)

/-- FRAME_RECEIVE (R195, R205): the slots from a HEAD up to the next one. CONTROL slots among them act in their turn, and the HEAD with its BODY flits is
a frame of VC0–VC6. -/
def Chip.recvSlots (c : Chip) (k arrive : Nat) (slots : List Slot) : Chip :=
  let flits := slots.filter (fun s => s.kind == FlitKind.head || s.kind == FlitKind.body)
  let c := (slots.filter (fun s => s.kind == FlitKind.control)).foldl (fun c s => c.recvControl k arrive s) c
  if flits.isEmpty then c
  else (c.gotFlits k flits.length).frameReceive k (flits.any (·.lost)) (flits.flatMap (·.bytes))

/-- A link-control message arrives on a link (R202). -/
def Chip.ctlRow (c : Chip) (k ack : Nat) (copy : Bool) (arrive : Nat) (m : CtlMsg) : Chip := c.linkRow k (fun c => c.recvCtl k ack copy arrive m)

/-- What happens on an Ethernet port or sub-port: it is present, and the main rails are up. -/
def Chip.ethRow (c : Chip) (p s : Nat) (f : Chip → Chip) : Chip := if c.railsUp && c.subPresent p s then f c else c

/-- An operation that waited for its context goes on (R23, R288). -/
def Chip.ctxOp (c : Chip) (n : Nat) : CtxOp → Chip
  | .recv rx => c.recvHeld n rx
  | .fetch qid => c.workEntryFetch qid
  | .start op => c.sqStart n op
  | .send => c.goOn n
  | .retransmit => c.retransmitTimeout n
  | .creditWait => c.creditWaitTimeout n
  | .connectResend => c.connectResend n
  | .connectWait => c.connectWaitTimeout n
  | .ackDelay => c.ackDelay n
  | .creditUpdate => c.creditUpdate n
  | .sqe ok => c.resumeSqe n ok
  | .inbound ok => c.resumeInbound n ok
  | .admin owner op => if op = 0x06 then c.connectQp owner else if op = 0x09 then c.queryQp owner else c.closeQp owner op

/-- CONTEXT_FETCH_COMPLETE: a context of a miss in flight arrives, and the operations that waited for it go on in their order. -/
def Chip.contextFetchComplete (c : Chip) (n : Nat) : Chip :=
  if !(c.ctxMiss.take 64).contains n then c
  else
    let ops := (c.ctxOps.filter (·.1 == n)).map (·.2)
    let c : Chip := { c.ctxFetched n with ctxOps := c.ctxOps.filter (·.1 ≠ n) }
    ops.foldl (fun c o => c.ctxOp n o) c

/-- The control register of a memory unit: a field of it, and the page. -/
def MemUnit.ctrl : MemUnit → Fld × Nat
  | .stack n => (F.CRB_CTRL_OUT, n.val)
  | .page p => (F.GRN_CTRL_OUT, p.val)

/-- The quota registers of an instance. -/
def quotaReg (reg : Nat) : Fld := if reg = 0 then F.INS_QUOTA_Q_QUEUES else if reg = 1 then F.INS_QUOTA_QP_QPS else F.INS_QUOTA_KEY_GCM

/-- The function register of a GP pin. -/
def gpReg (pin : Nat) : Fld := if pin < 8 then F.MGT_GP_FUNC0_FUNC0 else F.MGT_GP_FUNC1_FUNC0

end Sys2Proof.Machine
end

