-- ==== Sys2Proof/Machine/ExecAgl.lean ====
section
/-!
DEFINITION. Machine/ExecAgl.lean: the meanings of the commands of Agarain links.
-/
namespace Sys2Proof.Machine

/-- FLIT_SLOT_TRANSMIT (R211) of a link. -/
def execFlitSlotTransmit (k : Nat) (s : State) : Host.Outcome State Fault Refusal :=
  s.run (fun c => c.linkRow k (fun c => c.flitSlot k))

/-- FRAME_RECEIVE (R205): the slots received from a HEAD up to the next one, the codewords FEC corrected meanwhile, and the arrival in 1/64 beat. -/
def execFrameReceive (k corrected arrive : Nat) (kinds : List Nat) (lost : List Bool) (bytes : List (List Byte)) (s : State) : Host.Outcome State Fault Refusal :=
  s.run (fun c => c.linkRow k (fun c => (if c.sends k then c.count F.AGL_FEC_CORR_COUNT corrected k else c).recvSlots k arrive (slotList kinds lost bytes)))

/-- CODEWORD_UNCORRECTABLE (R196): codeword number `n` of a pair. -/
def execCodewordUncorrectable (k : Nat) (pairB : Bool) (n : Nat) (s : State) : Host.Outcome State Fault Refusal :=
  s.run (fun c => c.linkRow k (fun c => c.codewordBad k pairB n))

/-- FRAME_TAKEN (R208): a client has done with its oldest frame of a virtual channel; a packet that no ORT row performs is discarded first, and a frame
of the host port or of reeve firmware is taken as it stands. -/
def execFrameTaken (k vc : Nat) (s : State) : Host.Outcome State Fault Refusal :=
  s.run (fun c => c.linkRow k (fun c => ((if vc = 1 then c.discardHead (.link k) else c).plainTaken k vc).frameTaken k vc))

/-- LINK_ACK (R204): an ACK message, whose header carries the value. -/
def execLinkAck (k ack : Nat) (s : State) : Host.Outcome State Fault Refusal :=
  s.run (fun c => c.ctlRow k ack false 0 .ack)

/-- LINK_NAK (R206): the header's ACK, the COPY bit and the LSEQ expected. -/
def execLinkNak (h : Vc7) (copy : Bool) (expected : Nat) (s : State) : Host.Outcome State Fault Refusal :=
  s.run (fun c => c.ctlRow h.k h.ack copy 0 (.nak expected))

/-- LINK_CREDIT (R209): the header's ACK and flits freed by virtual channel. -/
def execLinkCredit (h : Vc7) (freed : List Nat) (s : State) : Host.Outcome State Fault Refusal :=
  s.run (fun c => c.ctlRow h.k h.ack false 0 (.credit freed))

/-- LINK_ACK_TIMER (R202). -/
def execLinkAckTimer (k : Nat) (s : State) : Host.Outcome State Fault Refusal :=
  s.run (fun c => c.linkRow k (fun c => c.linkAckTimer k))

/-- LINK_CREDIT_TIMER (R202). -/
def execLinkCreditTimer (k : Nat) (s : State) : Host.Outcome State Fault Refusal :=
  s.run (fun c => c.linkRow k (fun c => c.linkCreditTimer k))

/-- REPLAY_TIMEOUT (R206). -/
def execReplayTimeout (k : Nat) (s : State) : Host.Outcome State Fault Refusal :=
  s.run (fun c => c.linkRow k (fun c => c.replayTimeout k))

/-- PEER (R219) on a link. -/
def execPeer (h : Vc7) (copy : Bool) (m : PeerMsg) (s : State) : Host.Outcome State Fault Refusal :=
  s.run (fun c => c.ctlRow h.k h.ack copy 0 (.peer m))

/-- PEER_REPEAT_TIMER (R202). -/
def execPeerRepeatTimer (k : Nat) (s : State) : Host.Outcome State Fault Refusal :=
  s.run (fun c => c.linkRow k (fun c => c.peerRepeat k))

/-- LANE_LOSS (R220) of a lane. -/
def execLaneLoss (k lane : Nat) (s : State) : Host.Outcome State Fault Refusal :=
  s.run (fun c => c.linkRow k (fun c => c.laneLoss k lane))

/-- SHED (R220): the pair that is kept. -/
def execShed (h : Vc7) (copy keepB : Bool) (s : State) : Host.Outcome State Fault Refusal :=
  s.run (fun c => c.ctlRow h.k h.ack copy 0 (.shed keepB))

/-- SHED_RETRAIN_END (R216). -/
def execShedRetrainEnd (k : Nat) (ok : Bool) (s : State) : Host.Outcome State Fault Refusal :=
  s.run (fun c => c.linkRow k (fun c => c.shedEnd k ok))

/-- LANE_LOCK (R216). -/
def execLaneLock (k lane : Nat) (s : State) : Host.Outcome State Fault Refusal :=
  s.run (fun c => c.linkRow k (fun c => c.laneLocks k lane))

/-- TRAINING_SIGNAL_DETECT (R216). -/
def execTrainingSignalDetect (k : Nat) (s : State) : Host.Outcome State Fault Refusal :=
  s.run (fun c => c.linkRow k (fun c => c.signalDetect k))

/-- TRAINING_END (R216): the lanes locked. -/
def execTrainingEnd (k lanes : Nat) (s : State) : Host.Outcome State Fault Refusal :=
  s.run (fun c => c.linkRow k (fun c => c.trainingEnd k lanes))

/-- TRAINING_RETRY (R216). -/
def execTrainingRetry (k : Nat) (s : State) : Host.Outcome State Fault Refusal :=
  s.run (fun c => c.linkRow k (fun c => c.trainingRetry k))

/-- LINK_DISABLE (R226). -/
def execLinkDisable (src k : Nat) (v : Bool) (s : State) : Host.Outcome State Fault Refusal :=
  s.run (fun c => c.asWrite src F.AGL_CTRL_DISABLE k 0 (fun c => c.linkDisable k v))

/-- RETRAIN (R226). -/
def execRetrain (src k : Nat) (s : State) : Host.Outcome State Fault Refusal :=
  s.run (fun c => c.asWrite src F.AGL_CTRL_RETRAIN k 0 (fun c => c.retrain k))

/-- RESTORE (R222): a write of AGL_CTRL.RESTORE by a requester, or a received RESTORE message of a phase. -/
def execRestore (h : Vc7) (src : Option Nat) (copy : Bool) (phase bell : Nat) (s : State) : Host.Outcome State Fault Refusal :=
  s.run (fun c =>
    match src with
    | some src => c.asWrite src F.AGL_CTRL_RESTORE h.k 0 (fun c => c.restoreStart h.k true)
    | none => c.ctlRow h.k h.ack copy 0 (.restore phase bell))

/-- RESTORE_PAIR_LOCKED (R222). -/
def execRestorePairLocked (k : Nat) (s : State) : Host.Outcome State Fault Refusal :=
  s.run (fun c => c.linkRow k (fun c => c.restoreLocked k))

/-- RESTORE_JOIN_BELL (R222). -/
def execRestoreJoinBell (k : Nat) (s : State) : Host.Outcome State Fault Refusal :=
  s.run (fun c => c.linkRow k (fun c => c.restoreJoinBell k))

/-- RESTORE_TIMEOUT (R222). -/
def execRestoreTimeout (k : Nat) (s : State) : Host.Outcome State Fault Refusal :=
  s.run (fun c => c.linkRow k (fun c => c.restoreTimeout k))

/-- VC_BUF_WRITE (R227) of a virtual channel's share. -/
def execVcBufWrite (src k vc n : Nat) (s : State) : Host.Outcome State Fault Refusal :=
  s.run (fun c => c.asWrite src F.AGL_VC_CFG_BUF k 0 (fun c => c.vcBufWrite k vc n))

/-- QUIET (R223) on a link. -/
def execQuiet (h : Vc7) (copy : Bool) (origin bell : Nat) (s : State) : Host.Outcome State Fault Refusal :=
  s.run (fun c => c.ctlRow h.k h.ack copy 0 (.quiet origin bell))

/-- LIVE (R223) on a link. -/
def execLive (h : Vc7) (copy : Bool) (s : State) : Host.Outcome State Fault Refusal :=
  s.run (fun c => c.ctlRow h.k h.ack copy 0 .live)

end Sys2Proof.Machine
end

