-- ==== Sys2Proof/Machine/ExecAlm.lean ====
section
/-!
DEFINITION. Machine/ExecAlm.lean: the meanings of the commands of almanacs, the thresher and chaff.
-/
namespace Sys2Proof.Machine

/-- LOAD (R75) of the context ALM_CTX selects. -/
def execLoad (src : Nat) (s : State) : Host.Outcome State Fault Refusal :=
  s.run (fun c => c.asWrite src F.ALM_CMD_CMD 0 0 (fun c => c.almLoad (c.rd F.ALM_CTX_CTX)))

/-- ADMIT (R78) of the context ALM_CTX selects. -/
def execAdmitAlmanac (src : Nat) (s : State) : Host.Outcome State Fault Refusal :=
  s.run (fun c => c.asWrite src F.ALM_CMD_CMD 0 0 (fun c => c.almAdmit (c.rd F.ALM_CTX_CTX)))

/-- ADMISSION_COMPLETE (R79) in a context. -/
def execAdmissionComplete (ctx : Nat) (s : State) : Host.Outcome State Fault Refusal :=
  s.run (fun c => c.admissionComplete ctx)

/-- RUN (R77) of the context ALM_CTX selects. -/
def execRun (src : Nat) (s : State) : Host.Outcome State Fault Refusal :=
  s.run (fun c => c.asWrite src F.ALM_CMD_CMD 0 0 (fun c => c.almRun (c.rd F.ALM_CTX_CTX)))

/-- STOP (R75) of the context ALM_CTX selects. -/
def execStop (src : Nat) (s : State) : Host.Outcome State Fault Refusal :=
  s.run (fun c => c.asWrite src F.ALM_CMD_CMD 0 0 (fun c => c.almStop (c.rd F.ALM_CTX_CTX)))

/-- UNLOAD (R75) of the context ALM_CTX selects. -/
def execUnload (src : Nat) (s : State) : Host.Outcome State Fault Refusal :=
  s.run (fun c => c.asWrite src F.ALM_CMD_CMD 0 0 (fun c => c.almUnload (c.rd F.ALM_CTX_CTX)))

/-- STOP_TAKES_EFFECT (R75) in a context. -/
def execStopTakesEffect (ctx : Nat) (s : State) : Host.Outcome State Fault Refusal :=
  s.run (fun c => c.stopTakesEffect ctx)

/-- START_BELL_REACHED (R77) in a context. -/
def execStartBellReached (ctx : Nat) (s : State) : Host.Outcome State Fault Refusal :=
  s.run (fun c => c.startBellReached ctx)

/-- REEVAL_HOLD (R75) in a context. -/
def execReevalHold (ctx : Nat) (s : State) : Host.Outcome State Fault Refusal :=
  s.run (fun c => c.reevalHold ctx)

/-- STAMPED_ENTRY_ISSUE (R63) in a context. -/
def execStampedEntryIssue (ctx : Nat) (s : State) : Host.Outcome State Fault Refusal :=
  s.run (fun c => c.stampedIssue ctx)

/-- LOCAL_ENTRY_ISSUE (R66) in a context. -/
def execLocalEntryIssue (ctx : Nat) (s : State) : Host.Outcome State Fault Refusal :=
  s.run (fun c => c.localIssue ctx)

/-- ALMANAC_CACHE_FILL (R60) of an entry. -/
def execAlmanacCacheFill (ctx idx : Nat) (s : State) : Host.Outcome State Fault Refusal :=
  s.run (fun c => c.cacheFill ctx idx)

/-- ENTRY_COMPLETE (R65) of an entry, with the memory errors it met. -/
def execEntryComplete (ctx idx : Nat) (ecc : List MemErr) (s : State) : Host.Outcome State Fault Refusal :=
  s.run (fun c => c.entryComplete ctx idx ecc)

/-- BELL_WAIT_FRAME_START (R64) in a context. -/
def execBellWaitFrameStart (ctx : Nat) (s : State) : Host.Outcome State Fault Refusal :=
  s.run (fun c => c.bellWaitStart ctx)

/-- OCCUPANCY_END_CHECK (R187) of an entry. -/
def execOccupancyEndCheck (ctx idx : Nat) (s : State) : Host.Outcome State Fault Refusal :=
  s.run (fun c => c.occupancyEndCheck ctx idx)

/-- TRANSFER_COMPLETE (R187) of a late entry. -/
def execTransferComplete (ctx idx : Nat) (s : State) : Host.Outcome State Fault Refusal :=
  s.run (fun c => c.transferComplete ctx idx)

/-- SHIFT_BOUNDARY (R85). -/
def execShiftBoundary (s : State) : Host.Outcome State Fault Refusal :=
  s.run (fun c => c.shiftBoundary)

/-- SPILL_DEADLINE (R134). -/
def execSpillDeadline (s : State) : Host.Outcome State Fault Refusal :=
  s.run (fun c => c.spillDeadlineReached)

/-- SLICE_SPILL_COMPLETE (R133) of the oldest spill under way. -/
def execSliceSpillComplete (s : State) : Host.Outcome State Fault Refusal :=
  s.run (fun c => c.spillComplete)

/-- SLICE_RESTORE_COMPLETE (R133) of the next slice of the incoming shift. -/
def execSliceRestoreComplete (s : State) : Host.Outcome State Fault Refusal :=
  s.run (fun c => c.restoreComplete)

/-- THR_APPLY (R90). -/
def execThrApply (src : Nat) (s : State) : Host.Outcome State Fault Refusal :=
  s.run (fun c => c.asWrite src F.THR_SHIFT_CMD_APPLY 0 0 (fun c => c.thrApply))

/-- THR_APPLY_RESULT (R90). -/
def execThrApplyResult (s : State) : Host.Outcome State Fault Refusal :=
  s.run (fun c => c.thrApplyResult)

/-- CHAFF_CLEAR (R125). -/
def execChaffClear (src : Nat) (s : State) : Host.Outcome State Fault Refusal :=
  s.run (fun c => c.asWrite src F.ARI_CHAFF_CMD_CLEAR 0 0 (fun c => c.chaffClearStart src))

/-- CHAFF_CLEAR_DONE (R125). -/
def execChaffClearDone (s : State) : Host.Outcome State Fault Refusal :=
  s.run (fun c => c.chaffClearDone)

/-- GEN_OUT_READ (R126): a read of ARI_GEN_OUT_LO. -/
def execGenOutRead (src : Nat) (s : State) : Host.Outcome State Fault Refusal :=
  s.run (fun c => c.busRead src (F.ARI_GEN_OUT_RBITS.page * 65536 + F.ARI_GEN_OUT_RBITS.off) 4)

end Sys2Proof.Machine
end

