-- ==== Sys2Proof/Machine/ExecBus.lean ====
section
/-!
DEFINITION. Machine/ExecBus.lean: the meanings of the commands of register accesses, GLB commands, modes and bells.
-/
namespace Sys2Proof.Machine

/-- REGISTER_WRITE (R9, R31–R48): a write of `size` bytes by requester `src` at an address of its BAR0, every byte enable set or not (`full`). -/
def execRegisterWrite (src addr : Nat) (size : BusSize) (v : Nat) (s : State) : Host.Outcome State Fault Refusal :=
  s.run (fun c => c.busWrite src addr size.bytes v size.full)

/-- RC_FIELD_READ (R11): a read of `size` bytes, every byte enable set or not (`full`); RC fields it covers clear. -/
def execRcFieldRead (src addr : Nat) (size : BusSize) (s : State) : Host.Outcome State Fault Refusal :=
  s.run (fun c => c.busRead src addr size.bytes size.full)

/-- PAIR_LO_READ (R39). -/
def execPairLoRead (src addr : Nat) (s : State) : Host.Outcome State Fault Refusal :=
  s.run (fun c => c.busRead src addr 4)

/-- PAIR_HI_READ (R39). -/
def execPairHiRead (src addr : Nat) (s : State) : Host.Outcome State Fault Refusal :=
  s.run (fun c => c.busRead src addr 4)

/-- PAIR_LO_WRITE (R40). -/
def execPairLoWrite (src addr v : Nat) (s : State) : Host.Outcome State Fault Refusal :=
  s.run (fun c => c.busWrite src addr 4 v)

/-- PAIR_HI_WRITE (R40). -/
def execPairHiWrite (src addr v : Nat) (s : State) : Host.Outcome State Fault Refusal :=
  s.run (fun c => c.busWrite src addr 4 v)

/-- VIOL_CLEAR (R47): 1 written to PAGE_STATUS.VIOL of a page. -/
def execViolClear (src page : Nat) (s : State) : Host.Outcome State Fault Refusal :=
  s.run (fun c => c.busWrite src (page * 65536 + F.PAGE_STATUS_VIOL.off) 4 1)

/-- GO_READY (R54). -/
def execGoReady (src : Nat) (s : State) : Host.Outcome State Fault Refusal :=
  s.run (fun c => c.asWrite src F.GLB_CMD_CMD 0 0 (fun c => c.goReady))

/-- GO_SAFE (R54). -/
def execGoSafe (src : Nat) (s : State) : Host.Outcome State Fault Refusal :=
  s.run (fun c => c.asWrite src F.GLB_CMD_CMD 0 0 (fun c => c.goSafe))

/-- MODE_REQUEST (R55): `v` is the word written to GLB_MODE. -/
def execModeRequest (src v : Nat) (s : State) : Host.Outcome State Fault Refusal :=
  s.run (fun c => c.asWrite src F.GLB_MODE_REQUEST 0 0 (fun c => c.modeWrite v))

/-- MODE_BELL_EVALUATION (R56). -/
def execModeBellEvaluation (s : State) : Host.Outcome State Fault Refusal :=
  s.run (fun c => c.modeEval)

/-- BELL_BOUNDARY (R5): the next bell boundary, with what the sensors give there. -/
def execBellBoundary (r : Sensors) (s : State) : Host.Outcome State Fault Refusal :=
  s.run (fun c => c.bellBoundary r)

end Sys2Proof.Machine
end

