-- ==== Sys2Proof/Machine/ExecClk.lean ====
section
/-!
DEFINITION. Machine/ExecClk.lean: the meanings of the commands of the bell clock, survey and HOLD.
-/
namespace Sys2Proof.Machine

/-- BELL_MARK_RECEIVE (R180) on a link, at an arrival time in 1/64 beat. -/
def execBellMarkReceive (h : Vc7) (m : Mark) (arrive : Nat) (s : State) : Host.Outcome State Fault Refusal :=
  s.run (fun c => c.ctlRow h.k h.ack false arrive (.bell m))

/-- UPSTREAM_LOSS (R175). -/
def execUpstreamLoss (s : State) : Host.Outcome State Fault Refusal :=
  s.run (fun c => c.upstreamLoss)

/-- LOCK_ACHIEVED (R173). -/
def execLockAchieved (s : State) : Host.Outcome State Fault Refusal :=
  s.run (fun c => c.lockAchieved)

/-- HOLDOVER_LIMIT (R176). -/
def execHoldoverLimit (s : State) : Host.Outcome State Fault Refusal :=
  s.run (fun c => c.holdoverLimit)

/-- TIMEKEEPER_TAKEOVER (R178). -/
def execTimekeeperTakeover (s : State) : Host.Outcome State Fault Refusal :=
  s.run (fun c => c.takeover)

/-- SURVEY_GO (R183). -/
def execSurveyGo (src : Nat) (s : State) : Host.Outcome State Fault Refusal :=
  s.run (fun c => c.asWrite src F.CLK_CTRL_SURVEY_GO 0 0 (fun c => c.surveyGo))

/-- RESURVEY (R185). -/
def execResurvey (src : Nat) (s : State) : Host.Outcome State Fault Refusal :=
  s.run (fun c => c.asWrite src F.CLK_CTRL_RESURVEY 0 0 (fun c => c.resurvey))

/-- SURVEY_REQ (R182) on a link: the sender's T1, and when it arrived. -/
def execSurveyReq (h : Vc7) (seq t1 arrive : Nat) (s : State) : Host.Outcome State Fault Refusal :=
  s.run (fun c => c.ctlRow h.k h.ack false arrive (.surveyReq seq t1))

/-- SURVEY_RSP (R182) on a link, arriving at t4. -/
def execSurveyRsp (h : Vc7) (seq t2 t3 t4 : Nat) (s : State) : Host.Outcome State Fault Refusal :=
  s.run (fun c => c.ctlRow h.k h.ack false t4 (.surveyRsp seq t2 t3))

/-- SURVEY_TIMEOUT (R183). -/
def execSurveyTimeout (s : State) : Host.Outcome State Fault Refusal :=
  s.run (fun c => c.surveyTimeout)

/-- HOLD (R189) on a link. -/
def execHold (h : Vc7Copy) (origin bell cause : Nat) (s : State) : Host.Outcome State Fault Refusal :=
  s.run (fun c => c.ctlRow h.k h.ack h.copy 0 (.hold origin bell cause))

/-- HOLD_BELL_REACHED (R189). -/
def execHoldBellReached (s : State) : Host.Outcome State Fault Refusal :=
  s.run (fun c => c.holdBellReached)

/-- READY (R190) on a link. -/
def execReady (h : Vc7Copy) (origin bell : Nat) (s : State) : Host.Outcome State Fault Refusal :=
  s.run (fun c => c.ctlRow h.k h.ack h.copy 0 (.ready origin bell))

/-- RESUME (R191) on a link. -/
def execResume (h : Vc7Copy) (holdBell resumeBell : Nat) (s : State) : Host.Outcome State Fault Refusal :=
  s.run (fun c => c.ctlRow h.k h.ack h.copy 0 (.resume holdBell resumeBell))

/-- RESUME_BELL_REACHED (R191). -/
def execResumeBellReached (s : State) : Host.Outcome State Fault Refusal :=
  s.run (fun c => c.resumeBellReached)

end Sys2Proof.Machine
end

