-- ==== Sys2Proof/Machine/ExecCmb.lean ====
section
/-!
DEFINITION. Machine/ExecCmb.lean: the meanings of the commands of combines.
-/
namespace Sys2Proof.Machine

/-- CHAIN_SETUP (R242) of sheaf `g` at a tree position, on channel 0 (stead) or 1 (tenant). -/
def execChainSetup (ch pos g : Nat) (s : State) : Host.Outcome State Fault Refusal :=
  s.run (fun c => c.inComb ch (fun c => c.chainSetup ch pos g))

/-- PRODUCED (R241): a sheaf's segments stand in a slot at a beat, or wait for one from then on (R240). -/
def execProduced (ch pos g beat : Nat) (s : State) : Host.Outcome State Fault Refusal :=
  s.run (fun c => c.inComb ch (fun c => c.produced ch pos g beat))

/-- ANCHORED (R241). -/
def execAnchored (ch pos g : Nat) (s : State) : Host.Outcome State Fault Refusal :=
  s.run (fun c => c.inComb ch (fun c => c.anchored ch pos g))

/-- ARRIVED (R241) at a level. -/
def execArrived (ch pos g level : Nat) (s : State) : Host.Outcome State Fault Refusal :=
  s.run (fun c => c.inComb ch (fun c => c.arrived ch pos g level))

/-- REDUCED (R249). -/
def execReduced (ch pos g : Nat) (s : State) : Host.Outcome State Fault Refusal :=
  s.run (fun c => c.inComb ch (fun c => c.reduced ch pos g))

/-- ROOT (R241). -/
def execRoot (ch pos g : Nat) (s : State) : Host.Outcome State Fault Refusal :=
  s.run (fun c => c.inComb ch (fun c => c.rootOp ch pos g))

/-- DOWN (R246). -/
def execDown (ch pos g : Nat) (s : State) : Host.Outcome State Fault Refusal :=
  s.run (fun c => c.inComb ch (fun c => c.downOp ch pos g))

/-- SENT (R241). -/
def execSent (ch pos g : Nat) (s : State) : Host.Outcome State Fault Refusal :=
  s.run (fun c => c.inComb ch (fun c => c.sentOp ch pos g))

/-- RELAY (R247) of a sheaf from module `origin`. -/
def execRelay (ch g origin : Nat) (s : State) : Host.Outcome State Fault Refusal :=
  s.run (fun c => c.inComb ch (fun c => c.relayOp ch g origin))

/-- COMBINE_DATA (R243, R247): the oldest combine frame of VC0 or VC4 on a link, DATA or RELAY. -/
def execCombineData (k vc : Nat) (s : State) : Host.Outcome State Fault Refusal :=
  s.run (fun c => c.linkRow k (fun c => c.inComb (if vc = 0 then 0 else 1) (fun c => c.combineTake k vc [1, 5])))

/-- ANCHOR_UP (R250). -/
def execAnchorUp (k vc : Nat) (s : State) : Host.Outcome State Fault Refusal :=
  s.run (fun c => c.linkRow k (fun c => c.inComb (if vc = 0 then 0 else 1) (fun c => c.combineTake k vc [2])))

/-- ANCHOR_DOWN (R250). -/
def execAnchorDown (k vc : Nat) (s : State) : Host.Outcome State Fault Refusal :=
  s.run (fun c => c.linkRow k (fun c => c.inComb (if vc = 0 then 0 else 1) (fun c => c.combineTake k vc [3])))

/-- GRANT (R257) on VC4. -/
def execGrant (k : Nat) (s : State) : Host.Outcome State Fault Refusal :=
  s.run (fun c => c.linkRow k (fun c => c.inComb 1 (fun c => c.combineTake k 4 [4])))

/-- WINDOW_PLACE_FREE (R240): a frame that waited for a place is taken. -/
def execWindowPlaceFree (k vc : Nat) (s : State) : Host.Outcome State Fault Refusal :=
  s.run (fun c => c.linkRow k (fun c => c.inComb (if vc = 0 then 0 else 1) (fun c => c.combineTake k vc [1, 2, 3, 4, 5])))

/-- TENANT_COMBINE_TIMEOUT (R258). -/
def execTenantCombineTimeout (s : State) : Host.Outcome State Fault Refusal :=
  s.run (fun c => c.tenantTimeout)

end Sys2Proof.Machine
end

