-- ==== Sys2Proof/Machine/ExecCph.lean ====
section
/-!
DEFINITION. Machine/ExecCph.lean: the meanings of the commands of keys and the cipher test.
-/
namespace Sys2Proof.Machine

/-- KEY_SEL_WRITE (R334): the manager, or an instance through its own page. -/
def execKeySelWrite (src kind slot : Nat) (s : State) : Host.Outcome State Fault Refusal :=
  s.run (fun c => c.keyWrite src F.KEY_SEL_KIND (fun c r => c.keySel r kind slot))

/-- KEY_DATA_WRITE (R334) of a word. -/
def execKeyDataWrite (src word v : Nat) (s : State) : Host.Outcome State Fault Refusal :=
  s.run (fun c => c.keyWrite src F.KEY_DATA_DATA (fun c r => c.keyData r word v) (4 * word))

/-- KEY_TWEAK_WRITE (R348) of a half. -/
def execKeyTweakWrite (src : Nat) (high : Bool) (v : Nat) (s : State) : Host.Outcome State Fault Refusal :=
  s.run (fun c => c.keyWrite src F.KEY_TWEAK_TWEAK_BASE (fun c r => c.keyTweak r high v) (4 * b2n high))

/-- KEY_COMMIT (R335). -/
def execKeyCommit (src : Nat) (s : State) : Host.Outcome State Fault Refusal :=
  s.run (fun c => c.keyWrite src F.KEY_CMD_CMD (fun c r => c.keyCommit r))

/-- ZEROISE (R336). -/
def execZeroise (src : Nat) (s : State) : Host.Outcome State Fault Refusal :=
  s.run (fun c => c.keyWrite src F.KEY_CMD_CMD (fun c r => c.zeroise r))

/-- CIPHER_TEST (R347). -/
def execCipherTest (src : Nat) (s : State) : Host.Outcome State Fault Refusal :=
  s.run (fun c => c.asWrite src F.CPH_TEST_RUN 0 0 (fun c => c.cipherTest))

/-- CIPHER_TEST_RESULT (R347): the halves that failed. -/
def execCipherTestResult (result : Nat) (s : State) : Host.Outcome State Fault Refusal :=
  s.run (fun c => c.cipherTestResult result)

end Sys2Proof.Machine
end

