-- ==== Sys2Proof/Machine/ExecEth.lean ====
section
/-!
DEFINITION. Machine/ExecEth.lean: the meanings of the commands of Ethernet ports.
-/
namespace Sys2Proof.Machine

/-- ETH_FRAME_RECEIVE (R310) on a port and sub-port: the frame's bytes from the destination address to the frame check sequence, the 1/64 of a beat it
comes in (R317), and of a frame in fragments whether it was reassembled. -/
def execEthFrameReceive (p q : Nat) (bytes : List Byte) (phase : Nat) (parts : Option Bool) (s : State) : Host.Outcome State Fault Refusal :=
  s.run (fun c => c.ethRow p q (fun c => c.ethReceive p q bytes phase parts))

/-- ETH_RX_BUFFER_RELEASE (R313) of a priority's oldest frame; a packet that no ORT row performs is discarded first. -/
def execEthRxBufferRelease (p q prio : Nat) (s : State) : Host.Outcome State Fault Refusal :=
  s.run (fun c => c.ethRow p q (fun c => (c.discardHead (.eth p q prio)).ethRelease p q prio))

/-- XOFF_REPEAT_TIMER (R313). -/
def execXoffRepeatTimer (p q prio : Nat) (s : State) : Host.Outcome State Fault Refusal :=
  s.run (fun c => c.ethRow p q (fun c => c.xoffRepeat p q prio))

/-- PFC_FRAME_RECEIVE (R314): quanta by priority. -/
def execPfcFrameReceive (p q : Nat) (quanta : List (Nat × Nat)) (s : State) : Host.Outcome State Fault Refusal :=
  s.run (fun c => c.ethRow p q (fun c => c.pfcReceive p q quanta))

/-- PAUSE_EXPIRY (R314). -/
def execPauseExpiry (p q prio : Nat) (s : State) : Host.Outcome State Fault Refusal :=
  s.run (fun c => c.ethRow p q (fun c => c.pauseExpiry p q prio))

/-- STORM_DETECT (R315). -/
def execStormDetect (p q prio : Nat) (s : State) : Host.Outcome State Fault Refusal :=
  s.run (fun c => c.ethRow p q (fun c => c.stormDetect p q prio))

/-- ETH_TRANSMIT_SELECT (R328). -/
def execEthTransmitSelect (p q : Nat) (s : State) : Host.Outcome State Fault Refusal :=
  s.run (fun c => c.ethRow p q (fun c => c.ethSelect p q))

/-- ETH_LINK_UP (R316). -/
def execEthLinkUp (p q : Nat) (s : State) : Host.Outcome State Fault Refusal :=
  s.run (fun c => c.ethRow p q (fun c => c.ethLinkUp p q))

/-- ETH_LINK_DOWN (R311). -/
def execEthLinkDown (p q : Nat) (s : State) : Host.Outcome State Fault Refusal :=
  s.run (fun c => c.ethRow p q (fun c => c.ethLinkDown p q))

/-- ETH_AN_RETRY (R308). -/
def execEthAnRetry (p q : Nat) (s : State) : Host.Outcome State Fault Refusal :=
  s.run (fun c => c.ethRow p q (fun c => c.anRetry p q))

/-- VERIFY_RESTART (R316). -/
def execVerifyRestart (src p q : Nat) (s : State) : Host.Outcome State Fault Refusal :=
  s.run (fun c => c.asWrite src F.ETH_PREEMPT_VERIFY_RESTART p q (fun c => c.verifyRestart p q))

/-- VERIFY_ATTEMPT_END (R316). -/
def execVerifyAttemptEnd (p q : Nat) (ok : Bool) (s : State) : Host.Outcome State Fault Refusal :=
  s.run (fun c => c.ethRow p q (fun c => c.verifyEnd p q ok))

/-- TMAP_COMMIT (R318). -/
def execTmapCommit (src p : Nat) (s : State) : Host.Outcome State Fault Refusal :=
  s.run (fun c => c.asWrite src F.ETH_TMAP_CTRL_COMMIT p 0 (fun c => c.tmapCommit p))

/-- TMAP_VALID_TIMEOUT (R318). -/
def execTmapValidTimeout (p : Nat) (s : State) : Host.Outcome State Fault Refusal :=
  s.run (fun c => c.ethRow p 0 (fun c => c.tmapTimeout p))

/-- PPS_OUT_SECOND (R319). -/
def execPpsOutSecond (s : State) : Host.Outcome State Fault Refusal :=
  s.run (fun c => c.ppsSecond)

/-- PPS_IN_EDGE (R319) on a GP pin. -/
def execPpsInEdge (pin : Nat) (s : State) : Host.Outcome State Fault Refusal :=
  s.run (fun c => c.ppsIn pin)

/-- GATE_CHANGE (R323). -/
def execGateChange (src p q : Nat) (s : State) : Host.Outcome State Fault Refusal :=
  s.run (fun c => c.asWrite src F.ETH_GATE_CTRL_CHANGE p q (fun c => c.gateChange p q))

/-- GATE_ADMISSION_COMPLETE (R323). -/
def execGateAdmissionComplete (p q : Nat) (s : State) : Host.Outcome State Fault Refusal :=
  s.run (fun c => c.ethRow p q (fun c => c.gateAdmitted p q))

/-- GATE_LIST_SWAP (R324). -/
def execGateListSwap (p q : Nat) (s : State) : Host.Outcome State Fault Refusal :=
  s.run (fun c => c.ethRow p q (fun c => c.gateSwap p q))

/-- GATE_ENTRY_ADVANCE (R321). -/
def execGateEntryAdvance (p q : Nat) (s : State) : Host.Outcome State Fault Refusal :=
  s.run (fun c => c.ethRow p q (fun c => c.gateAdvance p q))

/-- SHAPER_APPLY (R327). -/
def execShaperApply (src p : Nat) (s : State) : Host.Outcome State Fault Refusal :=
  s.run (fun c => c.asWrite src F.ETH_SHP_CMD_APPLY p 0 (fun c => c.shaperApply p))

end Sys2Proof.Machine
end

