-- ==== Sys2Proof/Machine/ExecFlt.lean ====
section
/-!
DEFINITION. Machine/ExecFlt.lean: the meanings of the commands of faults and twins.
-/
namespace Sys2Proof.Machine

/-- FAULT_INTERRUPT (R413). -/
def execFaultInterrupt (s : State) : Host.Outcome State Fault Refusal :=
  s.run (fun c => c.faultInterrupt)

/-- FORCE_WRITE (R409) of a source. -/
def execForceWrite (src source : Nat) (v : Bool) (s : State) : Host.Outcome State Fault Refusal :=
  s.run (fun c => c.asWriteElem src F.FLT_FORCE_FORCE (source / 32) (fun c => c.setForce source v))

/-- SRC_CFG_WRITE (R412) of the selected source. -/
def execSrcCfgWrite (src cls n w : Nat) (s : State) : Host.Outcome State Fault Refusal :=
  s.run (fun c => c.asWrite src F.FLT_SRC_CFG_CLASS 0 0 (fun c => c.setSrcCfg (c.rd F.FLT_SRC_SEL_SOURCE) cls n w))

/-- HEARTBEAT (R419) on a link. -/
def execHeartbeat (h : Vc7) (b : Heartbeat) (s : State) : Host.Outcome State Fault Refusal :=
  s.run (fun c => c.ctlRow h.k h.ack false 0 (.heartbeat b))

/-- HEARTBEAT_MISSING (R419). -/
def execHeartbeatMissing (s : State) : Host.Outcome State Fault Refusal :=
  s.run (fun c => c.heartbeatMissing)

/-- SUBSTITUTION_ANNOUNCE (R421): the oldest announcement on a link. -/
def execSubstitutionAnnounce (k : Nat) (s : State) : Host.Outcome State Fault Refusal :=
  s.run (fun c => c.linkRow k (fun c => c.substAnnounce k))

/-- SWITCH_BELL (R421), with the entries the carrier re-issues (R423). -/
def execSwitchBell (reissue : List Nat) (s : State) : Host.Outcome State Fault Refusal :=
  s.run (fun c => c.switchBell reissue)

/-- MIRROR_WRITE_RECEIVE (R420): the oldest mirror frame on a link. -/
def execMirrorWriteReceive (k : Nat) (s : State) : Host.Outcome State Fault Refusal :=
  s.run (fun c => c.linkRow k (fun c => c.mirrorWriteReceive k))

/-- TWIN_CTRL_WRITE (R420). -/
def execTwinCtrlWrite (src v : Nat) (s : State) : Host.Outcome State Fault Refusal :=
  s.run (fun c => c.asWrite src F.FLT_TWIN_CTRL_MIRROR 0 0 (fun c => c.twinCtrlWrite v))

/-- LIFT (R422). -/
def execLift (src : Nat) (s : State) : Host.Outcome State Fault Refusal :=
  s.run (fun c => c.asWrite src F.FLT_TWIN_CMD_CMD 0 0 (fun c => c.lift src))

/-- ATTACH (R425). -/
def execAttach (src : Nat) (s : State) : Host.Outcome State Fault Refusal :=
  s.run (fun c => c.asWrite src F.FLT_TWIN_CMD_CMD 0 0 (fun c => c.attach src))

/-- CANCEL (R426). -/
def execCancel (src : Nat) (s : State) : Host.Outcome State Fault Refusal :=
  s.run (fun c => c.asWrite src F.FLT_TWIN_CMD_CMD 0 0 (fun c => c.cancel src))

/-- RECOVERED (R423). -/
def execRecovered (src : Nat) (s : State) : Host.Outcome State Fault Refusal :=
  s.run (fun c => c.asWrite src F.FLT_TWIN_CMD_CMD 0 0 (fun c => c.recovered))

/-- TWIN_COPY_COMPLETE (R422). -/
def execTwinCopyComplete (s : State) : Host.Outcome State Fault Refusal :=
  s.run (fun c => c.twinCopyComplete)

/-- LIFT_DRAIN_COMPLETE (R422). -/
def execLiftDrainComplete (s : State) : Host.Outcome State Fault Refusal :=
  s.run (fun c => c.liftDrainComplete)

end Sys2Proof.Machine
end

