-- ==== Sys2Proof/Machine/ExecFw.lean ====
section
/-!
DEFINITION. Machine/ExecFw.lean: the meanings of the commands of firmware, boot, power and the governor.
-/
namespace Sys2Proof.Machine

/-- WATCHDOG_CORE0_EXPIRY (R379). -/
def execWatchdogCore0Expiry (s : State) : Host.Outcome State Fault Refusal :=
  s.run (fun c => c.watchdog 0)

/-- WATCHDOG_EXPIRY (R379) of a core 1–15. -/
def execWatchdogExpiry (core : Nat) (s : State) : Host.Outcome State Fault Refusal :=
  s.run (fun c => if core = 0 then c else c.watchdog core)

/-- CORE_RESTART_COMPLETE (R378). -/
def execCoreRestartComplete (core : Nat) (s : State) : Host.Outcome State Fault Refusal :=
  s.run (fun c => c.coreRestarted core)

/-- CORE_RESET (R403) of the selected core. -/
def execCoreReset (src : Nat) (s : State) : Host.Outcome State Fault Refusal :=
  s.run (fun c => c.asWrite src F.RST_CORE_RESET 0 0 (fun c => c.coreReset (c.rd F.RST_CORE_SEL_CORE)))

/-- MODULE_RESET (R404), with the key. -/
def execModuleReset (src : Nat) (s : State) : Host.Outcome State Fault Refusal :=
  s.run (fun c => c.asWrite src F.RST_CMD_CMD 0 0 (fun c => c.moduleReset src))

/-- AUX_POWER_GOOD (R436). -/
def execAuxPowerGood (s : State) : Host.Outcome State Fault Refusal :=
  s.run (fun c => c.auxGood)

/-- MAIN_POWER_LOSS (R436): the supplies that fell. -/
def execMainPowerLoss (main aux : Bool) (s : State) : Host.Outcome State Fault Refusal :=
  s.run (fun c => c.mainLoss main aux)

/-- MAIN_POWER_RETURN (R436). -/
def execMainPowerReturn (s : State) : Host.Outcome State Fault Refusal :=
  s.run (fun c => c.mainReturn)

/-- BOOT_ROM_CHECKS_DONE (R387). -/
def execBootRomChecksDone (s : State) : Host.Outcome State Fault Refusal :=
  s.run (fun c => c.bootRomDone)

/-- IMAGE_VERIFY_DONE (R386). -/
def execImageVerifyDone (s : State) : Host.Outcome State Fault Refusal :=
  s.run (fun c => c.imageVerifyDone)

/-- SETTINGS_RECORD_READ (R390), with or without a flash error. -/
def execSettingsRecordRead (bad : Bool) (s : State) : Host.Outcome State Fault Refusal :=
  s.run (fun c => c.settingsRead bad)

/-- MAIN_RAILS_SEQUENCED (R380). -/
def execMainRailsSequenced (s : State) : Host.Outcome State Fault Refusal :=
  s.run (fun c => c.railsSequenced)

/-- DIE_RESETS_RELEASED (R380). -/
def execDieResetsReleased (s : State) : Host.Outcome State Fault Refusal :=
  s.run (fun c => c.diesReleased)

/-- BOOT_COMPLETE (R380). -/
def execBootComplete (s : State) : Host.Outcome State Fault Refusal :=
  s.run (fun c => c.bootComplete)

/-- KA_ACK (R450). -/
def execKaAck (src v : Nat) (s : State) : Host.Outcome State Fault Refusal :=
  s.run (fun c => c.asWrite src F.MGT_KA_ACK_KEY 0 0 (fun c => c.kaAck src v))

/-- STAGE (R394). -/
def execStage (src : Nat) (s : State) : Host.Outcome State Fault Refusal :=
  s.run (fun c => c.asWrite src F.FWC_CMD_CMD 0 0 (fun c => c.stage_ src))

/-- STAGE_COMPLETE (R402): 0 written, 1 the host read failed, 2 the flash failed. -/
def execStageComplete (fail : Nat) (s : State) : Host.Outcome State Fault Refusal :=
  s.run (fun c => c.stageComplete fail)

/-- VERIFY (R386). -/
def execVerify (src : Nat) (s : State) : Host.Outcome State Fault Refusal :=
  s.run (fun c => c.asWrite src F.FWC_CMD_CMD 0 0 (fun c => c.verify_))

/-- ACTIVATE_LIVE (R395). -/
def execActivateLive (src : Nat) (s : State) : Host.Outcome State Fault Refusal :=
  s.run (fun c => c.asWrite src F.FWC_CMD_CMD 0 0 (fun c => c.activateLive))

/-- LIVE_LOAD_COMPLETE (R394). -/
def execLiveLoadComplete (s : State) : Host.Outcome State Fault Refusal :=
  s.run (fun c => c.liveLoaded)

/-- HANDOFF_BELL (R394). -/
def execHandoffBell (s : State) : Host.Outcome State Fault Refusal :=
  s.run (fun c => c.handoff)

/-- CORE_RESUME_REPORT (R394). -/
def execCoreResumeReport (core : Nat) (s : State) : Host.Outcome State Fault Refusal :=
  s.run (fun c => c.resumeReport core)

/-- HANDOFF_TIMEOUT (R398). -/
def execHandoffTimeout (s : State) : Host.Outcome State Fault Refusal :=
  s.run (fun c => c.handoffTimeout)

/-- ACTIVATE_NEXT (R387). -/
def execActivateNext (src : Nat) (s : State) : Host.Outcome State Fault Refusal :=
  s.run (fun c => c.asWrite src F.FWC_CMD_CMD 0 0 (fun c => c.activateNext))

/-- ABANDON (R398). -/
def execAbandon (src : Nat) (s : State) : Host.Outcome State Fault Refusal :=
  s.run (fun c => c.asWrite src F.FWC_CMD_CMD 0 0 (fun c => c.abandonCmd))

/-- SET_WRITE (R391). -/
def execSetWrite (src : Nat) (s : State) : Host.Outcome State Fault Refusal :=
  s.run (fun c => c.asWrite src F.FWC_CMD_CMD 0 0 (fun c => c.setWrite src))

/-- SET_WRITE_COMPLETE (R391), with or without a flash error. -/
def execSetWriteComplete (bad : Bool) (s : State) : Host.Outcome State Fault Refusal :=
  s.run (fun c => c.setWriteDone bad)

/-- PROGRAM_PAGE (R394). -/
def execProgramPage (src : Nat) (s : State) : Host.Outcome State Fault Refusal :=
  s.run (fun c => c.asWrite src F.FWC_CMD_CMD 0 0 (fun c => c.programPage))

/-- RAISE_SVN (R386). -/
def execRaiseSvn (src : Nat) (s : State) : Host.Outcome State Fault Refusal :=
  s.run (fun c => c.asWrite src F.FWC_CMD_CMD 0 0 (fun c => c.raiseSvn src))

/-- GOVERNOR_POWER_LIMIT (R399). -/
def execGovernorPowerLimit (s : State) : Host.Outcome State Fault Refusal :=
  s.run (fun c => c.govPower)

/-- GOVERNOR_SKIP_END (R399): thresher cycles skipped meanwhile. -/
def execGovernorSkipEnd (n : Nat) (s : State) : Host.Outcome State Fault Refusal :=
  s.run (fun c => c.govEnd n)

/-- OVERCURRENT (R399). -/
def execOvercurrent (s : State) : Host.Outcome State Fault Refusal :=
  s.run (fun c => c.overcurrent)

/-- JUNCTION_TEMP_LIMIT (R399): 105 °C, or 95 °C. -/
def execJunctionTempLimit (max : Bool) (s : State) : Host.Outcome State Fault Refusal :=
  s.run (fun c => c.junction max)

/-- CRIB_TEMP_LIMIT (R399). -/
def execCribTempLimit (s : State) : Host.Outcome State Fault Refusal :=
  s.run (fun c => c.cribHot)

/-- RAIL_OUT_OF_LIMIT (R399). -/
def execRailOutOfLimit (s : State) : Host.Outcome State Fault Refusal :=
  s.run (fun c => c.railBad)

end Sys2Proof.Machine
end

