-- ==== Sys2Proof/Machine/ExecHst.lean ====
section
/-!
DEFINITION. Machine/ExecHst.lean: the meanings of the commands of the host port, mailboxes and instances.
-/
namespace Sys2Proof.Machine

/-- BAR4_ACCESS (R352): a read of `len` bytes, or a write of bytes with their enables, and the memory errors met. -/
def execBar4Access (off len : Nat) (data : Option (List (Option Byte))) (errs : List MemErr) (s : State) : Host.Outcome State Fault Refusal :=
  s.run (fun c => c.bar4Access off len data errs)

/-- CXL_MEM_ACCESS (R353). -/
def execCxlMemAccess (addr len : Nat) (data : Option (List (Option Byte))) (errs : List MemErr) (s : State) : Host.Outcome State Fault Refusal :=
  s.run (fun c => c.cxlAccess addr len data errs)

/-- APERTURE_ACCESS (R354) through an instance's VF BAR4. -/
def execApertureAccess (ins off len : Nat) (data : Option (List (Option Byte))) (errs : List MemErr) (s : State) : Host.Outcome State Fault Refusal :=
  s.run (fun c => c.apertureAccess ins off len data errs)

/-- WINDOW_BASE_WRITE (R352). -/
def execWindowBaseWrite (src v : Nat) (s : State) : Host.Outcome State Fault Refusal :=
  s.run (fun c => c.asWrite src F.HST_WIN_BASE_BASE 0 0 (fun c => c.winBaseWrite v))

/-- ATOMICOP_REQUEST (R350). -/
def execAtomicopRequest (fn addr : Nat) (s : State) : Host.Outcome State Fault Refusal :=
  s.run (fun c => c.atomicRequest fn addr)

/-- CONFIG_REQUEST (R382). -/
def execConfigRequest (w : CfgWrite) (s : State) : Host.Outcome State Fault Refusal :=
  s.run (fun c => c.configRequest w)

/-- HOST_LINK_UP (R382). -/
def execHostLinkUp (speed width : Nat) (s : State) : Host.Outcome State Fault Refusal :=
  s.run (fun c => c.linkUpHost speed width)

/-- PERST_ASSERT (R383). -/
def execPerstAssert (s : State) : Host.Outcome State Fault Refusal :=
  s.run (fun c => c.perstAssert)

/-- PERST_DEASSERT (R382). -/
def execPerstDeassert (s : State) : Host.Outcome State Fault Refusal :=
  s.run (fun c => c.perstDeassert)

/-- PF_FLR (R373). -/
def execPfFlr (s : State) : Host.Outcome State Fault Refusal :=
  s.run (fun c => c.pfFlr)

/-- VF_FLR (R371). -/
def execVfFlr (ins : Nat) (s : State) : Host.Outcome State Fault Refusal :=
  s.run (fun c => c.vfFlr ins)

/-- HOST_READ_ERROR (R357): the range read, and the error: 1 Unsupported Request, 2 Completer Abort, 3 timeout, 4 poison. -/
def execHostReadError (addr len kind : Nat) (s : State) : Host.Outcome State Fault Refusal :=
  s.run (fun c => c.hostReadError addr len kind)

/-- P2P_PROBE (R363) of the selected window. -/
def execP2pProbe (src : Nat) (s : State) : Host.Outcome State Fault Refusal :=
  s.run (fun c => c.asWrite src F.HST_P2P_CTRL_PROBE 0 0 (fun c => c.p2pProbe (c.rd F.HST_P2P_SEL_WINDOW)))

/-- P2P_PROBE_RESULT (R363): 0 success, 1 and 2 an error, 3 none within 10 ms. -/
def execP2pProbeResult (window cpl : Nat) (s : State) : Host.Outcome State Fault Refusal :=
  s.run (fun c => c.p2pResult window cpl)

/-- FENCE_CONDITION_MET (R361) of a FENCE entry. -/
def execFenceConditionMet (ctx idx : Nat) (s : State) : Host.Outcome State Fault Refusal :=
  s.run (fun c => c.fenceMet ctx idx)

/-- MB_H2R_PROD_WRITE (R365) by the manager, or an instance for its own mailbox. -/
def execMbH2rProdWrite (src v : Nat) (s : State) : Host.Outcome State Fault Refusal :=
  s.run (fun c =>
    if src < 512 then c.asWrite src F.INS_MB_H2R_PROD src 0 (fun c => c.h2rProdWrite src v) else c.asWrite src F.HST_MB_H2R_PROD 0 0 (fun c => c.h2rProdWrite 512 v))

/-- MB_HOST_CONS_WRITE (R365). -/
def execMbHostConsWrite (src v : Nat) (s : State) : Host.Outcome State Fault Refusal :=
  s.run (fun c =>
    if src < 512 then c.asWrite src F.INS_MB_R2H_CONS src 0 (fun c => c.r2hConsWrite src v) else c.asWrite src F.HST_MB_R2H_CONS 0 0 (fun c => c.r2hConsWrite 512 v))

/-- HELLO (R392) at the head of an owner's mailbox. -/
def execHello (owner : Nat) (s : State) : Host.Outcome State Fault Refusal :=
  s.run (fun c => c.mbHello owner)

/-- PING (R367). -/
def execPing (owner : Nat) (s : State) : Host.Outcome State Fault Refusal :=
  s.run (fun c => c.mbPing owner)

/-- INFO (R367). -/
def execInfo (owner : Nat) (s : State) : Host.Outcome State Fault Refusal :=
  s.run (fun c => c.mbInfo owner)

/-- MAILBOX_MALFORMED (R367). -/
def execMailboxMalformed (owner : Nat) (s : State) : Host.Outcome State Fault Refusal :=
  s.run (fun c => c.mbMalformed owner)

/-- RELAY_SEND (R368). -/
def execRelaySend (s : State) : Host.Outcome State Fault Refusal :=
  s.run (fun c => c.relayStart)

/-- RELAY_FRAME_RECEIVE (R368) on a link. -/
def execRelayFrameReceive (k : Nat) (s : State) : Host.Outcome State Fault Refusal :=
  s.run (fun c => c.linkRow k (fun c => c.relayReceive k))

/-- RELAY_ACK_RECEIVE (R368) on a link. -/
def execRelayAckReceive (k : Nat) (s : State) : Host.Outcome State Fault Refusal :=
  s.run (fun c => c.linkRow k (fun c => c.relayAck k))

/-- RELAY_RESEND_TIMER (R368). -/
def execRelayResendTimer (s : State) : Host.Outcome State Fault Refusal :=
  s.run (fun c => c.relayTimer)

/-- INS_ENABLE (R369). -/
def execInsEnable (src ins : Nat) (v : Bool) (s : State) : Host.Outcome State Fault Refusal :=
  s.run (fun c => c.asWrite src F.INS_CTRL_ENABLE ins 0 (fun c => c.insEnable ins v))

/-- INS_RESET (R371). -/
def execInsReset (src ins : Nat) (s : State) : Host.Outcome State Fault Refusal :=
  s.run (fun c => c.asWrite src F.INS_CTRL_RESET ins 0 (fun c => c.insResetCmd ins))

/-- VF_ENABLE_CHANGE (R369): VFs enabled. -/
def execVfEnableChange (n : Nat) (s : State) : Host.Outcome State Fault Refusal :=
  s.run (fun c => c.vfEnable n)

/-- QP_DRAIN_END (R371). -/
def execQpDrainEnd (qpn : Nat) (s : State) : Host.Outcome State Fault Refusal :=
  s.run (fun c => c.qpDrainEnd qpn)

/-- RESET_SQUASH (R371). -/
def execResetSquash (ins : Nat) (s : State) : Host.Outcome State Fault Refusal :=
  s.run (fun c => c.resetSquash ins)

/-- INSTANCE_QUOTA_WRITE (R370): INS_QUOTA_Q (0), INS_QUOTA_QP (1) or INS_QUOTA_KEY (2). -/
def execInstanceQuotaWrite (src ins reg v : Nat) (s : State) : Host.Outcome State Fault Refusal :=
  s.run (fun c => c.asWrite src (quotaReg reg) ins 0 (fun c => c.quotaWrite ins reg v))

end Sys2Proof.Machine
end

