-- ==== Sys2Proof/Machine/ExecMem.lean ====
section
/-!
DEFINITION. Machine/ExecMem.lean: the meanings of the commands of memory units, translation, prefetch, loft.
-/
namespace Sys2Proof.Machine

/-- MEMORY_TRAINING_COMPLETE (R141): how a training of a unit ended, and its time for TRAIN_TIME. -/
def execMemoryTrainingComplete (u : TrainUnit) (kind : TrainKind) (time : Nat) (s : State) : Host.Outcome State Fault Refusal :=
  s.run (fun c => c.memoryTrainingComplete u kind time)

/-- UNIT_OUT (R167). -/
def execUnitOut (src : Nat) (u : MemUnit) (s : State) : Host.Outcome State Fault Refusal :=
  s.run (fun c => c.asWrite src u.ctrl.1 u.ctrl.2 0 (fun c => c.unitOut u))

/-- UNIT_RETURN (R142). -/
def execUnitReturn (src : Nat) (u : MemUnit) (s : State) : Host.Outcome State Fault Refusal :=
  s.run (fun c => c.asWrite src u.ctrl.1 u.ctrl.2 0 (fun c => c.unitReturn u))

/-- TRANSLATION_MISS (R148) of an access by a requester, with or without STALL. -/
def execTranslationMiss (space va : Nat) (acs : Acs) (requester : Nat) (stall : Bool) (s : State) : Host.Outcome State Fault Refusal :=
  s.run (fun c => c.translationMiss { space := space, va := va, acs := acs, requester := requester, stall := stall, waiter := .none })

/-- WALK_COMPLETE (R145) of the oldest walk. -/
def execWalkComplete (s : State) : Host.Outcome State Fault Refusal :=
  s.run (fun c => c.walkComplete)

/-- FAULT_QUEUE_WRITE (R156) of a space's oldest waiting message; the notice of a PREFETCH completes it (R162). -/
def execFaultQueueWrite (space : Nat) (s : State) : Host.Outcome State Fault Refusal :=
  s.run (fun c => ((c.faultQueueWrite space).prefetchNoticed space))

/-- FQ_CONS_WRITE (R156) in the space XLT_SEL selects. -/
def execFqConsWrite (src v : Nat) (s : State) : Host.Outcome State Fault Refusal :=
  s.run (fun c => c.asWrite src F.XLT_FQ_CONS_INDEX 0 0 (fun c => c.fqConsWrite (c.rd F.XLT_SEL_SPACE) v))

/-- FAULT_REPLY_RETRY (R158). -/
def execFaultReplyRetry (src space id : Nat) (s : State) : Host.Outcome State Fault Refusal :=
  s.run (fun c => c.asWrite src F.XLT_FQ_REPLY_ACTION 0 0 (fun c => c.faultReply space id true))

/-- FAULT_REPLY_FAIL (R158). -/
def execFaultReplyFail (src space id : Nat) (s : State) : Host.Outcome State Fault Refusal :=
  s.run (fun c => c.asWrite src F.XLT_FQ_REPLY_ACTION 0 0 (fun c => c.faultReply space id false))

/-- FAULT_REPLY_TIMEOUT (R158) of a space's oldest request. -/
def execFaultReplyTimeout (space : Nat) (s : State) : Host.Outcome State Fault Refusal :=
  s.run (fun c => c.faultTimeout space)

/-- INVALIDATE_GO (R152). -/
def execInvalidateGo (src : Nat) (all : Bool) (s : State) : Host.Outcome State Fault Refusal :=
  s.run (fun c =>
    c.asWrite src F.XLT_INV_CMD_GO 0 0 (fun c => (c.wr F.XLT_INV_CMD_ALL (b2n all)).invalidateGo (c.rd F.XLT_SEL_SPACE) all (c.rd F.XLT_INV_VA_VA) (c.rd F.XLT_INV_SIZE_PAGES)))

/-- INVALIDATE_COMPLETE (R152) of the oldest accepted invalidate. -/
def execInvalidateComplete (s : State) : Host.Outcome State Fault Refusal :=
  s.run (fun c => c.invalidateComplete)

/-- POOL_PROD_WRITE (R170). -/
def execPoolProdWrite (src v : Nat) (s : State) : Host.Outcome State Fault Refusal :=
  s.run (fun c => c.asWrite src F.XLT_POOL_PROD_INDEX 0 0 (fun c => c.poolProdWrite (c.rd F.XLT_SEL_SPACE) (c.rd F.XLT_POOL_SEL_POOL) v))

/-- PREFETCH (R161) at the head of an owner's admin queue. -/
def execPrefetch (owner : Nat) (s : State) : Host.Outcome State Fault Refusal :=
  s.run (fun c => c.prefetch owner)

/-- PREFETCH_PAGE_DONE (R162) of a space's prefetch. -/
def execPrefetchPageDone (space : Nat) (s : State) : Host.Outcome State Fault Refusal :=
  s.run (fun c => c.prefetchPage space)

/-- ADVISE (R164) at the head of an owner's admin queue. -/
def execAdvise (owner : Nat) (s : State) : Host.Outcome State Fault Refusal :=
  s.run (fun c => c.advise owner)

/-- LOFT_QUOTA_WRITE (R166). -/
def execLoftQuotaWrite (src q : Nat) (s : State) : Host.Outcome State Fault Refusal :=
  s.run (fun c => c.asWrite src F.LFT_QUOTA_QUOTA 0 0 (fun c => c.loftQuotaWrite (c.rd F.LFT_SEL_INSTANCE) q))

/-- SPILL_REGION_WRITE (R166). -/
def execSpillRegionWrite (src base : Nat) (s : State) : Host.Outcome State Fault Refusal :=
  s.run (fun c => c.asWrite src F.LFT_SPILL_BASE 0 0 (fun c => c.spillRegionWrite (c.rd F.LFT_SEL_INSTANCE) base))

end Sys2Proof.Machine
end

