-- ==== Sys2Proof/Machine/ExecMgt.lean ====
section
/-!
DEFINITION. Machine/ExecMgt.lean: the meanings of the commands of the keep-alive domain, pins and sideband.
-/
namespace Sys2Proof.Machine

/-- KA_SENSE_SAMPLE (R429): what the sense inputs show. -/
def execKaSenseSample (leak lid : Bool) (s : State) : Host.Outcome State Fault Refusal :=
  s.run (fun c => c.kaSample leak lid)

/-- KA_CAPACITOR_LOST (R430). -/
def execKaCapacitorLost (s : State) : Host.Outcome State Fault Refusal :=
  s.run (fun c => c.kaLost)

/-- LEAK_SENSE (R406). -/
def execLeakSense (s : State) : Host.Outcome State Fault Refusal :=
  s.run (fun c => c.senseAssert false)

/-- LID_OPEN (R406). -/
def execLidOpen (s : State) : Host.Outcome State Fault Refusal :=
  s.run (fun c => c.senseAssert true)

/-- LEAK_IN_SAMPLE (R441) of a GP pin. -/
def execLeakInSample (pin : Nat) (low : Bool) (s : State) : Host.Outcome State Fault Refusal :=
  s.run (fun c => c.leakInSample pin low)

/-- GP_FUNC_WRITE (R443) of a pin. -/
def execGpFuncWrite (src pin f : Nat) (s : State) : Host.Outcome State Fault Refusal :=
  s.run (fun c => if 16 ≤ pin then c else c.asWrite src (gpReg pin) 0 0 (fun c => c.gpFuncWrite pin f))

/-- GP_HOLD_END (R443) of a pin. -/
def execGpHoldEnd (pin : Nat) (s : State) : Host.Outcome State Fault Refusal :=
  s.run (fun c => c.gpHoldEnd pin)

/-- SPI_WRITE (R445): the whole words of a transaction. -/
def execSpiWrite (addr : Nat) (words : List Nat) (s : State) : Host.Outcome State Fault Refusal :=
  s.run (fun c => c.spiWrite addr words)

/-- SPI_READ (R445): `n` words fetched. -/
def execSpiRead (addr n : Nat) (s : State) : Host.Outcome State Fault Refusal :=
  s.run (fun c => c.spiRead addr n)

/-- SPI_STATUS (R444). -/
def execSpiStatus (s : State) : Host.Outcome State Fault Refusal :=
  s.run (fun c => c.spiStatus)

/-- SPI_CS_RELEASE (R446): the command byte and the clock edges of the transaction. -/
def execSpiCsRelease (cmd edges : Nat) (s : State) : Host.Outcome State Fault Refusal :=
  s.run (fun c => c.spiRelease cmd edges)

/-- SMB_BLOCK_WRITE (R448): byte count, address, word, and whether the PEC failed. -/
def execSmbBlockWrite (count addr v : Nat) (pecBad : Bool) (s : State) : Host.Outcome State Fault Refusal :=
  s.run (fun c => c.smbWrite count addr v pecBad)

/-- SMB_PROCESS_CALL (R448). -/
def execSmbProcessCall (count addr : Nat) (pecBad : Bool) (s : State) : Host.Outcome State Fault Refusal :=
  s.run (fun c => c.smbRead count addr pecBad)

/-- SMB_READ_BYTE (R447). -/
def execSmbReadByte (s : State) : Host.Outcome State Fault Refusal :=
  s.run (fun c => c.smbByte)

/-- SMB_TIMEOUT (R447). -/
def execSmbTimeout (s : State) : Host.Outcome State Fault Refusal :=
  s.run (fun c => c.smbTimeout)

/-- HOST_LINK_DOWN (R27). -/
def execHostLinkDown (s : State) : Host.Outcome State Fault Refusal :=
  s.run (fun c => c.linkDownHost)

/-- PREFETCH_POOL_TIMEOUT (R161) of a space's prefetch. -/
def execPrefetchPoolTimeout (space : Nat) (s : State) : Host.Outcome State Fault Refusal :=
  s.run (fun c => c.prefetchTimeout space)

/-- FAULT_CAUSE_GONE (R408): the cause of a source ends. -/
def execFaultCauseGone (source : Nat) (s : State) : Host.Outcome State Fault Refusal :=
  s.run (fun c => c.faultGone source)

end Sys2Proof.Machine
end

