-- ==== Sys2Proof/Machine/ExecOrt.lean ====
section
/-!
DEFINITION. Machine/ExecOrt.lean: the meanings of the commands of ORT packets and timers.
-/
namespace Sys2Proof.Machine

/-- SEND (R283): the packet that waits first in a receive buffer. -/
def execOrtSend (rx : RxAt) (s : State) : Host.Outcome State Fault Refusal :=
  s.run (fun c => c.ortRow rx Ort.send)

/-- WRITE (R285): the packet that waits first in a receive buffer. -/
def execOrtWrite (rx : RxAt) (s : State) : Host.Outcome State Fault Refusal :=
  s.run (fun c => c.ortRow rx Ort.write)

/-- READ_REQ (R285): the packet that waits first in a receive buffer. -/
def execReadReq (rx : RxAt) (s : State) : Host.Outcome State Fault Refusal :=
  s.run (fun c => c.ortRow rx Ort.readReq)

/-- READ_RESP (R297): the packet that waits first in a receive buffer. -/
def execReadResp (rx : RxAt) (s : State) : Host.Outcome State Fault Refusal :=
  s.run (fun c => c.ortRow rx Ort.readResp)

/-- FETCH_ADD (R287): the packet that waits first in a receive buffer. -/
def execOrtFetchAdd (rx : RxAt) (s : State) : Host.Outcome State Fault Refusal :=
  s.run (fun c => c.ortRow rx Ort.fetchAdd)

/-- COMPARE_SWAP (R287): the packet that waits first in a receive buffer. -/
def execOrtCompareSwap (rx : RxAt) (s : State) : Host.Outcome State Fault Refusal :=
  s.run (fun c => c.ortRow rx Ort.cmpSwap)

/-- ATOMIC_RESP (R284): the packet that waits first in a receive buffer. -/
def execAtomicResp (rx : RxAt) (s : State) : Host.Outcome State Fault Refusal :=
  s.run (fun c => c.ortRow rx Ort.atomicResp)

/-- ACK (R298): the packet that waits first in a receive buffer. -/
def execOrtAck (rx : RxAt) (s : State) : Host.Outcome State Fault Refusal :=
  s.run (fun c => c.ortRow rx Ort.ack)

/-- NAK (R296): the packet that waits first in a receive buffer. -/
def execOrtNak (rx : RxAt) (s : State) : Host.Outcome State Fault Refusal :=
  s.run (fun c => c.ortRow rx Ort.nak)

/-- CREDIT (R301): the packet that waits first in a receive buffer. -/
def execOrtCredit (rx : RxAt) (s : State) : Host.Outcome State Fault Refusal :=
  s.run (fun c => c.ortRow rx Ort.credit)

/-- CONNECT (R290): the packet that waits first in a receive buffer. -/
def execConnect (rx : RxAt) (s : State) : Host.Outcome State Fault Refusal :=
  s.run (fun c => c.ortRow rx Ort.connect)

/-- ACCEPT (R290): the packet that waits first in a receive buffer. -/
def execAccept (rx : RxAt) (s : State) : Host.Outcome State Fault Refusal :=
  s.run (fun c => c.ortRow rx Ort.accept)

/-- RESET_NOTICE (R278): the packet that waits first in a receive buffer. -/
def execResetNotice (rx : RxAt) (s : State) : Host.Outcome State Fault Refusal :=
  s.run (fun c => c.ortRow rx Ort.resetNotice)

/-- COMBINE (R245): the packet that waits first in a receive buffer. -/
def execOrtCombine (rx : RxAt) (s : State) : Host.Outcome State Fault Refusal :=
  s.run (fun c => c.ortRow rx Ort.combine)

/-- RETRANSMIT_TIMEOUT (R298). -/
def execRetransmitTimeout (qpn : Nat) (s : State) : Host.Outcome State Fault Refusal :=
  s.run (fun c => c.retransmitTimeout qpn)

/-- CREDIT_WAIT_TIMEOUT (R301). -/
def execCreditWaitTimeout (qpn : Nat) (s : State) : Host.Outcome State Fault Refusal :=
  s.run (fun c => c.creditWaitTimeout qpn)

/-- CONNECT_RESEND_TIMER (R290). -/
def execConnectResendTimer (qpn : Nat) (s : State) : Host.Outcome State Fault Refusal :=
  s.run (fun c => c.connectResend qpn)

/-- CONNECT_WAIT_TIMEOUT (R290). -/
def execConnectWaitTimeout (qpn : Nat) (s : State) : Host.Outcome State Fault Refusal :=
  s.run (fun c => c.connectWaitTimeout qpn)

/-- ACK_DELAY_TIMER (R295). -/
def execAckDelayTimer (qpn : Nat) (s : State) : Host.Outcome State Fault Refusal :=
  s.run (fun c => c.ackDelay qpn)

/-- CREDIT_UPDATE_TIMER (R300). -/
def execCreditUpdateTimer (qpn : Nat) (s : State) : Host.Outcome State Fault Refusal :=
  s.run (fun c => c.creditUpdate qpn)

end Sys2Proof.Machine
end

