-- ==== Sys2Proof/Machine/ExecRme.lean ====
section
/-!
DEFINITION. Machine/ExecRme.lean: the meanings of the commands of rings, send-queue entries and admin commands.
-/
namespace Sys2Proof.Machine

/-- DOORBELL_PRODUCER (R265) by a requester. -/
def execDoorbellProducer (src qid : Nat) (w : BellWrite) (s : State) : Host.Outcome State Fault Refusal :=
  s.run (fun c => c.doorbellProducer src qid w.form w.v)

/-- DOORBELL_CONSUMER (R266) by a requester. -/
def execDoorbellConsumer (src qid : Nat) (w : BellWrite) (arm : Bool) (s : State) : Host.Outcome State Fault Refusal :=
  s.run (fun c => c.doorbellConsumer src qid w.form w.v arm)

/-- WORK_ENTRY_FETCH (R267) of a queue. -/
def execWorkEntryFetch (qid : Nat) (s : State) : Host.Outcome State Fault Refusal :=
  s.run (fun c => c.workEntryFetch qid)

/-- SQ_NOP (R269): the next send-queue entry of a queue pair starts. -/
def execSqNop (qpn : Nat) (s : State) : Host.Outcome State Fault Refusal :=
  s.run (fun c => c.sqStart qpn 0)

/-- SQ_SEND (R283): the next send-queue entry of a queue pair starts. -/
def execSqSend (qpn : Nat) (s : State) : Host.Outcome State Fault Refusal :=
  s.run (fun c => c.sqStart qpn 1)

/-- SQ_WRITE (R284): the next send-queue entry of a queue pair starts. -/
def execSqWrite (qpn : Nat) (s : State) : Host.Outcome State Fault Refusal :=
  s.run (fun c => c.sqStart qpn 2)

/-- SQ_READ (R294): the next send-queue entry of a queue pair starts. -/
def execSqRead (qpn : Nat) (s : State) : Host.Outcome State Fault Refusal :=
  s.run (fun c => c.sqStart qpn 3)

/-- SQ_FETCH_ADD (R284): the next send-queue entry of a queue pair starts. -/
def execSqFetchAdd (qpn : Nat) (s : State) : Host.Outcome State Fault Refusal :=
  s.run (fun c => c.sqStart qpn 4)

/-- SQ_COMPARE_SWAP (R284): the next send-queue entry of a queue pair starts. -/
def execSqCompareSwap (qpn : Nat) (s : State) : Host.Outcome State Fault Refusal :=
  s.run (fun c => c.sqStart qpn 5)

/-- CQ_STALL_TIMEOUT (R274) of a queue pair. -/
def execCqStallTimeout (qpn : Nat) (s : State) : Host.Outcome State Fault Refusal :=
  s.run (fun c => c.cqStallTimeout qpn)

/-- CONTEXT_FETCH_COMPLETE (R288) of a queue pair. -/
def execContextFetchComplete (qpn : Nat) (s : State) : Host.Outcome State Fault Refusal :=
  s.run (fun c => c.contextFetchComplete qpn)

/-- CREATE_CQ (R280): the admin command at the head of an owner's queue. -/
def execCreateCq (owner : Nat) (s : State) : Host.Outcome State Fault Refusal :=
  s.run (fun c => c.createCq owner)

/-- DESTROY_CQ (R280): the admin command at the head of an owner's queue. -/
def execDestroyCq (owner : Nat) (s : State) : Host.Outcome State Fault Refusal :=
  s.run (fun c => c.destroyCq owner)

/-- CREATE_WQ (R280): the admin command at the head of an owner's queue. -/
def execCreateWq (owner : Nat) (s : State) : Host.Outcome State Fault Refusal :=
  s.run (fun c => c.createWq owner)

/-- DESTROY_WQ (R280): the admin command at the head of an owner's queue. -/
def execDestroyWq (owner : Nat) (s : State) : Host.Outcome State Fault Refusal :=
  s.run (fun c => c.destroyWq owner)

/-- CREATE_QP (R280): the admin command at the head of an owner's queue. -/
def execCreateQp (owner : Nat) (s : State) : Host.Outcome State Fault Refusal :=
  s.run (fun c => c.createQp owner)

/-- CONNECT_QP (R289): the admin command at the head of an owner's queue. -/
def execConnectQp (owner : Nat) (s : State) : Host.Outcome State Fault Refusal :=
  s.run (fun c => c.connectQp owner)

/-- RESET_QP (R277): the admin command at the head of an owner's queue. -/
def execResetQp (owner : Nat) (s : State) : Host.Outcome State Fault Refusal :=
  s.run (fun c => c.closeQp owner 0x07)

/-- DESTROY_QP (R277): the admin command at the head of an owner's queue. -/
def execDestroyQp (owner : Nat) (s : State) : Host.Outcome State Fault Refusal :=
  s.run (fun c => c.closeQp owner 0x08)

/-- QUERY_QP (R280): the admin command at the head of an owner's queue. -/
def execQueryQp (owner : Nat) (s : State) : Host.Outcome State Fault Refusal :=
  s.run (fun c => c.queryQp owner)

/-- ALM_LOAD (R280): the admin command at the head of an owner's queue. -/
def execAlmLoad (owner : Nat) (s : State) : Host.Outcome State Fault Refusal :=
  s.run (fun c => c.almAdmLoad owner)

/-- ALM_ADMIT (R280): the admin command at the head of an owner's queue. -/
def execAlmAdmit (owner : Nat) (s : State) : Host.Outcome State Fault Refusal :=
  s.run (fun c => c.almAdmAdmit owner)

/-- ALM_RUN (R280): the admin command at the head of an owner's queue. -/
def execAlmRun (owner : Nat) (s : State) : Host.Outcome State Fault Refusal :=
  s.run (fun c => c.almAdmRun owner)

/-- ALM_STOP (R280): the admin command at the head of an owner's queue. -/
def execAlmStop (owner : Nat) (s : State) : Host.Outcome State Fault Refusal :=
  s.run (fun c => c.almAdmStop owner)

/-- ALM_UNLOAD (R280): the admin command at the head of an owner's queue. -/
def execAlmUnload (owner : Nat) (s : State) : Host.Outcome State Fault Refusal :=
  s.run (fun c => c.almAdmUnload owner)

/-- KEY_ALLOC (R332): the admin command at the head of an owner's queue. -/
def execKeyAlloc (owner : Nat) (s : State) : Host.Outcome State Fault Refusal :=
  s.run (fun c => c.keyAlloc owner)

/-- KEY_FREE (R333): the admin command at the head of an owner's queue. -/
def execKeyFree (owner : Nat) (s : State) : Host.Outcome State Fault Refusal :=
  s.run (fun c => c.keyFree owner)

/-- NOP (R280): the admin command at the head of an owner's queue. -/
def execAdminNop (owner : Nat) (s : State) : Host.Outcome State Fault Refusal :=
  s.run (fun c => c.admNop owner)

/-- QUERY_USE (R280): the admin command at the head of an owner's queue. -/
def execQueryUse (owner : Nat) (s : State) : Host.Outcome State Fault Refusal :=
  s.run (fun c => c.queryUse owner)

/-- An unlisted admin opcode (R280): the admin command at the head of an owner's queue. -/
def execAdminUnlistedOpcode (owner : Nat) (s : State) : Host.Outcome State Fault Refusal :=
  s.run (fun c => c.admUnlisted owner)

end Sys2Proof.Machine
end

