-- ==== Sys2Proof/Machine/Dispatch.lean ====
section
/-!
DEFINITION. Machine/Dispatch.lean: one arm per command of the opcode table, each one direct call of its meaning.
-/
namespace Sys2Proof.Machine

def exec (i : Instr) (s : State) : Host.Outcome State Fault Refusal :=
  match i with
  | .registerWrite src addr size v => Sys2Proof.Machine.execRegisterWrite src addr size v s
  | .rcFieldRead src addr size => Sys2Proof.Machine.execRcFieldRead src addr size s
  | .pairLoRead src addr => Sys2Proof.Machine.execPairLoRead src addr s
  | .pairHiRead src addr => Sys2Proof.Machine.execPairHiRead src addr s
  | .pairLoWrite src addr v => Sys2Proof.Machine.execPairLoWrite src addr v s
  | .pairHiWrite src addr v => Sys2Proof.Machine.execPairHiWrite src addr v s
  | .violClear src page => Sys2Proof.Machine.execViolClear src page s
  | .goReady src => Sys2Proof.Machine.execGoReady src s
  | .goSafe src => Sys2Proof.Machine.execGoSafe src s
  | .modeRequest src v => Sys2Proof.Machine.execModeRequest src v s
  | .modeBellEvaluation => Sys2Proof.Machine.execModeBellEvaluation s
  | .bellBoundary r => Sys2Proof.Machine.execBellBoundary r s
  | .load src => Sys2Proof.Machine.execLoad src s
  | .admitAlmanac src => Sys2Proof.Machine.execAdmitAlmanac src s
  | .admissionComplete ctx => Sys2Proof.Machine.execAdmissionComplete ctx s
  | .run src => Sys2Proof.Machine.execRun src s
  | .stop src => Sys2Proof.Machine.execStop src s
  | .unload src => Sys2Proof.Machine.execUnload src s
  | .stopTakesEffect ctx => Sys2Proof.Machine.execStopTakesEffect ctx s
  | .startBellReached ctx => Sys2Proof.Machine.execStartBellReached ctx s
  | .reevalHold ctx => Sys2Proof.Machine.execReevalHold ctx s
  | .stampedEntryIssue ctx => Sys2Proof.Machine.execStampedEntryIssue ctx s
  | .localEntryIssue ctx => Sys2Proof.Machine.execLocalEntryIssue ctx s
  | .almanacCacheFill ctx idx => Sys2Proof.Machine.execAlmanacCacheFill ctx idx s
  | .entryComplete ctx idx ecc => Sys2Proof.Machine.execEntryComplete ctx idx ecc s
  | .bellWaitFrameStart ctx => Sys2Proof.Machine.execBellWaitFrameStart ctx s
  | .occupancyEndCheck ctx idx => Sys2Proof.Machine.execOccupancyEndCheck ctx idx s
  | .transferComplete ctx idx => Sys2Proof.Machine.execTransferComplete ctx idx s
  | .shiftBoundary => Sys2Proof.Machine.execShiftBoundary s
  | .spillDeadline => Sys2Proof.Machine.execSpillDeadline s
  | .sliceSpillComplete => Sys2Proof.Machine.execSliceSpillComplete s
  | .sliceRestoreComplete => Sys2Proof.Machine.execSliceRestoreComplete s
  | .thrApply src => Sys2Proof.Machine.execThrApply src s
  | .thrApplyResult => Sys2Proof.Machine.execThrApplyResult s
  | .chaffClear src => Sys2Proof.Machine.execChaffClear src s
  | .chaffClearDone => Sys2Proof.Machine.execChaffClearDone s
  | .genOutRead src => Sys2Proof.Machine.execGenOutRead src s
  | .memoryTrainingComplete u kind time => Sys2Proof.Machine.execMemoryTrainingComplete u kind time s
  | .unitOut src u => Sys2Proof.Machine.execUnitOut src u s
  | .unitReturn src u => Sys2Proof.Machine.execUnitReturn src u s
  | .translationMiss space va acs requester stall => Sys2Proof.Machine.execTranslationMiss space va acs requester stall s
  | .walkComplete => Sys2Proof.Machine.execWalkComplete s
  | .faultQueueWrite space => Sys2Proof.Machine.execFaultQueueWrite space s
  | .fqConsWrite src v => Sys2Proof.Machine.execFqConsWrite src v s
  | .faultReplyRetry src space id => Sys2Proof.Machine.execFaultReplyRetry src space id s
  | .faultReplyFail src space id => Sys2Proof.Machine.execFaultReplyFail src space id s
  | .faultReplyTimeout space => Sys2Proof.Machine.execFaultReplyTimeout space s
  | .invalidateGo src all => Sys2Proof.Machine.execInvalidateGo src all s
  | .invalidateComplete => Sys2Proof.Machine.execInvalidateComplete s
  | .poolProdWrite src v => Sys2Proof.Machine.execPoolProdWrite src v s
  | .prefetch owner => Sys2Proof.Machine.execPrefetch owner s
  | .prefetchPageDone space => Sys2Proof.Machine.execPrefetchPageDone space s
  | .advise owner => Sys2Proof.Machine.execAdvise owner s
  | .loftQuotaWrite src q => Sys2Proof.Machine.execLoftQuotaWrite src q s
  | .spillRegionWrite src base => Sys2Proof.Machine.execSpillRegionWrite src base s
  | .bellMarkReceive h m arrive => Sys2Proof.Machine.execBellMarkReceive h m arrive s
  | .upstreamLoss => Sys2Proof.Machine.execUpstreamLoss s
  | .lockAchieved => Sys2Proof.Machine.execLockAchieved s
  | .holdoverLimit => Sys2Proof.Machine.execHoldoverLimit s
  | .timekeeperTakeover => Sys2Proof.Machine.execTimekeeperTakeover s
  | .surveyGo src => Sys2Proof.Machine.execSurveyGo src s
  | .resurvey src => Sys2Proof.Machine.execResurvey src s
  | .surveyReq h seq t1 arrive => Sys2Proof.Machine.execSurveyReq h seq t1 arrive s
  | .surveyRsp h seq t2 t3 t4 => Sys2Proof.Machine.execSurveyRsp h seq t2 t3 t4 s
  | .surveyTimeout => Sys2Proof.Machine.execSurveyTimeout s
  | .hold h origin bell cause => Sys2Proof.Machine.execHold h origin bell cause s
  | .holdBellReached => Sys2Proof.Machine.execHoldBellReached s
  | .ready h origin bell => Sys2Proof.Machine.execReady h origin bell s
  | .resume h holdBell resumeBell => Sys2Proof.Machine.execResume h holdBell resumeBell s
  | .resumeBellReached => Sys2Proof.Machine.execResumeBellReached s
  | .flitSlotTransmit k => Sys2Proof.Machine.execFlitSlotTransmit k s
  | .frameReceive k corrected arrive kinds lost bytes => Sys2Proof.Machine.execFrameReceive k corrected arrive kinds lost bytes s
  | .codewordUncorrectable k pairB n => Sys2Proof.Machine.execCodewordUncorrectable k pairB n s
  | .frameTaken k vc => Sys2Proof.Machine.execFrameTaken k vc s
  | .linkAck k ack => Sys2Proof.Machine.execLinkAck k ack s
  | .linkNak h copy expected => Sys2Proof.Machine.execLinkNak h copy expected s
  | .linkCredit h freed => Sys2Proof.Machine.execLinkCredit h freed s
  | .linkAckTimer k => Sys2Proof.Machine.execLinkAckTimer k s
  | .linkCreditTimer k => Sys2Proof.Machine.execLinkCreditTimer k s
  | .replayTimeout k => Sys2Proof.Machine.execReplayTimeout k s
  | .peer h copy m => Sys2Proof.Machine.execPeer h copy m s
  | .peerRepeatTimer k => Sys2Proof.Machine.execPeerRepeatTimer k s
  | .laneLoss k lane => Sys2Proof.Machine.execLaneLoss k lane s
  | .shed h copy keepB => Sys2Proof.Machine.execShed h copy keepB s
  | .shedRetrainEnd k ok => Sys2Proof.Machine.execShedRetrainEnd k ok s
  | .laneLock k lane => Sys2Proof.Machine.execLaneLock k lane s
  | .trainingSignalDetect k => Sys2Proof.Machine.execTrainingSignalDetect k s
  | .trainingEnd k lanes => Sys2Proof.Machine.execTrainingEnd k lanes s
  | .trainingRetry k => Sys2Proof.Machine.execTrainingRetry k s
  | .linkDisable src k v => Sys2Proof.Machine.execLinkDisable src k v s
  | .retrain src k => Sys2Proof.Machine.execRetrain src k s
  | .restore h src copy phase bell => Sys2Proof.Machine.execRestore h src copy phase bell s
  | .restorePairLocked k => Sys2Proof.Machine.execRestorePairLocked k s
  | .restoreJoinBell k => Sys2Proof.Machine.execRestoreJoinBell k s
  | .restoreTimeout k => Sys2Proof.Machine.execRestoreTimeout k s
  | .vcBufWrite src k vc n => Sys2Proof.Machine.execVcBufWrite src k vc n s
  | .quiet h copy origin bell => Sys2Proof.Machine.execQuiet h copy origin bell s
  | .live h copy => Sys2Proof.Machine.execLive h copy s
  | .chainSetup ch pos g => Sys2Proof.Machine.execChainSetup ch pos g s
  | .produced ch pos g beat => Sys2Proof.Machine.execProduced ch pos g beat s
  | .anchored ch pos g => Sys2Proof.Machine.execAnchored ch pos g s
  | .arrived ch pos g level => Sys2Proof.Machine.execArrived ch pos g level s
  | .reduced ch pos g => Sys2Proof.Machine.execReduced ch pos g s
  | .root ch pos g => Sys2Proof.Machine.execRoot ch pos g s
  | .down ch pos g => Sys2Proof.Machine.execDown ch pos g s
  | .sent ch pos g => Sys2Proof.Machine.execSent ch pos g s
  | .relay ch g origin => Sys2Proof.Machine.execRelay ch g origin s
  | .combineData k vc => Sys2Proof.Machine.execCombineData k vc s
  | .anchorUp k vc => Sys2Proof.Machine.execAnchorUp k vc s
  | .anchorDown k vc => Sys2Proof.Machine.execAnchorDown k vc s
  | .grant k => Sys2Proof.Machine.execGrant k s
  | .windowPlaceFree k vc => Sys2Proof.Machine.execWindowPlaceFree k vc s
  | .tenantCombineTimeout => Sys2Proof.Machine.execTenantCombineTimeout s
  | .doorbellProducer src qid w => Sys2Proof.Machine.execDoorbellProducer src qid w s
  | .doorbellConsumer src qid w arm => Sys2Proof.Machine.execDoorbellConsumer src qid w arm s
  | .workEntryFetch qid => Sys2Proof.Machine.execWorkEntryFetch qid s
  | .sqNop qpn => Sys2Proof.Machine.execSqNop qpn s
  | .sqSend qpn => Sys2Proof.Machine.execSqSend qpn s
  | .sqWrite qpn => Sys2Proof.Machine.execSqWrite qpn s
  | .sqRead qpn => Sys2Proof.Machine.execSqRead qpn s
  | .sqFetchAdd qpn => Sys2Proof.Machine.execSqFetchAdd qpn s
  | .sqCompareSwap qpn => Sys2Proof.Machine.execSqCompareSwap qpn s
  | .cqStallTimeout qpn => Sys2Proof.Machine.execCqStallTimeout qpn s
  | .contextFetchComplete qpn => Sys2Proof.Machine.execContextFetchComplete qpn s
  | .createCq owner => Sys2Proof.Machine.execCreateCq owner s
  | .destroyCq owner => Sys2Proof.Machine.execDestroyCq owner s
  | .createWq owner => Sys2Proof.Machine.execCreateWq owner s
  | .destroyWq owner => Sys2Proof.Machine.execDestroyWq owner s
  | .createQp owner => Sys2Proof.Machine.execCreateQp owner s
  | .connectQp owner => Sys2Proof.Machine.execConnectQp owner s
  | .resetQp owner => Sys2Proof.Machine.execResetQp owner s
  | .destroyQp owner => Sys2Proof.Machine.execDestroyQp owner s
  | .queryQp owner => Sys2Proof.Machine.execQueryQp owner s
  | .almLoad owner => Sys2Proof.Machine.execAlmLoad owner s
  | .almAdmit owner => Sys2Proof.Machine.execAlmAdmit owner s
  | .almRun owner => Sys2Proof.Machine.execAlmRun owner s
  | .almStop owner => Sys2Proof.Machine.execAlmStop owner s
  | .almUnload owner => Sys2Proof.Machine.execAlmUnload owner s
  | .keyAlloc owner => Sys2Proof.Machine.execKeyAlloc owner s
  | .keyFree owner => Sys2Proof.Machine.execKeyFree owner s
  | .adminNop owner => Sys2Proof.Machine.execAdminNop owner s
  | .queryUse owner => Sys2Proof.Machine.execQueryUse owner s
  | .adminUnlistedOpcode owner => Sys2Proof.Machine.execAdminUnlistedOpcode owner s
  | .ortSend rx => Sys2Proof.Machine.execOrtSend rx s
  | .ortWrite rx => Sys2Proof.Machine.execOrtWrite rx s
  | .readReq rx => Sys2Proof.Machine.execReadReq rx s
  | .readResp rx => Sys2Proof.Machine.execReadResp rx s
  | .ortFetchAdd rx => Sys2Proof.Machine.execOrtFetchAdd rx s
  | .ortCompareSwap rx => Sys2Proof.Machine.execOrtCompareSwap rx s
  | .atomicResp rx => Sys2Proof.Machine.execAtomicResp rx s
  | .ortAck rx => Sys2Proof.Machine.execOrtAck rx s
  | .ortNak rx => Sys2Proof.Machine.execOrtNak rx s
  | .ortCredit rx => Sys2Proof.Machine.execOrtCredit rx s
  | .connect rx => Sys2Proof.Machine.execConnect rx s
  | .accept rx => Sys2Proof.Machine.execAccept rx s
  | .resetNotice rx => Sys2Proof.Machine.execResetNotice rx s
  | .ortCombine rx => Sys2Proof.Machine.execOrtCombine rx s
  | .retransmitTimeout qpn => Sys2Proof.Machine.execRetransmitTimeout qpn s
  | .creditWaitTimeout qpn => Sys2Proof.Machine.execCreditWaitTimeout qpn s
  | .connectResendTimer qpn => Sys2Proof.Machine.execConnectResendTimer qpn s
  | .connectWaitTimeout qpn => Sys2Proof.Machine.execConnectWaitTimeout qpn s
  | .ackDelayTimer qpn => Sys2Proof.Machine.execAckDelayTimer qpn s
  | .creditUpdateTimer qpn => Sys2Proof.Machine.execCreditUpdateTimer qpn s
  | .ethFrameReceive p q bytes phase parts => Sys2Proof.Machine.execEthFrameReceive p q bytes phase parts s
  | .ethRxBufferRelease p q prio => Sys2Proof.Machine.execEthRxBufferRelease p q prio s
  | .xoffRepeatTimer p q prio => Sys2Proof.Machine.execXoffRepeatTimer p q prio s
  | .pfcFrameReceive p q quanta => Sys2Proof.Machine.execPfcFrameReceive p q quanta s
  | .pauseExpiry p q prio => Sys2Proof.Machine.execPauseExpiry p q prio s
  | .stormDetect p q prio => Sys2Proof.Machine.execStormDetect p q prio s
  | .ethTransmitSelect p q => Sys2Proof.Machine.execEthTransmitSelect p q s
  | .ethLinkUp p q => Sys2Proof.Machine.execEthLinkUp p q s
  | .ethLinkDown p q => Sys2Proof.Machine.execEthLinkDown p q s
  | .ethAnRetry p q => Sys2Proof.Machine.execEthAnRetry p q s
  | .verifyRestart src p q => Sys2Proof.Machine.execVerifyRestart src p q s
  | .verifyAttemptEnd p q ok => Sys2Proof.Machine.execVerifyAttemptEnd p q ok s
  | .tmapCommit src p => Sys2Proof.Machine.execTmapCommit src p s
  | .tmapValidTimeout p => Sys2Proof.Machine.execTmapValidTimeout p s
  | .ppsOutSecond => Sys2Proof.Machine.execPpsOutSecond s
  | .ppsInEdge pin => Sys2Proof.Machine.execPpsInEdge pin s
  | .gateChange src p q => Sys2Proof.Machine.execGateChange src p q s
  | .gateAdmissionComplete p q => Sys2Proof.Machine.execGateAdmissionComplete p q s
  | .gateListSwap p q => Sys2Proof.Machine.execGateListSwap p q s
  | .gateEntryAdvance p q => Sys2Proof.Machine.execGateEntryAdvance p q s
  | .shaperApply src p => Sys2Proof.Machine.execShaperApply src p s
  | .keySelWrite src kind slot => Sys2Proof.Machine.execKeySelWrite src kind slot s
  | .keyDataWrite src word v => Sys2Proof.Machine.execKeyDataWrite src word v s
  | .keyTweakWrite src high v => Sys2Proof.Machine.execKeyTweakWrite src high v s
  | .keyCommit src => Sys2Proof.Machine.execKeyCommit src s
  | .zeroise src => Sys2Proof.Machine.execZeroise src s
  | .cipherTest src => Sys2Proof.Machine.execCipherTest src s
  | .cipherTestResult result => Sys2Proof.Machine.execCipherTestResult result s
  | .bar4Access off len data errs => Sys2Proof.Machine.execBar4Access off len data errs s
  | .cxlMemAccess addr len data errs => Sys2Proof.Machine.execCxlMemAccess addr len data errs s
  | .apertureAccess ins off len data errs => Sys2Proof.Machine.execApertureAccess ins off len data errs s
  | .windowBaseWrite src v => Sys2Proof.Machine.execWindowBaseWrite src v s
  | .atomicopRequest fn addr => Sys2Proof.Machine.execAtomicopRequest fn addr s
  | .configRequest w => Sys2Proof.Machine.execConfigRequest w s
  | .hostLinkUp speed width => Sys2Proof.Machine.execHostLinkUp speed width s
  | .perstAssert => Sys2Proof.Machine.execPerstAssert s
  | .perstDeassert => Sys2Proof.Machine.execPerstDeassert s
  | .pfFlr => Sys2Proof.Machine.execPfFlr s
  | .vfFlr ins => Sys2Proof.Machine.execVfFlr ins s
  | .hostReadError addr len kind => Sys2Proof.Machine.execHostReadError addr len kind s
  | .p2pProbe src => Sys2Proof.Machine.execP2pProbe src s
  | .p2pProbeResult window cpl => Sys2Proof.Machine.execP2pProbeResult window cpl s
  | .fenceConditionMet ctx idx => Sys2Proof.Machine.execFenceConditionMet ctx idx s
  | .mbH2rProdWrite src v => Sys2Proof.Machine.execMbH2rProdWrite src v s
  | .mbHostConsWrite src v => Sys2Proof.Machine.execMbHostConsWrite src v s
  | .hello owner => Sys2Proof.Machine.execHello owner s
  | .ping owner => Sys2Proof.Machine.execPing owner s
  | .info owner => Sys2Proof.Machine.execInfo owner s
  | .mailboxMalformed owner => Sys2Proof.Machine.execMailboxMalformed owner s
  | .relaySend => Sys2Proof.Machine.execRelaySend s
  | .relayFrameReceive k => Sys2Proof.Machine.execRelayFrameReceive k s
  | .relayAckReceive k => Sys2Proof.Machine.execRelayAckReceive k s
  | .relayResendTimer => Sys2Proof.Machine.execRelayResendTimer s
  | .insEnable src ins v => Sys2Proof.Machine.execInsEnable src ins v s
  | .insReset src ins => Sys2Proof.Machine.execInsReset src ins s
  | .vfEnableChange n => Sys2Proof.Machine.execVfEnableChange n s
  | .qpDrainEnd qpn => Sys2Proof.Machine.execQpDrainEnd qpn s
  | .resetSquash ins => Sys2Proof.Machine.execResetSquash ins s
  | .instanceQuotaWrite src ins reg v => Sys2Proof.Machine.execInstanceQuotaWrite src ins reg v s
  | .watchdogCore0Expiry => Sys2Proof.Machine.execWatchdogCore0Expiry s
  | .watchdogExpiry core => Sys2Proof.Machine.execWatchdogExpiry core s
  | .coreRestartComplete core => Sys2Proof.Machine.execCoreRestartComplete core s
  | .coreReset src => Sys2Proof.Machine.execCoreReset src s
  | .moduleReset src => Sys2Proof.Machine.execModuleReset src s
  | .auxPowerGood => Sys2Proof.Machine.execAuxPowerGood s
  | .mainPowerLoss main aux => Sys2Proof.Machine.execMainPowerLoss main aux s
  | .mainPowerReturn => Sys2Proof.Machine.execMainPowerReturn s
  | .bootRomChecksDone => Sys2Proof.Machine.execBootRomChecksDone s
  | .imageVerifyDone => Sys2Proof.Machine.execImageVerifyDone s
  | .settingsRecordRead bad => Sys2Proof.Machine.execSettingsRecordRead bad s
  | .mainRailsSequenced => Sys2Proof.Machine.execMainRailsSequenced s
  | .dieResetsReleased => Sys2Proof.Machine.execDieResetsReleased s
  | .bootComplete => Sys2Proof.Machine.execBootComplete s
  | .kaAck src v => Sys2Proof.Machine.execKaAck src v s
  | .stage src => Sys2Proof.Machine.execStage src s
  | .stageComplete fail => Sys2Proof.Machine.execStageComplete fail s
  | .verify src => Sys2Proof.Machine.execVerify src s
  | .activateLive src => Sys2Proof.Machine.execActivateLive src s
  | .liveLoadComplete => Sys2Proof.Machine.execLiveLoadComplete s
  | .handoffBell => Sys2Proof.Machine.execHandoffBell s
  | .coreResumeReport core => Sys2Proof.Machine.execCoreResumeReport core s
  | .handoffTimeout => Sys2Proof.Machine.execHandoffTimeout s
  | .activateNext src => Sys2Proof.Machine.execActivateNext src s
  | .abandon src => Sys2Proof.Machine.execAbandon src s
  | .setWrite src => Sys2Proof.Machine.execSetWrite src s
  | .setWriteComplete bad => Sys2Proof.Machine.execSetWriteComplete bad s
  | .programPage src => Sys2Proof.Machine.execProgramPage src s
  | .raiseSvn src => Sys2Proof.Machine.execRaiseSvn src s
  | .governorPowerLimit => Sys2Proof.Machine.execGovernorPowerLimit s
  | .governorSkipEnd n => Sys2Proof.Machine.execGovernorSkipEnd n s
  | .overcurrent => Sys2Proof.Machine.execOvercurrent s
  | .junctionTempLimit max => Sys2Proof.Machine.execJunctionTempLimit max s
  | .cribTempLimit => Sys2Proof.Machine.execCribTempLimit s
  | .railOutOfLimit => Sys2Proof.Machine.execRailOutOfLimit s
  | .faultInterrupt => Sys2Proof.Machine.execFaultInterrupt s
  | .forceWrite src source v => Sys2Proof.Machine.execForceWrite src source v s
  | .srcCfgWrite src cls n w => Sys2Proof.Machine.execSrcCfgWrite src cls n w s
  | .heartbeat h b => Sys2Proof.Machine.execHeartbeat h b s
  | .heartbeatMissing => Sys2Proof.Machine.execHeartbeatMissing s
  | .substitutionAnnounce k => Sys2Proof.Machine.execSubstitutionAnnounce k s
  | .switchBell reissue => Sys2Proof.Machine.execSwitchBell reissue s
  | .mirrorWriteReceive k => Sys2Proof.Machine.execMirrorWriteReceive k s
  | .twinCtrlWrite src v => Sys2Proof.Machine.execTwinCtrlWrite src v s
  | .lift src => Sys2Proof.Machine.execLift src s
  | .attach src => Sys2Proof.Machine.execAttach src s
  | .cancel src => Sys2Proof.Machine.execCancel src s
  | .recovered src => Sys2Proof.Machine.execRecovered src s
  | .twinCopyComplete => Sys2Proof.Machine.execTwinCopyComplete s
  | .liftDrainComplete => Sys2Proof.Machine.execLiftDrainComplete s
  | .kaSenseSample leak lid => Sys2Proof.Machine.execKaSenseSample leak lid s
  | .kaCapacitorLost => Sys2Proof.Machine.execKaCapacitorLost s
  | .leakSense => Sys2Proof.Machine.execLeakSense s
  | .lidOpen => Sys2Proof.Machine.execLidOpen s
  | .leakInSample pin low => Sys2Proof.Machine.execLeakInSample pin low s
  | .gpFuncWrite src pin f => Sys2Proof.Machine.execGpFuncWrite src pin f s
  | .gpHoldEnd pin => Sys2Proof.Machine.execGpHoldEnd pin s
  | .spiWrite addr words => Sys2Proof.Machine.execSpiWrite addr words s
  | .spiRead addr n => Sys2Proof.Machine.execSpiRead addr n s
  | .spiStatus => Sys2Proof.Machine.execSpiStatus s
  | .spiCsRelease cmd edges => Sys2Proof.Machine.execSpiCsRelease cmd edges s
  | .smbBlockWrite count addr v pecBad => Sys2Proof.Machine.execSmbBlockWrite count addr v pecBad s
  | .smbProcessCall count addr pecBad => Sys2Proof.Machine.execSmbProcessCall count addr pecBad s
  | .smbReadByte => Sys2Proof.Machine.execSmbReadByte s
  | .smbTimeout => Sys2Proof.Machine.execSmbTimeout s
  | .hostLinkDown => Sys2Proof.Machine.execHostLinkDown s
  | .prefetchPoolTimeout space => Sys2Proof.Machine.execPrefetchPoolTimeout space s
  | .faultCauseGone source => Sys2Proof.Machine.execFaultCauseGone source s

end Sys2Proof.Machine
end

