-- ==== Sys2Proof/Machine/Step.lean ====
section
/-!
DEFINITION. Machine/Step.lean: one step of the block: the command at the front of the queue, or a beat that passes.
-/
namespace Sys2Proof.Machine

/-- One beat passes (log entry 1). -/
def State.idle (s : State) : State := { s with chip := { s.chip with beat := s.chip.beat + 1 } }

/-- The command at the front of the queue is taken and runs with the queue's rest; on an empty queue a beat passes. -/
def step (s : State) : Host.Outcome State Fault Refusal :=
  match s.pending with
  | [] => .next s.idle
  | i :: rest => exec i { s with pending := rest }

/-- `s` with the command that a word spells at the front of its queue: no word spells one, so `s`. -/
def State.withFetchWord (s : State) (nbits w : Nat) : State :=
  match decodeTableWord nbits w with
  | some i => { s with pending := i :: s.pending }
  | none => s

end Sys2Proof.Machine
end

