-- ==== Sys2Proof/WellFormed.lean ====
section
/-!
DEFINITION. WellFormed.lean: which commands the module can meet: every operand within the range its field or its hardware gives it. The meanings are
total, and do nothing for what no state admits; this check says what a sender can send at all.
-/
namespace Sys2Proof
open Machine

def below (n x : Nat) : Bool := decide (x < n)

/-- A requester (R42): instances 0–511, 0x3FC the reeve cores, 0x3FD SMBus, 0x3FE SPI, 0x3FF the manager. -/
def isRequester (x : Nat) : Bool := below 512 x || (decide (0x3FC ≤ x) && below 0x400 x)

/-- An owner of rings and mailboxes (R261): instances 0–511, 512 the manager. -/
def isOwner (x : Nat) : Bool := below 513 x

/-- The virtual channels of combines (R199): 0 stead, 4 tenant. -/
def isCombineVc (x : Nat) : Bool := x == 0 || x == 4

/-- A memory error lies in a tier that has check bits (R137), within the module's address space. -/
def Machine.MemErr.ok (e : MemErr) : Bool := e.tier != .host && below (2 ^ 52) e.addr

/-- A mark's fields fit their message (R179, R202). -/
def Machine.Mark.ok (m : Mark) : Bool :=
  below (2 ^ 44) m.bell && below 65536 m.depart && below 8 m.depth && below 8 m.state && below 256 m.tkId && below 8 m.tkRank && below 65536 m.tkEpoch && below 65536 m.surveyEpoch && below 512 m.surveyModules &&
  below (2 ^ 44) m.holdBell && below (2 ^ 44) m.resumeBell

/-- A PEER message's fields fit (R202). -/
def Machine.PeerMsg.ok (m : PeerMsg) : Bool := below 256 m.modId && below 32 m.link && below 65536 m.epoch && m.buf.length == 7 && m.buf.all (below 65536)

/-- A heartbeat's fields fit (R418). -/
def Machine.Heartbeat.ok (h : Heartbeat) : Bool := below 256 h.modId && below 8 h.state && below 16 h.twinState && below 256 h.twin &&
  below (2 ^ 44) h.bell && below (2 ^ 32) h.alm0 && below (2 ^ 32) h.alm1

/-- A control message's fields fit (R179, R202, R418). -/
def Machine.CtlMsg.ok : CtlMsg → Bool
  | .ack | .live | .shed _ => true
  | .nak n => below 65536 n
  | .credit freed => freed.length == 7 && freed.all (below 65536)
  | .bell m => m.ok
  | .hold o b cause => below 256 o && below (2 ^ 44) b && below 8 cause
  | .ready o b | .quiet o b => below 256 o && below (2 ^ 44) b
  | .resume h r => below (2 ^ 44) h && below (2 ^ 44) r
  | .surveyReq s t1 => below 256 s && below (2 ^ 64) t1
  | .surveyRsp s t2 t3 => below 256 s && below (2 ^ 64) t2 && below (2 ^ 64) t3
  | .heartbeat h => h.ok
  | .restore phase b => below 256 phase && below (2 ^ 44) b
  | .peer p => p.ok

/-- A frame of VC0–VC6 whose header fields fit (R198, R199). -/
def Machine.LFrame.ok (f : LFrame) : Bool :=
  below 7 f.vc && below 32 f.typ && below 256 f.dest && below 256 f.src && below 65536 f.flow && below (2 ^ 32) f.ctx && decide (f.payload.length ≤ 4096)

/-- A received VC7 frame names a link, and its ACK fits its field. -/
def Machine.Vc7.ok (h : Vc7) : Bool := below 32 h.k && below 65536 h.ack

/-- The same of a message sent in two copies. -/
def Machine.Vc7Copy.ok (h : Vc7Copy) : Bool := below 32 h.k && below 65536 h.ack

/-- A receive buffer that the module has. -/
def Machine.RxAt.ok : RxAt → Bool
  | .self => true
  | .link k => below 32 k
  | .eth p q prio => below 4 p && below 2 q && below 8 prio

/-- A configuration write names a function. -/
def Machine.CfgWrite.ok : CfgWrite → Bool
  | .relaxed fn _ => below 513 fn
  | .none => true
  | .cxlMem _ => true
  | .bar4Full _ => true
  | .timeout _ => true

/-- A crib has 12 stacks and a granary 32 channels to sense. -/
def Machine.Sensors.ok (r : Sensors) : Bool := r.crib.length == 12 && r.grn.length == 32

/-- The operands of a command lie in their ranges. -/
def Instr.wf : Instr → Bool
  | .registerWrite src addr _ v => isRequester src && below (2 ^ 26) addr && below (2 ^ 64) v
  | .rcFieldRead src addr _ => isRequester src && below (2 ^ 26) addr
  | .pairLoRead src addr => isRequester src && below (2 ^ 26) addr
  | .pairHiRead src addr => isRequester src && below (2 ^ 26) addr
  | .pairLoWrite src addr v => isRequester src && below (2 ^ 26) addr && below (2 ^ 32) v
  | .pairHiWrite src addr v => isRequester src && below (2 ^ 26) addr && below (2 ^ 32) v
  | .violClear src page => isRequester src && below 1024 page
  | .goReady src => isRequester src
  | .goSafe src => isRequester src
  | .modeRequest src v => isRequester src && below (2 ^ 32) v
  | .modeBellEvaluation => true
  | .bellBoundary r => r.ok
  | .load src => isRequester src
  | .admitAlmanac src => isRequester src
  | .admissionComplete ctx => below 514 ctx
  | .run src => isRequester src
  | .stop src => isRequester src
  | .unload src => isRequester src
  | .stopTakesEffect ctx => below 514 ctx
  | .startBellReached ctx => below 514 ctx
  | .reevalHold ctx => below 514 ctx
  | .stampedEntryIssue ctx => below 514 ctx
  | .localEntryIssue ctx => below 514 ctx
  | .almanacCacheFill ctx idx => below 514 ctx && below (2 ^ 24) idx
  | .entryComplete ctx idx ecc => below 514 ctx && below (2 ^ 24) idx && ecc.all MemErr.ok
  | .bellWaitFrameStart ctx => below 514 ctx
  | .occupancyEndCheck ctx idx => below 514 ctx && below (2 ^ 24) idx
  | .transferComplete ctx idx => below 514 ctx && below (2 ^ 24) idx
  | .shiftBoundary => true
  | .spillDeadline => true
  | .sliceSpillComplete => true
  | .sliceRestoreComplete => true
  | .thrApply src => isRequester src
  | .thrApplyResult => true
  | .chaffClear src => isRequester src
  | .chaffClearDone => true
  | .genOutRead src => isRequester src
  | .memoryTrainingComplete _ _ _ => true
  | .unitOut src _ => isRequester src
  | .unitReturn src _ => isRequester src
  | .translationMiss space va _ requester _ => below 513 space && below (2 ^ 57) va && below 5 requester
  | .walkComplete => true
  | .faultQueueWrite space => below 513 space
  | .fqConsWrite src v => isRequester src && below (2 ^ 32) v
  | .faultReplyRetry src space id => isRequester src && below 513 space && below 65536 id
  | .faultReplyFail src space id => isRequester src && below 513 space && below 65536 id
  | .faultReplyTimeout space => below 513 space
  | .invalidateGo src _ => isRequester src
  | .invalidateComplete => true
  | .poolProdWrite src v => isRequester src && below (2 ^ 32) v
  | .prefetch owner => isOwner owner
  | .prefetchPageDone space => below 513 space
  | .advise owner => isOwner owner
  | .loftQuotaWrite src q => isRequester src && below 512 q
  | .spillRegionWrite src base => isRequester src && below (2 ^ 18) base
  | .bellMarkReceive h m _ => h.ok && m.ok
  | .upstreamLoss => true
  | .lockAchieved => true
  | .holdoverLimit => true
  | .timekeeperTakeover => true
  | .surveyGo src => isRequester src
  | .resurvey src => isRequester src
  | .surveyReq h seq _ _ => h.ok && below 256 seq
  | .surveyRsp h seq _ _ _ => h.ok && below 256 seq
  | .surveyTimeout => true
  | .hold h origin bell cause => h.ok && below 256 origin && below (2 ^ 44) bell && below 8 cause
  | .holdBellReached => true
  | .ready h origin bell => h.ok && below 256 origin && below (2 ^ 44) bell
  | .resume h holdBell resumeBell => h.ok && below (2 ^ 44) holdBell && below (2 ^ 44) resumeBell
  | .resumeBellReached => true
  | .flitSlotTransmit k => below 32 k
  | .frameReceive k _ _ kinds lost bytes =>
    below 32 k && kinds.all (below 4) && bytes.all (·.length == 64) && lost.length == kinds.length && bytes.length == kinds.length
  | .codewordUncorrectable k _ _ => below 32 k
  | .frameTaken k vc => below 32 k && below 8 vc
  | .linkAck k ack => below 32 k && below 65536 ack
  | .linkNak h _ expected => h.ok && below 65536 expected
  | .linkCredit h freed => h.ok && (freed.length == 7 && freed.all (below 65536))
  | .linkAckTimer k => below 32 k
  | .linkCreditTimer k => below 32 k
  | .replayTimeout k => below 32 k
  | .peer h _ m => h.ok && m.ok
  | .peerRepeatTimer k => below 32 k
  | .laneLoss k lane => below 32 k && below 4 lane
  | .shed h _ _ => h.ok
  | .shedRetrainEnd k _ => below 32 k
  | .laneLock k lane => below 32 k && below 4 lane
  | .trainingSignalDetect k => below 32 k
  | .trainingEnd k lanes => below 32 k && below 16 lanes
  | .trainingRetry k => below 32 k
  | .linkDisable src k _ => isRequester src && below 32 k
  | .retrain src k => isRequester src && below 32 k
  | .restore h src _ phase bell => h.ok && src.all isRequester && below 3 phase && below (2 ^ 44) bell
  | .restorePairLocked k => below 32 k
  | .restoreJoinBell k => below 32 k
  | .restoreTimeout k => below 32 k
  | .vcBufWrite src k vc n => isRequester src && below 32 k && below 7 vc && below 32768 n
  | .quiet h _ origin bell => h.ok && below 256 origin && below (2 ^ 44) bell
  | .live h _ => h.ok
  | .chainSetup ch pos g => below 2 ch && below 256 pos && below (2 ^ 20) g
  | .produced ch pos g beat => below 2 ch && below 256 pos && below (2 ^ 20) g && below (2 ^ 64) beat
  | .anchored ch pos g => below 2 ch && below 256 pos && below (2 ^ 20) g
  | .arrived ch pos g level => below 2 ch && below 256 pos && below (2 ^ 20) g && below 4 level
  | .reduced ch pos g => below 2 ch && below 256 pos && below (2 ^ 20) g
  | .root ch pos g => below 2 ch && below 256 pos && below (2 ^ 20) g
  | .down ch pos g => below 2 ch && below 256 pos && below (2 ^ 20) g
  | .sent ch pos g => below 2 ch && below 256 pos && below (2 ^ 20) g
  | .relay ch g origin => below 2 ch && below (2 ^ 20) g && below 256 origin
  | .combineData k vc => below 32 k && isCombineVc vc
  | .anchorUp k vc => below 32 k && isCombineVc vc
  | .anchorDown k vc => below 32 k && isCombineVc vc
  | .grant k => below 32 k
  | .windowPlaceFree k vc => below 32 k && isCombineVc vc
  | .tenantCombineTimeout => true
  | .doorbellProducer src qid w => isRequester src && below (513 * 8192) qid && below (2 ^ 32) w.v
  | .doorbellConsumer src qid w _ => isRequester src && below (513 * 8192) qid && below (2 ^ 32) w.v
  | .workEntryFetch qid => below (513 * 8192) qid
  | .sqNop qpn => below (2 ^ 24) qpn
  | .sqSend qpn => below (2 ^ 24) qpn
  | .sqWrite qpn => below (2 ^ 24) qpn
  | .sqRead qpn => below (2 ^ 24) qpn
  | .sqFetchAdd qpn => below (2 ^ 24) qpn
  | .sqCompareSwap qpn => below (2 ^ 24) qpn
  | .cqStallTimeout qpn => below (2 ^ 24) qpn
  | .contextFetchComplete qpn => below (2 ^ 24) qpn
  | .createCq owner => isOwner owner
  | .destroyCq owner => isOwner owner
  | .createWq owner => isOwner owner
  | .destroyWq owner => isOwner owner
  | .createQp owner => isOwner owner
  | .connectQp owner => isOwner owner
  | .resetQp owner => isOwner owner
  | .destroyQp owner => isOwner owner
  | .queryQp owner => isOwner owner
  | .almLoad owner => isOwner owner
  | .almAdmit owner => isOwner owner
  | .almRun owner => isOwner owner
  | .almStop owner => isOwner owner
  | .almUnload owner => isOwner owner
  | .keyAlloc owner => isOwner owner
  | .keyFree owner => isOwner owner
  | .adminNop owner => isOwner owner
  | .queryUse owner => isOwner owner
  | .adminUnlistedOpcode owner => isOwner owner
  | .ortSend rx => rx.ok
  | .ortWrite rx => rx.ok
  | .readReq rx => rx.ok
  | .readResp rx => rx.ok
  | .ortFetchAdd rx => rx.ok
  | .ortCompareSwap rx => rx.ok
  | .atomicResp rx => rx.ok
  | .ortAck rx => rx.ok
  | .ortNak rx => rx.ok
  | .ortCredit rx => rx.ok
  | .connect rx => rx.ok
  | .accept rx => rx.ok
  | .resetNotice rx => rx.ok
  | .ortCombine rx => rx.ok
  | .retransmitTimeout qpn => below (2 ^ 24) qpn
  | .creditWaitTimeout qpn => below (2 ^ 24) qpn
  | .connectResendTimer qpn => below (2 ^ 24) qpn
  | .connectWaitTimeout qpn => below (2 ^ 24) qpn
  | .ackDelayTimer qpn => below (2 ^ 24) qpn
  | .creditUpdateTimer qpn => below (2 ^ 24) qpn
  | .ethFrameReceive p q _ phase _ => below 4 p && below 2 q && below 64 phase
  | .ethRxBufferRelease p q prio => below 4 p && below 2 q && below 8 prio
  | .xoffRepeatTimer p q prio => below 4 p && below 2 q && below 8 prio
  | .pfcFrameReceive p q quanta => below 4 p && below 2 q && quanta.all (fun e => below 8 e.1 && below 65536 e.2)
  | .pauseExpiry p q prio => below 4 p && below 2 q && below 8 prio
  | .stormDetect p q prio => below 4 p && below 2 q && below 8 prio
  | .ethTransmitSelect p q => below 4 p && below 2 q
  | .ethLinkUp p q => below 4 p && below 2 q
  | .ethLinkDown p q => below 4 p && below 2 q
  | .ethAnRetry p q => below 4 p && below 2 q
  | .verifyRestart src p q => isRequester src && below 4 p && below 2 q
  | .verifyAttemptEnd p q _ => below 4 p && below 2 q
  | .tmapCommit src p => isRequester src && below 4 p
  | .tmapValidTimeout p => below 4 p
  | .ppsOutSecond => true
  | .ppsInEdge pin => below 16 pin
  | .gateChange src p q => isRequester src && below 4 p && below 2 q
  | .gateAdmissionComplete p q => below 4 p && below 2 q
  | .gateListSwap p q => below 4 p && below 2 q
  | .gateEntryAdvance p q => below 4 p && below 2 q
  | .shaperApply src p => isRequester src && below 4 p
  | .keySelWrite src kind slot => isRequester src && below 2 kind && below 4096 slot
  | .keyDataWrite src word v => isRequester src && below 16 word && below (2 ^ 32) v
  | .keyTweakWrite src _ v => isRequester src && below (2 ^ 32) v
  | .keyCommit src => isRequester src
  | .zeroise src => isRequester src
  | .cipherTest src => isRequester src
  | .cipherTestResult result => below 4 result
  | .bar4Access _ _ _ errs => errs.all MemErr.ok
  | .cxlMemAccess addr _ _ errs => below (2 ^ 64) addr && errs.all MemErr.ok
  | .apertureAccess ins _ _ _ errs => below 512 ins && errs.all MemErr.ok
  | .windowBaseWrite src v => isRequester src && below (2 ^ 32) v
  | .atomicopRequest fn addr => below 513 fn && below (2 ^ 64) addr
  | .configRequest w => w.ok
  | .hostLinkUp _ _ => true
  | .perstAssert => true
  | .perstDeassert => true
  | .pfFlr => true
  | .vfFlr ins => below 512 ins
  | .hostReadError addr _ kind => below (2 ^ 64) addr && (below 5 kind && kind != 0)
  | .p2pProbe src => isRequester src
  | .p2pProbeResult window cpl => below 16 window && below 4 cpl
  | .fenceConditionMet ctx idx => below 514 ctx && below (2 ^ 24) idx
  | .mbH2rProdWrite src v => isRequester src && below (2 ^ 32) v
  | .mbHostConsWrite src v => isRequester src && below (2 ^ 32) v
  | .hello owner => isOwner owner
  | .ping owner => isOwner owner
  | .info owner => isOwner owner
  | .mailboxMalformed owner => isOwner owner
  | .relaySend => true
  | .relayFrameReceive k => below 32 k
  | .relayAckReceive k => below 32 k
  | .relayResendTimer => true
  | .insEnable src ins _ => isRequester src && below 512 ins
  | .insReset src ins => isRequester src && below 512 ins
  | .vfEnableChange n => below 513 n
  | .qpDrainEnd qpn => below (2 ^ 24) qpn
  | .resetSquash ins => below 512 ins
  | .instanceQuotaWrite src ins reg v => isRequester src && below 512 ins && below 3 reg && below (2 ^ 32) v
  | .watchdogCore0Expiry => true
  | .watchdogExpiry core => below 16 core
  | .coreRestartComplete core => below 16 core
  | .coreReset src => isRequester src
  | .moduleReset src => isRequester src
  | .auxPowerGood => true
  | .mainPowerLoss _ _ => true
  | .mainPowerReturn => true
  | .bootRomChecksDone => true
  | .imageVerifyDone => true
  | .settingsRecordRead _ => true
  | .mainRailsSequenced => true
  | .dieResetsReleased => true
  | .bootComplete => true
  | .kaAck src v => isRequester src && below (2 ^ 32) v
  | .stage src => isRequester src
  | .stageComplete fail => below 3 fail
  | .verify src => isRequester src
  | .activateLive src => isRequester src
  | .liveLoadComplete => true
  | .handoffBell => true
  | .coreResumeReport core => below 16 core
  | .handoffTimeout => true
  | .activateNext src => isRequester src
  | .abandon src => isRequester src
  | .setWrite src => isRequester src
  | .setWriteComplete _ => true
  | .programPage src => isRequester src
  | .raiseSvn src => isRequester src
  | .governorPowerLimit => true
  | .governorSkipEnd _ => true
  | .overcurrent => true
  | .junctionTempLimit _ => true
  | .cribTempLimit => true
  | .railOutOfLimit => true
  | .faultInterrupt => true
  | .forceWrite src source _ => isRequester src && below 1024 source
  | .srcCfgWrite src cls n w => isRequester src && below 4 cls && below 256 n && below 65536 w
  | .heartbeat h b => h.ok && b.ok
  | .heartbeatMissing => true
  | .substitutionAnnounce k => below 32 k
  | .switchBell reissue => reissue.all (below (2 ^ 24))
  | .mirrorWriteReceive k => below 32 k
  | .twinCtrlWrite src v => isRequester src && below (2 ^ 32) v
  | .lift src => isRequester src
  | .attach src => isRequester src
  | .cancel src => isRequester src
  | .recovered src => isRequester src
  | .twinCopyComplete => true
  | .liftDrainComplete => true
  | .kaSenseSample _ _ => true
  | .kaCapacitorLost => true
  | .leakSense => true
  | .lidOpen => true
  | .leakInSample pin _ => below 16 pin
  | .gpFuncWrite src pin f => isRequester src && below 16 pin && below 16 f
  | .gpHoldEnd pin => below 16 pin
  | .spiWrite addr words => below (2 ^ 32) addr && words.all (below (2 ^ 32))
  | .spiRead addr _ => below (2 ^ 32) addr
  | .spiStatus => true
  | .spiCsRelease cmd _ => below 256 cmd
  | .smbBlockWrite count addr v _ => below 256 count && below (2 ^ 32) addr && below (2 ^ 32) v
  | .smbProcessCall count addr _ => below 256 count && below (2 ^ 32) addr
  | .smbReadByte => true
  | .smbTimeout => true
  | .hostLinkDown => true
  | .prefetchPoolTimeout space => below 513 space
  | .faultCauseGone source => below 1024 source

/-- A well-formed command. -/
abbrev WellFormed (i : Instr) : Prop := i.wf = true

end Sys2Proof
end

