-- ==== Sys2Proof/Safety.lean ====
section
/-!
DEFINITION. Safety.lean: the terms in which claims speak of a step: what a command leaves, which register commands reach their register, states in
which nothing waits, and what holds of the module between any two commands.
-/
namespace Sys2Proof.Machine

/-- What a step answers when a command's effect leaves `c`: the next state, with what follows from the effect (`Chip.settle`) and the queue as it was. -/
def State.leaves (s : State) (c : Chip) : Host.Outcome State Fault Refusal := .next { s with chip := c.settle }

/-- A write by requester `src` at an offset of a page reaches a register of the block whose first page is `base`: it breaks no rule of R42–R46. -/
def Chip.reachesAt (c : Chip) (src base page off : Nat) : Bool :=
  !(decide (src < 512) && page != 0x100 + src) && (pageRow page).map (·.2.1) == some base && !c.busDead src &&
  (c.busBad src (page * 65536 + off) true false).isNone && (c.locate page off).isSome

/-- A write by requester `src` reaches the register of a field, in page `idx` of its block and the copy of sub-port `sub`. -/
def Chip.reaches (c : Chip) (src : Nat) (r : Fld) (idx sub : Nat) : Bool := c.reachesAt src r.page (r.page + idx) (r.off + 0x8000 * sub)

/-- A write by requester `src` reaches element `a` of an array of registers. -/
def Chip.reachesElem (c : Chip) (src : Nat) (r : Fld) (a : Nat) : Bool := c.reachesAt src r.page r.page (r.off + r.stride * a)

/-- A write by requester `src` reaches a KEY register: of the manager's page, or of the instance's own. -/
def Chip.reachesKey (c : Chip) (src : Nat) (r : Fld) (o : Nat := 0) : Bool :=
  if src < 512 then c.reachesAt src 0x100 (0x100 + src) (r.off + o + 0x180) else c.reachesAt src r.page r.page (r.off + o)

/-- Whose staging buffer a requester writes. -/
def keyOwner (src : Nat) : Nat := if src < 512 then src else mgrOwner

/-- Link `k` is there and the main rails are up. -/
def Chip.hasLink (c : Chip) (k : Nat) : Bool := c.railsUp && c.linkPresent k

/-- Port `p`, sub-port `q` is there and the main rails are up. -/
def Chip.hasPort (c : Chip) (p q : Nat) : Bool := c.railsUp && c.subPresent p q

/-- MODULE_STATE agrees with the almanacs: RUNNING while one runs or is held, READY while none does (R54). -/
def Chip.StateAgrees (c : Chip) : Prop := (c.mst = .running → c.anyRun = true) ∧ (c.mst = .ready → c.anyRun = false)

/-- What holds of the module between any two commands: no request of a fault source or of re-admission is left over, and MODULE_STATE agrees with the
almanacs. -/
def Chip.Settled (c : Chip) : Prop := c.safeReq = false ∧ c.containReq = [] ∧ c.readmitReq = false ∧ c.StateAgrees

/-- Nothing waits in the module that a command's end would take up: no ring failure, admin command, mailbox message, frame in transmission, second notice of
a reset, level-3 message of a combine, substitution or binding. -/
def Chip.Calm (c : Chip) : Prop :=
  c.Settled ∧ c.ringFail = [] ∧ c.admWait = [] ∧ c.ports = [] ∧ c.mbOut = [] ∧ c.tgrpDue = [] ∧ c.again = [] ∧ (∀ e ∈ c.qps, e.2.combine = false) ∧
  c.twin.stale = false ∧ c.tw ≠ Tw.bereft ∧ c.tw ≠ Tw.attaching

/-- Every memory of the module is in its canonical form. -/
def Chip.MemOk (c : Chip) : Prop := c.crib.wf = true ∧ c.grn.wf = true ∧ c.loft.wf = true ∧ c.host.wf = true ∧ c.flash.wf = true

end Sys2Proof.Machine
end

