-- ==== Sys2Proof/Certificates/Slice0/Obligations.lean ====
section
/-!
DEFINITION. Certificates/Slice0/Obligations.lean: what the provers prove. `State.leaves` says what a command leaves with what follows from it (log entry 165).
-/

open Sys2Proof Sys2Proof.Machine

/-- The command at the front of the queue is what a step runs, with the queue's rest. -/
def Obligations.StepRunsFrontCommand : Prop :=
  ∀ (i : Instr) (s : State), step { s with pending := i :: s.pending } = exec i s

/-- On an empty queue one beat passes, and nothing else changes: the model's choice of log entry 1, since the table has no row for a beat. The model's
choices: what is sent stands in a list (log entry 7). -/
def Obligations.EmptyQueuePassesOneBeat : Prop :=
  ∀ (s : State), s.pending = [] →
    ∃ t, step s = .next t ∧ t.pending = [] ∧ t.chip.beat = s.chip.beat + 1 ∧ t.chip.regs = s.chip.regs ∧ t.chip.ctxs = s.chip.ctxs ∧
      t.chip.crib = s.chip.crib ∧ t.chip.grn = s.chip.grn ∧ t.chip.loft = s.chip.loft ∧ t.chip.host = s.chip.host ∧ t.chip.out = s.chip.out

/-- Every command of the table answers a next state, whatever the state and its operands, and leaves the commands that wait as they were. -/
def Obligations.EveryCommandAnswersANextState : Prop :=
  ∀ (i : Instr) (s : State), ∃ t, exec i s = .next t ∧ t.pending = s.pending

/-- An invariant that every step keeps (R54): no request of a fault source, an instance reset or re-admission is left over, the module is RUNNING only
while an almanac is RUNNING or HELD and READY only while none is; and a step takes exactly the command at the front of the queue. -/
def Obligations.EveryStepKeepsTheModuleSettled : Prop :=
  ∀ (s t : State), s.chip.Settled → step s = .next t → t.chip.Settled ∧ t.pending = s.pending.tail

/-- The machine right after reset: every register field at its reset value, BOOTING in phase 0, mode BALANCED, every almanac EMPTY, memories in their
form, no command waiting; and what the invariant says holds of it. Fields whose reset value the spec does not give, the memory contents and the pins
are at the values of log entries 3, 4 and 6. The model's choices: what is sent stands in a list (log entry 7). -/
def Obligations.ResetLeavesTheStatedValues : Prop :=
  let c := State.reset.chip
  State.reset.pending = [] ∧ c.Settled ∧ c.MemOk ∧ (∀ (f : Fld) (i b a : Nat), c.rd f i b a = f.reset b a) ∧
  c.mst = .booting ∧ c.phase = 0 ∧ c.mode = .balanced ∧ c.beat = 0 ∧ (∀ n, (c.ctx n).st = .empty) ∧ (∀ k, k < 32 → c.linkState k = LinkSt.down) ∧
  (∀ n, c.src n = srcReset n) ∧ c.out = []

/-- A memory keeps its canonical form, a byte string stored reads back and leaves every other byte, a range zeroed reads 0, and a range whose content
is undefined leaves every other byte. That an undefined range leaves free bytes is log entry 5. -/
def Obligations.MemoriesReadBackWhatWasStored : Prop :=
  ∀ (m : Mem) (a n tag : Nat) (b : List Byte), m.wf = true →
    ((m.write a b).wf = true ∧ (∀ k, k < b.length → (m.write a b).get (a + k) = b.getD k 0) ∧
      (∀ x, x < a ∨ a + b.length ≤ x → (m.write a b).get x = m.get x)) ∧
    ((m.zero a n).wf = true ∧ (∀ x, a ≤ x → x < a + n → (m.zero a n).get x = 0) ∧ (∀ x, x < a ∨ a + n ≤ x → (m.zero a n).get x = m.get x)) ∧
    ((m.undefine tag a n).wf = true ∧ (∀ x, x < a ∨ a + n ≤ x → (m.undefine tag a n).get x = m.get x))

/-- Frame of commands that write registers alone: with nothing waiting in the module, each leaves every memory, almanac, queue, link and fault source,
and every register field but those named, as it was (of a pin that was no LEAK_IN also its pending function). -/
def Obligations.FrameOfRegisterCommands : Prop :=
  ∀ (s t : State) (src v count addr p : Nat), s.chip.Calm →
    let c := s.chip
    let only (keys : List Nat) : Prop :=
      t.pending = s.pending ∧ (∃ r, t.chip = { c with regs := r }) ∧ ∀ (f : Fld) (i b a : Nat), f.key i b a ∉ keys → t.chip.rd f i b a = c.rd f i b a
    (c.reaches src F.HST_WIN_BASE_BASE 0 0 = true → exec (.windowBaseWrite src v) s = .next t → only [F.HST_WIN_BASE_BASE.key 0 0 0]) ∧
    (exec (.spiCsRelease v count) s = .next t →
      only [F.MGT_STATUS_SPI_SHORT.key 0 0 0, F.MGT_STATUS_SPI_BADCMD.key 0 0 0, F.MGT_STATUS_SPI_PARTIAL.key 0 0 0]) ∧
    (count ≠ 8 → exec (.smbBlockWrite count addr v false) s = .next t → only [F.MGT_STATUS_SMB_FORMAT.key 0 0 0]) ∧
    (exec (.smbProcessCall 4 addr true) s = .next t → only [F.MGT_STATUS_SMB_PEC.key 0 0 0]) ∧
    (c.tw = Tw.paired → c.reaches src F.FLT_TWIN_CMD_CMD 0 0 = true → exec (.recovered src) s = .next t → only [F.FLT_TWIN_STATUS_RESULT.key 0 0 0]) ∧
    (c.reaches src F.GLB_CMD_CMD 0 0 = true → c.mst = .booting → exec (.goReady src) s = .next t → only [F.GLB_STATE_CMD_RESULT.key 0 0 0]) ∧
    (p < 16 → c.gpFunc p ≠ 5 → c.reaches src (gpReg p) 0 0 = true → v < 16 → exec (.gpFuncWrite src p v) s = .next t →
      t.pending = s.pending ∧ (∃ r l, t.chip = { c with regs := r, holds := l }) ∧
      ∀ (f : Fld) (i b a : Nat), f.key i b a ∉ [(gpFld p).key 0 0 0, F.MGT_GP_IN_CHG.key 0 0 0, F.MGT_STATUS_GP_CFG_ERR.key 0 0 0] →
        t.chip.rd f i b a = c.rd f i b a)

/-- Frame of a host's write of device memory (R352): the enabled byte is stored at its device physical address, every other byte of every memory and
every register stays. -/
def Obligations.FrameOfDeviceWrites : Prop :=
  ∀ (s t : State) (off x : Nat) (b : Byte), s.chip.Calm →
    let c := s.chip
    c.hostUp = true → c.mst ≠ .off → c.mst ≠ .keepalive → c.mst ≠ .safe → c.rd F.HST_STATUS_BAR4_FULL = 1 → off + 1 ≤ 2 ^ 42 →
    exec (.bar4Access off 1 (some [some b]) []) s = .next t →
      (c.dpa off = some (.crib, x) → c.stackUp (x / 2 ^ 36) = true →
        t.chip.crib.get x = b ∧ (∀ y, y ≠ x → t.chip.crib.get y = c.crib.get y) ∧ t.chip.grn = c.grn ∧ t.chip.loft = c.loft ∧ t.chip.host = c.host ∧
        t.chip.regs = c.regs ∧ t.chip.ctxs = c.ctxs ∧ t.pending = s.pending) ∧
      (c.dpa off = some (.grn, x) → c.channelUp (c.channelOf x) = true →
        t.chip.grn.get x = b ∧ (∀ y, y ≠ x → t.chip.grn.get y = c.grn.get y) ∧ t.chip.crib = c.crib ∧ t.chip.loft = c.loft ∧ t.chip.host = c.host ∧
        t.chip.regs = c.regs ∧ t.chip.ctxs = c.ctxs ∧ t.pending = s.pending)

/-- Violation records (R47): the first violation since the record was clear is kept with its address, source, access, reason and path; later ones only
count, to 255; a write of 1 to PAGE_STATUS.VIOL empties the record at once, and the next violation is the first again. -/
def Obligations.ViolationsAreRecorded : Prop :=
  ∀ (c : Chip) (page src addr acc bar : Nat) (why : Viol), page < 1024 → src < 1024 → acc < 2 → bar < 4 → addr < 2 ^ 64 →
    let e := c.violation page src addr acc bar why
    let d := c.violClear page
    (c.rd F.VIOL_INFO_COUNT page = 0 →
      e.rd F.PAGE_STATUS_VIOL page = 1 ∧ e.rd F.VIOL_INFO_COUNT page = 1 ∧ e.rd F.VIOL_INFO_SOURCE page = src ∧ e.rd F.VIOL_INFO_ACCESS page = acc ∧
      e.rd F.VIOL_INFO_REASON page = why.code ∧ e.rd F.VIOL_INFO_BAR page = bar ∧ e.rd F.VIOL_ADDR_ADDR page = addr) ∧
    (c.rd F.VIOL_INFO_COUNT page ≠ 0 →
      e.rd F.VIOL_INFO_COUNT page = min 255 (c.rd F.VIOL_INFO_COUNT page + 1) ∧ e.rd F.VIOL_INFO_SOURCE page = c.rd F.VIOL_INFO_SOURCE page ∧
      e.rd F.VIOL_INFO_ACCESS page = c.rd F.VIOL_INFO_ACCESS page ∧ e.rd F.VIOL_INFO_REASON page = c.rd F.VIOL_INFO_REASON page ∧
      e.rd F.VIOL_INFO_BAR page = c.rd F.VIOL_INFO_BAR page ∧ e.rd F.VIOL_ADDR_ADDR page = c.rd F.VIOL_ADDR_ADDR page) ∧
    (d.rd F.PAGE_STATUS_VIOL page = 0 ∧ d.rd F.VIOL_INFO_COUNT page = 0 ∧ d.rd F.VIOL_INFO_SOURCE page = 0 ∧ d.rd F.VIOL_INFO_REASON page = 0 ∧
      d.rd F.VIOL_INFO_ACCESS page = 0 ∧ d.rd F.VIOL_INFO_BAR page = 0 ∧ d.rd F.VIOL_ADDR_ADDR page = 0 ∧ d.srcs = c.srcs) ∧
    (∀ (l : Loc) (who v : Nat), l.page = page → l.reg.reg = .PAGE_STATUS → v % 2 = 1 → c.regWrite l who v = d.putReg l (v / 2 * 2))

/-- Register reads (R36, R37, R39, R44). An aligned read of 4 bytes that breaks no rule answers the word read and leaves what reading it leaves; one
of 8 bytes answers the lower word and then the higher. A read of another size or alignment, or with a byte enable clear, that breaks no other rule is
a SIZE violation. A read that violates answers Completer Abort to a host and zero to a sideband target. The word of a register that is no pair is its
value, and where no register lies it is 0 and nothing changes. The model's choices: what is sent stands in a list (log entry 7). -/
def Obligations.RegisterReadsAreAnswered : Prop :=
  ∀ (s : State) (src addr size : Nat) (full : Bool) (w : Viol), s.chip.busDead src = false →
    let c := s.chip
    let r := c.readWord src (busAddr src addr)
    let t := s.leaves (r.2.emit (.readData src addr r.1))
    let d := r.2.emit (.readData src addr r.1)
    let q := d.readWord src (busAddr src (addr + 4))
    let no := s.leaves ((c.busViol src addr false w).emit (if fromSideband src then .readData src addr 0 else .completerAbort src addr))
    (addr % 4 = 0 → c.busBad src addr false false = none →
      exec (.rcFieldRead src addr ⟨4, true⟩) s = t ∧ exec (.pairLoRead src addr) s = t ∧ exec (.pairHiRead src addr) s = t ∧
      (addr = 0xa00e8 → exec (.genOutRead src) s = t)) ∧
    (addr % 8 = 0 → c.busBad src addr false false = none → d.busBad src (addr + 4) false false = none →
      exec (.rcFieldRead src addr ⟨8, true⟩) s = s.leaves (q.2.emit (.readData src (addr + 4) q.1))) ∧
    (sizeOk addr size full = false → c.busBad src addr false true = some w → exec (.rcFieldRead src addr ⟨size, full⟩) s = no) ∧
    (addr % 4 = 0 → c.busBad src addr false false = some w →
      exec (.rcFieldRead src addr ⟨4, true⟩) s = no ∧ exec (.pairLoRead src addr) s = no ∧ exec (.pairHiRead src addr) s = no) ∧
    (c.busBad src addr false false = none → (pageRow (busAddr src addr / 65536)).isSome = true → busAddr src addr < 0x4000000 →
      c.pageAbsent (busAddr src addr / 65536) = false → c.busBad src addr false true = some .size) ∧
    (∀ l, c.pageAbsent (addr / 65536) = false → c.locate (addr / 65536) (addr % 65536) = some l → l.open_ = false → l.reg.pair = false →
      c.readWord src addr = (c.regVal l 0 % 2 ^ 32, c.clearRc l)) ∧
    (c.locate (addr / 65536) (addr % 65536) = none → c.readWord src addr = (0, c))

/-- Reading an RC field (R9, R11): the read answers the low word of its register's value, and leaves the field 0: the count of the source selected for
FLT_SRC_COUNT, and for CMB_TRIG_PEAK the triggered operations that are in flight then (R259). -/
def Obligations.ReadingRcFieldClearsIt : Prop :=
  ∀ (c : Chip) (src addr : Nat) (l : Loc) (f : Fld),
    c.pageAbsent (addr / 65536) = false → c.locate (addr / 65536) (addr % 65536) = some l → l.open_ = false → l.hi = false →
    f ∈ l.reg.fields → f.acc = .rc →
    let d := (c.readWord src addr).2
    (c.readWord src addr).1 = c.regVal l 0 % 2 ^ 32 ∧
    (l.reg.reg = .FLT_SRC_COUNT → srcNamed (c.rd F.FLT_SRC_SEL_SOURCE) = true → (d.src (c.rd F.FLT_SRC_SEL_SOURCE)).count = 0) ∧
    (l.reg.reg = .CMB_TRIG_PEAK → d.rd f l.idx (c.bankOf l) l.elem = c.opsInFlight % 2 ^ f.width) ∧
    (l.reg.reg ≠ .FLT_SRC_COUNT → l.reg.reg ≠ .CMB_TRIG_PEAK → d.rd f l.idx (c.bankOf l) l.elem = 0)

/-- R39: the low word of a pair latches the high word of that moment; a later read of the high word by the same requester takes the latched word,
empties the latch and changes nothing else, whatever the pair holds by then. R39: a read of a high word whose latch is empty or holds another pair
answers the live word and sets LATCH_MISS of the page. -/
def Obligations.PairReadsAreOneMoment : Prop :=
  (∀ (c d : Chip) (src addr : Nat) (l h : Loc),
    c.pageAbsent (addr / 65536) = false → c.locate (addr / 65536) (addr % 65536) = some l → l.open_ = false → l.hi = false → l.reg.pair = true →
    d.rdLatch = (c.readWord src addr).2.rdLatch → d.pageAbsent ((addr + 4) / 65536) = false →
    d.locate ((addr + 4) / 65536) ((addr + 4) % 65536) = some h → h.open_ = false → h.hi = true → h.reg.pair = true →
    (c.readWord src addr).1 = c.regVal l 0 % 2 ^ 32 ∧ (d.readWord src (addr + 4)).1 = c.regVal l 0 / 2 ^ 32 % 2 ^ 32 ∧
    (d.readWord src (addr + 4)).2 = { d with rdLatch := Table.erase src d.rdLatch } ∧ Table.find? src (Table.erase src d.rdLatch) = none) ∧
  (∀ (c : Chip) (src addr : Nat) (h : Loc),
    c.pageAbsent (addr / 65536) = false → c.locate (addr / 65536) (addr % 65536) = some h → h.open_ = false → h.hi = true → h.reg.pair = true →
    (∀ x, Table.find? src c.rdLatch = some x → x.pair + 4 ≠ addr) →
    (c.readWord src addr).1 = c.regVal h 0 / 2 ^ 32 % 2 ^ 32 ∧ (c.readWord src addr).2.rd F.PAGE_STATUS_LATCH_MISS (addr / 65536) = 1 ∧
    (c.readWord src addr).2.rdLatch = c.rdLatch)

/-- Register writes (R36, R37, R44). An aligned write of 4 bytes that breaks no rule has the effect of the word written, VIOL_CLEAR that of 1 in
PAGE_STATUS; one of 8 bytes writes the lower word and then the higher; where no register lies nothing changes. A write of another size or alignment,
or with a byte enable clear, that breaks no other rule is a SIZE violation, which is recorded and writes nothing. R44: a write that breaks a rule of
reach or state is dropped, and only its record and, of a sideband target, that target's flag change. -/
def Obligations.RegisterWritesTakeEffect : Prop :=
  (∀ (s : State) (src addr size v : Nat) (full : Bool) (w : Viol), s.chip.busDead src = false →
    let c := s.chip
    let d := c.writeWord src (busAddr src addr) v
    (addr % 4 = 0 → c.busBad src addr true false = none →
      exec (.registerWrite src addr ⟨4, true⟩ v) s = s.leaves d ∧ exec (.pairLoWrite src addr v) s = s.leaves d ∧
      exec (.pairHiWrite src addr v) s = s.leaves d ∧ (∀ page, addr = page * 65536 + 0xc → v = 1 → exec (.violClear src page) s = s.leaves d)) ∧
    (addr % 8 = 0 → c.busBad src addr true false = none → d.busBad src (addr + 4) true false = none →
      exec (.registerWrite src addr ⟨8, true⟩ v) s = s.leaves (d.writeWord src (busAddr src (addr + 4)) (v / 2 ^ 32))) ∧
    (c.locate (addr / 65536) (addr % 65536) = none → c.writeWord src addr v = c) ∧
    (∀ l, c.locate (addr / 65536) (addr % 65536) = some l → l.rwPair = false → l.hi = false → c.writeWord src addr v = c.regWrite l src (v % 2 ^ 32)) ∧
    (sizeOk addr size full = false → c.busBad src addr true true = some w → exec (.registerWrite src addr ⟨size, full⟩ v) s = s.leaves (c.busViol src addr true w)) ∧
    (c.busBad src addr true false = none → c.busBad src addr true true = some .size)) ∧
  (∀ (s : State) (src addr v : Nat) (w : Viol), s.chip.busDead src = false → addr % 4 = 0 → s.chip.busBad src addr true false = some w →
    let c := s.chip
    let page := busAddr src addr / 65536
    let home := if (pageRow page).isSome && !c.pageAbsent page && decide (busAddr src addr < 0x4000000) then page else 0
    let r := c.violation home src addr 1 (if fromSideband src then 3 else 0) w
    let d := if src = 0x3FE then r.wr F.MGT_STATUS_SPI_VIOL 1 else if src = 0x3FD then r.wr F.MGT_STATUS_SMB_VIOL 1 else r
    exec (.registerWrite src addr ⟨4, true⟩ v) s = s.leaves d ∧ exec (.pairLoWrite src addr v) s = s.leaves d ∧
    exec (.pairHiWrite src addr v) s = s.leaves d ∧ (∀ p, addr = p * 65536 + 0xc → exec (.violClear src p) s = s.leaves d))

/-- R40: a write of a low word of an RW pair stores the word and the pair's address in the requester's latch and nothing else; the high word then
writes both words at once and empties the latch; with the latch empty or of another pair it writes the high word beside the present low word and sets
LATCH_MISS. -/
def Obligations.PairWriteCommitsBothWords : Prop :=
  ∀ (c : Chip) (src addr v : Nat) (l h : Loc),
    c.locate (addr / 65536) (addr % 65536) = some l → l.rwPair = true → l.hi = false →
    (c.writeWord src addr v) = { c with wrLatch := Table.insert src ⟨addr, v % 2 ^ 32⟩ (Table.erase src c.wrLatch) } ∧
    (c.locate ((addr + 4) / 65536) ((addr + 4) % 65536) = some h → h.rwPair = true → h.hi = true → ∀ w,
      (∀ x, Table.find? src c.wrLatch = some x → x.pair = addr →
        c.writeWord src (addr + 4) w = ({ c with wrLatch := Table.erase src c.wrLatch } : Chip).regWrite h src (x.word + w % 2 ^ 32 * 2 ^ 32)) ∧
      ((∀ x, Table.find? src c.wrLatch = some x → x.pair ≠ addr) →
        c.writeWord src (addr + 4) w = (c.latchMiss h.page).regWrite h src (c.regVal h 0 % 2 ^ 32 + w % 2 ^ 32 * 2 ^ 32)))

/-- Module state commands (R54). GO_READY in SAFE with no SAFE cause sets CMD_RESULT 1, releases the outputs, and the module is READY, or REFUSED
where the host's last HELLO asked for a revision it does not serve; with a SAFE cause only CMD_RESULT 2 is set; outside SAFE only CMD_RESULT 3.
GO_SAFE in READY or RUNNING sets CMD_RESULT 1 and asks for the safe state; in any other state only CMD_RESULT 3 is set. R54, R415: the safe-state
request that a SAFE-class source or GO_SAFE leaves is taken as the step ends: a READY or RUNNING module gives up its update, drives the safe-state
outputs and is in SAFE, FWC PHASE 7; in SAFE or OFF nothing more happens. The model's choices: what is sent stands in a list (log entry 7). -/
def Obligations.ModuleStateCommands : Prop :=
  (∀ (s : State) (src : Nat), s.chip.reaches src F.GLB_CMD_CMD 0 0 = true →
    let c := s.chip
    let d := (c.wr F.GLB_STATE_CMD_RESULT 1).safeRelease
    (c.mst = .safe → c.safeCause = false → exec (.goReady src) s = s.leaves d.byHello ∧
      (d.hello = none → d.byHello.mst = .ready) ∧
      (∀ r, d.hello = some r → d.byHello.mst = (if d.revOk r then .ready else .refused))) ∧
    (c.mst = .safe → c.safeCause = true → exec (.goReady src) s = s.leaves (c.wr F.GLB_STATE_CMD_RESULT 2)) ∧
    (c.mst ≠ .safe → exec (.goReady src) s = s.leaves (c.wr F.GLB_STATE_CMD_RESULT 3)) ∧
    (c.mst = .ready ∨ c.mst = .running → exec (.goSafe src) s = s.leaves { c.wr F.GLB_STATE_CMD_RESULT 1 with safeReq := true }) ∧
    (c.mst ≠ .ready → c.mst ≠ .running → exec (.goSafe src) s = s.leaves (c.wr F.GLB_STATE_CMD_RESULT 3))) ∧
  (∀ (c : Chip), c.safeReq = true →
    (c.mst = .ready ∨ c.mst = .running → c.doSafe.mst = .safe ∧ c.doSafe.safeReq = false ∧ c.doSafe.rd F.FWC_STATUS_PHASE = 7 ∧
      c.doSafe.crib = c.abandon.safeOutputs.twinSafe.crib ∧ c.doSafe.ctxs = c.abandon.safeOutputs.twinSafe.ctxs ∧
      c.doSafe.out = c.abandon.safeOutputs.twinSafe.out) ∧
    (c.mst = .safe ∨ c.mst = .off → c.doSafe = { c with safeReq := false }))

/-- Modes (R22, R55, R56). A write of GLB_MODE takes W1C bits 9 and 10, names the request, sets PENDING where it differs from the mode, and counts
toward the next boundary if 64 beats remain before it, else the one after. At its bell a request for FULL with an inlet above 30 °C is refused with
reason 2; one that context 0, ADMITTED, RUNNING or HELD, excludes, with reason 1; any other becomes MODE; PENDING is 0 after. At a forced change's
bell MODE becomes BALANCED with FORCED 1, a request due then for another mode is refused with reason 3, and a running or held context 0 that excludes
BALANCED originates a HOLD of cause 2. With neither due nothing changes. BELL_BOUNDARY (R5) brings BEAT to the next boundary not yet taken, a multiple
of 2^20 beats. Without main power nothing else happens; with it the sensors are read, the coolant rule is applied, the windows of the fault sources
move, and marks, links and the twin take their bell, in this order. The model's choices: timed commands move BEAT (log entry 9); an impossible event
does nothing (2). -/
def Obligations.ModesAndBells : Prop :=
  (∀ (s : State) (src v f : Nat),
    let c := s.chip
    let e := (if bit v 10 then (if bit v 9 then c.wr F.GLB_MODE_REFUSED 0 else c).wr F.GLB_MODE_FORCED 0 else (if bit v 9 then c.wr F.GLB_MODE_REFUSED 0 else c))
    let d := c.advanceTo (c.modeBell * bellBeats)
    let req := c.rd F.GLB_MODE_REQUEST
    let st := (c.ctx 0).st
    let g := (({ c.advanceTo (f * bellBeats) with forceBell := none } : Chip).wr F.GLB_MODE_FORCED 1).takeMode 1
    let due := c.on F.GLB_MODE_PENDING && decide (c.modeBell ≤ f)
    let h := if due = true ∧ req ≠ 1 then g.refuseMode 3 else g
    let k := if (st == .running || st == .held) && !(h.ctx 0).includes 1 && !h.ownCauses.contains .mode then h.originate 2 .mode else h
    (c.reaches src F.GLB_MODE_REQUEST 0 0 = true →
      exec (.modeRequest src v) s = s.leaves { (e.wr F.GLB_MODE_REQUEST (field v 4 2)).wr F.GLB_MODE_PENDING (b2n (field v 4 2 != c.modeNo)) with
        modeBell := if c.beat + 64 ≤ (c.bell + 1) * bellBeats then c.bell + 1 else c.bell + 2 }) ∧
    ((∀ b, c.forceBell = some b → c.modeBell < b) → c.on F.GLB_MODE_PENDING = true → c.beat ≤ c.modeBell * bellBeats →
      (req = 0 → 3000 < c.rd F.MGT_COOLANT_T_INLET → exec .modeBellEvaluation s = s.leaves ((d.refuseMode 2).wr F.GLB_MODE_PENDING 0)) ∧
      (¬ (req = 0 ∧ 3000 < c.rd F.MGT_COOLANT_T_INLET) → st = .running ∨ st = .held ∨ st = .admitted → (c.ctx 0).includes req = false →
        exec .modeBellEvaluation s = s.leaves ((d.refuseMode 1).wr F.GLB_MODE_PENDING 0)) ∧
      (¬ (req = 0 ∧ 3000 < c.rd F.MGT_COOLANT_T_INLET) → (st = .running ∨ st = .held ∨ st = .admitted → (c.ctx 0).includes req = true) →
        exec .modeBellEvaluation s = s.leaves ((d.takeMode req).wr F.GLB_MODE_PENDING 0) ∧ (d.takeMode req).mode = Mode.ofCode req)) ∧
    (c.forceBell = some f → (c.on F.GLB_MODE_PENDING = true → f ≤ c.modeBell) → c.beat ≤ f * bellBeats →
      exec .modeBellEvaluation s = s.leaves (if due then k.wr F.GLB_MODE_PENDING 0 else k)) ∧
    (c.forceBell = none → c.on F.GLB_MODE_PENDING = false → exec .modeBellEvaluation s = s.leaves c)) ∧
  (∀ (s : State) (r : Sensors),
    let c := s.chip
    let n := if c.bellDone < c.bell then c.bell else c.bell + 1
    let d : Chip := { c with beat := max c.beat (n * 2 ^ 20), bellDone := n }
    let e := (d.readSensors r).coolant n
    (c.mst = .off ∨ c.mst = .keepalive → exec (.bellBoundary r) s = s.leaves d) ∧
    (c.mst ≠ .off → c.mst ≠ .keepalive →
      exec (.bellBoundary r) s = s.leaves (({ e with srcs := e.srcs.map (fun (x : Nat × Src) => (x.1, x.2.atBell c.bellDone n)) }.clockBell.linkBell).twinBell)))

/-- Almanac commands (R75, R77, R89, R121, R125, R132), given to the context ALM_CTX selects. CMD_ERR is 4 while its instance is being reset; else 2
while an admission runs in it, and for LOAD and RUN of a stead or fallow context while CHAFF_CLEAR is BUSY; else 1 in a state that does not take the
command; nothing else changes then. Otherwise CMD_ERR is 0 and: UNLOAD empties the context; STOP names the next bell; ADMIT begins an admission with
what it finds, of a HELD stead or fallow almanac the running test; RUN of a local almanac makes it RUNNING before its first entry; RUN of a stead or
fallow almanac sets CMD_ERR 3 where its start bell is not two bells ahead, and else records that bell with STEP and HELD_BELLS 0; LOAD refuses the
context with the reason of a bad HEAD, and else it is LOADED with that HEAD, in context 0 with the chaff its almanac names cleared. -/
def Obligations.AlmanacCommands : Prop :=
  ∀ (s : State) (src : Nat), s.chip.reaches src F.ALM_CMD_CMD 0 0 = true →
    let c := s.chip
    let n := c.rd F.ALM_CTX_CTX
    let x := c.ctx n
    let ok := c.wr F.ALM_STATE_CMD_ERR 0 0 n
    let no (e : Nat) := s.leaves (c.wr F.ALM_STATE_CMD_ERR e 0 n)
    let b := c.rd F.ALM_START_BELL 0 n
    let ends := x.st = .loaded ∨ x.st = .refused ∨ x.st = .done
    (2 ≤ n → c.insResetting (n - 2) = true →
      exec (.load src) s = no 4 ∧ exec (.admitAlmanac src) s = no 4 ∧ exec (.run src) s = no 4 ∧ exec (.stop src) s = no 4 ∧ exec (.unload src) s = no 4) ∧
    ((2 ≤ n → c.insResetting (n - 2) = false) →
      (x.adm ≠ none → exec (.load src) s = no 2 ∧ exec (.admitAlmanac src) s = no 2 ∧ exec (.run src) s = no 2 ∧ exec (.stop src) s = no 2 ∧
        exec (.unload src) s = no 2) ∧
      (n < 2 → c.chaffBusy = true → exec (.load src) s = no 2 ∧ exec (.run src) s = no 2) ∧
      (x.adm = none →
        (¬ ends → exec (.unload src) s = no 1) ∧
        (ends → exec (.unload src) s = s.leaves ((ok.setCtx n {}).wr F.ALM_STATE_REASON 0 0 n).sizeStead) ∧
        (x.st ≠ .running → x.st ≠ .held → exec (.stop src) s = no 1) ∧
        (x.st = .running ∨ x.st = .held → exec (.stop src) s = s.leaves (ok.setCtx n { x with stopReq := some (c.bell + 1) })) ∧
        (¬ ends → ¬ (x.st = .held ∧ n < 2) → exec (.admitAlmanac src) s = no 1) ∧
        (ends → ∃ d, exec (.admitAlmanac src) s = s.leaves d ∧ d.ctx n = { x with adm := some .first, admWhy := ok.admission n false, admHead := (d.ctx n).admHead } ∧
          ∀ m, m ≠ n → d.ctx m = c.ctx m) ∧
        (x.st = .held → n < 2 → ∃ d, exec (.admitAlmanac src) s = s.leaves d ∧
          d.ctx n = { x with adm := some .rerun, admWhy := ok.admission n true, admHead := (d.ctx n).admHead } ∧ ∀ m, m ≠ n → d.ctx m = c.ctx m) ∧
        (2 ≤ n ∨ c.chaffBusy = false →
          (x.st ≠ .admitted → exec (.run src) s = no 1) ∧
          (2 ≤ n → x.st = .admitted → exec (.run src) s = s.leaves (((ok.setCtx n { x with
              st := .running, next := 1, frames := [], ready := c.beat, started := false, inFlight := [], cached := [], stopReq := none, lastIssued := 0 }).wr
            F.ALM_STEP_STEP 0 0 n).wr F.ALM_HELD_BELLS 0 0 n)) ∧
          (n < 2 → x.st = .admitted → b < c.bell + 2 → exec (.run src) s = no 3) ∧
          (n < 2 → x.st = .admitted → c.bell + 2 ≤ b → ∃ d, exec (.run src) s = s.leaves d ∧ d.ctx n = { x with startBell := some b } ∧
            d.rd F.ALM_STATE_CMD_ERR 0 n = 0 ∧ d.rd F.ALM_STEP_STEP 0 n = 0 ∧ d.rd F.ALM_HELD_BELLS 0 n = 0 ∧ d.crib = c.crib ∧ d.grn = c.grn ∧ d.host = c.host) ∧
          (x.st.idle = false → exec (.load src) s = no 1) ∧
          (x.st.idle = true → ∀ r, ok.readHead n = .inr r →
            exec (.load src) s = s.leaves (((ok.setCtx n { st := .refused }).wr F.ALM_STATE_REASON r 0 n).wr F.ALM_FAIL_IDX_INDEX 0 0 n).sizeStead) ∧
          (x.st.idle = true → ∀ h, ok.readHead n = .inl h →
            let d := ((ok.setCtx n { st := .loaded, head := some h }).wr F.ALM_STATE_REASON 0 0 n).sizeStead
            (n ≠ 0 → exec (.load src) s = s.leaves d) ∧ (n = 0 → exec (.load src) s = s.leaves d.loadChaff)))))

/-- ADMISSION_COMPLETE (R75, R76, R79): with no admission under way nothing happens. Otherwise BUSY clears in the context, other contexts stay, and an
ADMIT that passes makes it ADMITTED under the HEAD that was read, with REASON 0; one that fails makes it REFUSED with the reason and the entry's
index; a re-admission that fails returns an ADMITTED almanac to LOADED without a start bell; a running test that fails marks the running or held
almanac, records the reason and originates a HOLD unless its cause is one already; an ADMIT of a held almanac that passes takes the mark away; a
change that came meanwhile begins a re-admission. Bells of an almanac (R64, R75, R77). STOP_TAKES_EFFECT ends a stead or fallow almanac at the bell
after its STOP, a local one once nothing is in flight, with REASON 0x20; without a STOP, or with a local entry in flight, nothing happens. At its
start bell an ADMITTED almanac is RUNNING from its first entry with its top-level frame at that bell, unless a HOLD is in force there, when it waits;
in SAFE, or no longer ADMITTED, it forgets the bell. An almanac whose running test failed originates a HOLD unless it has, and at the hold bell it is
HELD; a BELL_WAIT's frame starts at the bell it named, once every entry of the frame before has issued, unless a HOLD is in force there. The model's
choices: timed commands move BEAT (log entry 9); an impossible event does nothing (2). -/
def Obligations.AdmissionsEndAndBellsStart : Prop :=
  (∀ (s : State) (n : Nat),
    let c := s.chip
    let x := c.ctx n
    let y : Ctx := { x with adm := none, admWhy := none, admHead := none, admAgain := false }
    (x.adm = none → exec (.admissionComplete n) s = s.leaves c) ∧
    (x.admAgain = false →
      (∀ i r, x.adm = some .first → x.admWhy = some (i, r) →
        ∃ d, exec (.admissionComplete n) s = s.leaves d ∧ d.ctx n = { y with st := .refused } ∧ d.rd F.ALM_STATE_REASON 0 n = r % 256 ∧
          d.rd F.ALM_FAIL_IDX_INDEX 0 n = i % 2 ^ 25 ∧ ∀ m, m ≠ n → d.ctx m = c.ctx m) ∧
      (x.adm = some .first → x.admWhy = none →
        ∃ d, exec (.admissionComplete n) s = s.leaves d ∧ (d.ctx n).st = .admitted ∧ (d.ctx n).head = x.admHead ∧ (d.ctx n).adm = none ∧
          d.rd F.ALM_STATE_REASON 0 n = 0 ∧ ∀ m, m ≠ n → d.ctx m = c.ctx m) ∧
      (∀ i r, x.adm = some .again → x.admWhy = some (i, r) → x.st = .admitted →
        ∃ d, exec (.admissionComplete n) s = s.leaves d ∧ d.ctx n = { y with st := .loaded, startBell := none, xts := [] } ∧
          d.rd F.ALM_STATE_REASON 0 n = r % 256 ∧ d.rd F.ALM_FAIL_IDX_INDEX 0 n = i % 2 ^ 25 ∧ ∀ m, m ≠ n → d.ctx m = c.ctx m) ∧
      (∀ i r, x.adm = some .running ∨ x.adm = some .rerun → x.admWhy = some (i, r) → x.st = .running ∨ x.st = .held →
        ∃ d, exec (.admissionComplete n) s = s.leaves d ∧ d.rd F.ALM_STATE_REASON 0 n = r % 256 ∧ d.rd F.ALM_FAIL_IDX_INDEX 0 n = i % 2 ^ 25 ∧
          OwnCause.reeval n ∈ d.ownCauses ∧ (∀ m, m ≠ n → d.ctx m = c.ctx m) ∧
          (OwnCause.reeval n ∈ c.ownCauses → d.ctx n = y ∧ d.clk = c.clk) ∧ (OwnCause.reeval n ∉ c.ownCauses → d.ctx n = { y with failHold := true })) ∧
      (x.adm = some .running → x.admWhy = none →
        ∃ d, exec (.admissionComplete n) s = s.leaves d ∧ d.ctx n = { y with ops := (d.ctx n).ops } ∧ d.regs = c.regs ∧ ∀ m, m ≠ n → d.ctx m = c.ctx m) ∧
      (x.adm = some .again → x.admWhy = none →
        ∃ d, exec (.admissionComplete n) s = s.leaves d ∧ d.ctx n = { y with ops := (d.ctx n).ops } ∧ d.regs = c.regs ∧ ∀ m, m ≠ n → d.ctx m = c.ctx m) ∧
      (x.adm = some .rerun → x.admWhy = none →
        ∃ d, exec (.admissionComplete n) s = s.leaves d ∧ d.ctx n = { y with failHold := false, ops := (d.ctx n).ops } ∧ d.rd F.ALM_STATE_REASON 0 n = 0 ∧
          ∀ m, m ≠ n → d.ctx m = c.ctx m)) ∧
    (x.admAgain = true → x.adm = some .first → x.admWhy = none →
      ∃ d, exec (.admissionComplete n) s = s.leaves d ∧ (d.ctx n).st = .admitted ∧ (d.ctx n).adm = some .again ∧ ∀ m, m ≠ n → d.ctx m = c.ctx m)) ∧
  (∀ (s : State) (n : Nat),
    let c := s.chip
    let x := c.ctx n
    let d := c.steps n none
    (∀ b, x.stopReq = some b →
      (n < 2 → exec (.stopTakesEffect n) s = s.leaves ((c.advanceTo (b * 2 ^ 20)).almDone n 0x20)) ∧
      (2 ≤ n → x.inFlight = [] → exec (.stopTakesEffect n) s = s.leaves (c.almDone n 0x20)) ∧
      (2 ≤ n → x.inFlight ≠ [] → exec (.stopTakesEffect n) s = s.leaves c)) ∧
    (∀ r,
      let a := (c.almDone n r).ctx n
      a.st = .done ∧ a.frames = [] ∧ a.inFlight = [] ∧ a.startBell = none ∧ a.bellWait = none ∧ a.stopReq = none ∧ a.cached = [] ∧ a.head = x.head ∧
      (c.almDone n r).rd F.ALM_STATE_REASON 0 n = r % 256) ∧
    (x.stopReq = none → exec (.stopTakesEffect n) s = s.leaves c) ∧
    (∀ b, x.startBell = some b →
      let t := c.advanceTo (b * 2 ^ 20)
      (x.st ≠ .admitted ∨ c.mst = .safe → exec (.startBellReached n) s = s.leaves (t.setCtx n { x with startBell := none })) ∧
      (x.st = .admitted → c.mst ≠ .safe → (∃ h, c.hold.bell = some h ∧ h ≤ b) → exec (.startBellReached n) s = s.leaves t) ∧
      (x.st = .admitted → c.mst ≠ .safe → (∀ h, c.hold.bell = some h → b < h) →
        ∃ d, exec (.startBellReached n) s = s.leaves d ∧ (d.ctx n).st = .running ∧ (d.ctx n).frames = [{ origin := b * 2 ^ 20 }] ∧
          (d.ctx n).next = 1 ∧ (d.ctx n).startBell = none ∧ (d.ctx n).inFlight = [] ∧ (d.ctx n).head = x.head ∧ d.beat = max c.beat (b * 2 ^ 20))) ∧
    (x.startBell = none → exec (.startBellReached n) s = s.leaves c) ∧
    (x.st = .running → x.failHold = true →
      let e := if c.ownCauses.contains (.reeval n) then c else c.originate 1 (.reeval n)
      exec (.reevalHold n) s = s.leaves e.holdBellReached ∧
      (∀ b, n < 2 → e.hold.bell = some b → e.hold.held = false → e.hold.resume = none →
        (e.holdBellReached.ctx n).st = .held ∧ e.holdBellReached.hold.held = true ∧ e.holdBellReached.beat = max e.beat (b * 2 ^ 20))) ∧
    (x.failHold = false ∨ x.st ≠ .running → exec (.reevalHold n) s = s.leaves c) ∧
    (∀ b, (d.ctx n).bellWait = some b → (d.ctx n).st = .running → (∀ h, d.hold.bell = some h → b < h) → d.firstDue n = none →
      exec (.bellWaitFrameStart n) s = s.leaves ((d.advanceTo (b * 2 ^ 20)).setCtx n
        { d.ctx n with bellWait := none, frames := [{ origin := b * 2 ^ 20, loopIdx := d.waitIdx n }] })) ∧
    ((d.ctx n).bellWait = none ∨ (d.ctx n).st ≠ .running ∨ d.firstDue n ≠ none → exec (.bellWaitFrameStart n) s = s.leaves c) ∧
    (∀ b h, (d.ctx n).bellWait = some b → d.hold.bell = some h → h ≤ b → exec (.bellWaitFrameStart n) s = s.leaves c))

/-- STAMPED_ENTRY_ISSUE (R60, R63, R64), in a RUNNING stead or fallow almanac. Of the entries of all open frames that have not issued the one whose
beat comes first is next; of an entry the cache holds that is its frame's origin plus 64 × ISSUE; it is taken from the cache, or fetched now. Where
all have issued, or its beat is at or after a hold bell, nothing happens. Else BEAT comes to that beat, ALM_PC names it and it leaves the cache, and a
LOOP opens its frame there, a BELL_WAIT names its bell, OPEN_SHIFT opens the window for its slot, a NOP does nothing more, and any other entry goes to
its unit with its words and translations. STEPs without a beat of their own come first (log entry 198). LOCAL_ENTRY_ISSUE (R66, R149, R154). Nothing
happens in a context that holds no HEAD, or whose almanac is not RUNNING, is stead or fallow, has not had a shift, is asked to stop or has passed its
table, or while its instance is being reset. Else the next entry in table order, from the cache or fetched now: END does not issue, nor one whose
CHAIN names an entry still in flight; LOOP opens its frame; NOP, BELL_WAIT and OPEN_SHIFT pass; any other waits while its unit is not free, and else
translates, may stall, raises the instance's source where a translation fails, and goes to its unit, one of the thresher not before the shift's first
beat. The model's choices: timed commands move BEAT (log entry 9); an impossible event does nothing (2). -/
def Obligations.EntriesIssue : Prop :=
  (∀ (s : State) (n : Nat) (u : Due) (h : Head),
    let c := s.chip
    let d := c.steps n none
    let x := d.ctx n
    let r := d.fetched n u.idx
    let e := Entry.parse r.1.1
    let t := r.2.advanceTo u.beat
    let g := t.stampedAt n u
    n < 2 → x.head = some h → x.st = .running →
    (d.firstDue n = none → exec (.stampedEntryIssue n) s = s.leaves c) ∧
    (d.firstDue n = some u →
      (∀ v ∈ d.dues n, v.before u = false) ∧
      (∀ w pins, Table.find? u.idx x.cached = some (w, pins) → r = ((w, pins), d) ∧ (e.op ≠ Op.step → ∃ f ∈ x.frames, u.beat = f.origin + 64 * e.issue)) ∧
      (∀ b, r.2.hold.bell = some b → b * bellBeats ≤ u.beat → exec (.stampedEntryIssue n) s = s.leaves c) ∧
      ((∀ b, r.2.hold.bell = some b → u.beat < b * bellBeats) →
        (e.op = Op.nop → exec (.stampedEntryIssue n) s = s.leaves (g.steps n (some u.beat))) ∧
        (e.op = Op.loop → exec (.stampedEntryIssue n) s =
          s.leaves ((g.onCtx n (fun y => { y with frames := loopFrame u.idx u.beat e :: y.frames })).steps n (some u.beat))) ∧
        (e.op = Op.bellWait → exec (.stampedEntryIssue n) s = s.leaves
          ((g.onCtx n (fun y => { y with bellWait := some ((y.frames.getD u.frame { origin := 0 }).origin / bellBeats + e.p32) })).steps n (some u.beat))) ∧
        (e.op = Op.openShift → exec (.stampedEntryIssue n) s =
          s.leaves ((g.accrue.onThr (fun th => { th with window := some (u.beat + 64 * e.slot) })).steps n (some u.beat))) ∧
        (e.op ∉ [Op.nop, Op.loop, Op.bellWait, Op.openShift, Op.step] →
          ∃ i : Issued, i.idx = u.idx ∧ i.words = r.1.1 ∧ i.issue = u.beat ∧ i.slotEnd = u.beat + 64 * e.slot ∧ i.pins = r.1.2 ∧
            i.occEnd = u.beat + 64 * (e.slot + h.land e) ∧ i.stall = false ∧ i.late = false ∧ i.sent = none ∧ i.step = t.rd F.ALM_STEP_STEP 0 n ∧
            i.descs = t.entryDescs n e ∧ exec (.stampedEntryIssue n) s = s.leaves ((g.toUnit n i).steps n (some u.beat)))))) ∧
  (∀ (s : State) (n : Nat),
    let c := s.chip
    let d := c.skip n
    let x := d.ctx n
    let r := d.fetched n x.next
    let g := r.2
    let e := Entry.parse r.1.1
    let t := if e.onThresher then (match g.thr.shift with | some s => g.advanceTo s.go | none => g) else g
    let ds := t.entryDescs n e
    let p := t.localPins n x.next e.requester true (t.entryRanges n e (opndsOf ds))
    let v := if p.2.2.1 then p.2.2.2.instEvent (n - 2) 1 else p.2.2.2
    let waits := e.chain = true ∧ x.inFlight.any (fun f => f.idx == x.lastIssued) = true
    (x.head = none ∨ x.st ≠ .running ∨ n < 2 ∨ d.insResetting (n - 2) = true ∨ x.started = false ∨ x.stopReq ≠ none →
      exec (.localEntryIssue n) s = s.leaves c) ∧
    (∀ h, x.head = some h → h.entryCount ≤ x.next → exec (.localEntryIssue n) s = s.leaves c) ∧
    (∀ h, x.head = some h → x.st = .running → 2 ≤ n → d.insResetting (n - 2) = false → x.started = true → x.stopReq = none → x.next < h.entryCount →
      (e.op = Op.end_ ∨ waits → exec (.localEntryIssue n) s = s.leaves c) ∧
      (¬ waits →
        (e.op = Op.loop → exec (.localEntryIssue n) s = s.leaves (g.openLoop n x.next 0 e)) ∧
        (e.op = Op.nop ∨ e.op = Op.bellWait ∨ e.op = Op.openShift → exec (.localEntryIssue n) s = s.leaves (g.issued n x.next)) ∧
        (e.op ∉ [Op.end_, Op.loop, Op.nop, Op.bellWait, Op.openShift] →
          (g.unitFree n e = false → exec (.localEntryIssue n) s = s.leaves c) ∧
          (g.unitFree n e = true → exec (.localEntryIssue n) s = s.leaves ((v.issued n x.next).toUnit n {
            idx := x.next, words := r.1.1, upd := v.entryWords n (x.next + 1), descs := ds, step := v.rd F.ALM_STEP_STEP 0 n
            issue := v.beat, slotEnd := v.beat, occEnd := v.beat, stall := p.2.1, fail := p.2.2.1, pins := p.1 }))))))

/-- How entries complete (R65, R187, R361, R420). An entry in flight that is ready and not late takes the memory errors it met and does its work; it
leaves its unit, at once where no write of it is mirrored to the twin, else once the twin has placed them. A late one ends so by TRANSFER_COMPLETE,
and its cause passes. At a stead or fallow entry's last occupied beat what the thresher unit does, but UPDATE, ends by itself, as does a combine that
is ready; a MOVE, UPDATE, FENCE or combine that is not complete is late: it is counted, raises its source and originates a HOLD. A FENCE completes
once no earlier entry is in flight: SUBOP 1 at once, others with the host link up, behind a zero-length read of the function. END of an almanac with
nothing left makes it DONE with REASON 0, at its beat where it has a stamp. Otherwise these commands change nothing. The model's choices: timed
commands move BEAT (log entry 9); an impossible event does nothing (2); what is sent stands in a list (7). -/
def Obligations.EntriesComplete : Prop :=
  ∀ (s : State) (n idx : Nat) (ecc : List MemErr) (i : Issued),
    let c := s.chip
    let x := c.ctx n
    let m := ecc.foldl Chip.memError c
    let b := c.advanceTo (i.occEnd - 1)
    let ends (d : Chip) : Chip := if d.mirrorNew (d.doWork n i) = [] then (d.doWork n i).leaveUnit n i
      else (d.doWork n i).setFlight n i { i with sent := some (d.mirrorNew (d.doWork n i)), pins := [] }
    let past (d : Chip) : Chip := if i.late then d.passCauses (fun o => o == .late n i.idx) else d
    let alone (d : Chip) : Prop := ∀ k ∈ (d.ctx n).inFlight, k.idx = idx → k.issue ≠ i.issue
    let whole := i.e.inSlot = true ∨ (i.e.isCombine = true ∧ b.workReady n i = true)
    (x.flight idx = some i →
      (i.late = false → c.workReady n i = true →
        (i.sent = none → exec (.entryComplete n idx ecc) s = s.leaves (ends m)) ∧
        (∀ l, i.sent = some l → exec (.entryComplete n idx ecc) s = s.leaves (if m.mirrorPending l then m else m.leaveUnit n i))) ∧
      (i.late = true ∨ c.workReady n i = false → exec (.entryComplete n idx ecc) s = s.leaves c) ∧
      (i.late = true → c.workReady n i = true →
        (i.sent = none → c.mirrorNew (c.doWork n i) = [] → exec (.transferComplete n idx) s = s.leaves (past ((c.doWork n i).leaveUnit n i))) ∧
        (i.sent = none → c.mirrorNew (c.doWork n i) ≠ [] → exec (.transferComplete n idx) s = s.leaves (ends c)) ∧
        (∀ l, i.sent = some l → exec (.transferComplete n idx) s = s.leaves (if c.mirrorPending l then c else past (c.leaveUnit n i)))) ∧
      (i.late = false ∨ c.workReady n i = false → exec (.transferComplete n idx) s = s.leaves c) ∧
      (i.e.op = Op.fence → x.inFlight.takeWhile (fun k => k != i) = [] →
        (i.e.subop = 1 → exec (.fenceConditionMet n idx) s = s.leaves (past (c.leaveUnit n i))) ∧
        (i.e.subop ≠ 1 → c.hostUp = true →
          exec (.fenceConditionMet n idx) s = s.leaves (past ((c.free.2.emit (.hostRead (fnOf (ctxSpace n)) c.free.1 0)).leaveUnit n i))) ∧
        (i.e.subop ≠ 1 → c.hostUp = false → exec (.fenceConditionMet n idx) s = s.leaves c)) ∧
      (i.e.op ≠ Op.fence ∨ x.inFlight.takeWhile (fun k => k != i) ≠ [] → exec (.fenceConditionMet n idx) s = s.leaves c) ∧
      (2 ≤ n ∨ i.late = true → exec (.occupancyEndCheck n idx) s = s.leaves c) ∧
      (n < 2 → i.late = false →
        (i.sent = none → whole → b.mirrorNew (b.doWork n i) = [] → alone (ends b) → exec (.occupancyEndCheck n idx) s = s.leaves (ends b)) ∧
        (∀ l, i.sent = some l → b.mirrorPending l = false → alone (b.leaveUnit n i) → exec (.occupancyEndCheck n idx) s = s.leaves (b.leaveUnit n i)) ∧
        (i.sent = none → ¬ whole → (∀ k ∈ x.inFlight, k.idx = idx → k = i) →
          exec (.occupancyEndCheck n idx) s = s.leaves ((((b.setFlight n i { i with late := true }).count F.CLK_LATE_COUNT).event Flt.late).originate 0 (.late n idx))))) ∧
    (x.flight idx = none →
      exec (.transferComplete n idx) s = s.leaves c ∧ exec (.fenceConditionMet n idx) s = s.leaves c ∧ exec (.occupancyEndCheck n idx) s = s.leaves c ∧
      (n < 2 →
        let d := c.steps n none
        let y := d.ctx n
        ∀ h, y.head = some h →
          (y.st = .running → y.inFlight = [] → d.firstDue n = none → idx + 1 = h.entryCount → (d.entry n idx).op = Op.end_ → y.bellWait = none →
            ((d.entry n idx).stamp = false → exec (.entryComplete n idx ecc) s = s.leaves ((d.wr F.ALM_PC_INDEX idx 0 n).almDone n 0)) ∧
            ((d.entry n idx).stamp = true → exec (.entryComplete n idx ecc) s =
              s.leaves (((d.advanceTo ((y.frames.getLast?.getD { origin := 0 }).origin + 64 * (d.entry n idx).issue)).wr F.ALM_PC_INDEX idx 0 n).almDone n 0))) ∧
          (y.st ≠ .running ∨ y.inFlight ≠ [] ∨ d.firstDue n ≠ none ∨ idx + 1 ≠ h.entryCount ∨ (d.entry n idx).op ≠ Op.end_ ∨ y.bellWait ≠ none →
            exec (.entryComplete n idx ecc) s = s.leaves c)) ∧
      (2 ≤ n →
        let d := c.skip n
        let y := d.ctx n
        (y.st = .running → y.inFlight = [] → y.next = idx → (d.entry n idx).op = Op.end_ → y.bellWait = none →
          exec (.entryComplete n idx ecc) s = s.leaves ((d.wr F.ALM_PC_INDEX idx 0 n).almDone n 0)) ∧
        (y.st ≠ .running ∨ y.inFlight ≠ [] ∨ y.next ≠ idx ∨ (d.entry n idx).op ≠ Op.end_ ∨ y.bellWait ≠ none →
          exec (.entryComplete n idx ecc) s = s.leaves c)))

/-- ALMANAC_CACHE_FILL (R60, R149): an entry of the table of an almanac that is ADMITTED, RUNNING or HELD, not cached yet, is cached where its share
has room: 49,152 entries for the stead and fallow almanacs together, 16,384 for the local almanac of the shift's instance. The words are those of the
table, or zeros and one event where it does not translate; with a stead or fallow entry come its translations. Else nothing changes. Shifts (R85–R87,
R90, R133, R134). SHIFT_BOUNDARY does nothing while a shift switches; else the shift in progress ends at its length, admitted settings become active,
a window that has ended is forgotten, and an instance is chosen unless the module is SAFE, HELD or the unit not open; with no window end in sight its
switch begins now, with the slices it lacks to restore, or its length is fixed. A shift that would run past its spill deadline ends there. Spills and
restores take one slice each, the last restore fixing the shift's length; with none under way, or no free slice, nothing changes. THR_APPLY sends the
pending set to admission unless one is there; it is then kept for the next boundary, or refused with the first instance over the sum and the pending
copy reloaded. Chaff (R125). CHAFF_CLEAR from another requester than the manager, or while BUSY, is ignored; RESULT is 3 while context 0 is EMPTY,
else 1 while a stead or fallow almanac runs or is held, else 2 where the almanac names no such descriptor, and nothing else changes; otherwise BUSY is
1 with the ranges of the chosen descriptors. CHAFF_CLEAR_DONE writes +0 to each of them and clears BUSY; while not BUSY it does nothing. The model's
choices: timed commands move BEAT (log entry 9); an impossible event does nothing (2). -/
def Obligations.CachesShiftsAndChaff : Prop :=
  (∀ (s : State) (n idx : Nat),
    let c := s.chip
    let x := c.ctx n
    let room := if n < 2 then decide ((c.ctx 0).cached.length + (c.ctx 1).cached.length < 49152)
      else c.shiftInst == some (n - 2) && decide (((c.ctxs.filter (fun y => !isStead y.1)).map (·.2.cached.length)).sum < 16384)
    let ok := c.tableOk (ctxSpace n) (c.entryVa n idx) 32
    let w := if ok then c.entryWords n idx else List.replicate 8 0
    let e := Entry.parse w
    let p := c.steadPins e.requester (c.entryRanges n e (opndsOf (c.entryDescs n e)))
    (∀ h, x.head = some h → 0 < idx → idx < h.entryCount → room = true → Table.find? idx x.cached = none → x.st = .running ∨ x.st = .held ∨ x.st = .admitted →
      (2 ≤ n → exec (.almanacCacheFill n idx) s =
        s.leaves ((if ok then c else c.instEvent (n - 2) 1).setCtx n { x with cached := Table.insert idx (w, []) x.cached })) ∧
      (n < 2 → exec (.almanacCacheFill n idx) s =
        s.leaves ((if p.2.1 || !ok then p.2.2.event Flt.xltStead else p.2.2).onCtx n (fun y => { y with cached := Table.insert idx (w, p.1) y.cached })))) ∧
    (x.head = none ∨ idx = 0 ∨ room = false ∨ (Table.find? idx x.cached).isSome = true ∨ x.st ∉ [AlmState.running, .held, .admitted] →
      exec (.almanacCacheFill n idx) s = s.leaves c) ∧
    (∀ h, x.head = some h → h.entryCount ≤ idx → exec (.almanacCacheFill n idx) s = s.leaves c)) ∧
  (∀ (s : State) (src : Nat),
    let c := s.chip
    let e := match c.thr.shift with | some h => (c.advanceTo h.stop).endShift | none => c
    let f := e.accrue.onThr (fun t => match t.admitted with | some a => { t with active := a, admitted := none } | none => t)
    let g := if f.inWindow then f else f.onThr (fun t => { t with window := none })
    let waits := g.mst == .safe || g.hold.held || !g.isOpen
    (∀ h, c.thr.shift = some h → h.restore ≠ [] → exec .shiftBoundary s = s.leaves c) ∧
    ((∀ h, c.thr.shift = some h → h.restore = []) →
      (waits = true ∨ g.chooseInst = none → exec .shiftBoundary s = s.leaves g) ∧
      (∀ i, waits = false → g.chooseInst = some i → exec .shiftBoundary s = s.leaves (g.beginShift i) ∧
        (g.windowEnd i = none →
          let miss := (List.range (g.slices i).length).filter (fun j => match (g.slices i)[j]? with | some (SliceLoc.resident _) => false | _ => true)
          let go := g.beat + (if g.thr.lastInst = some i then 0 else g.drainNow)
          (miss ≠ [] → (g.beginShift i).thr.shift = some { inst := i, start := g.beat, go := go, stop := 0, restore := miss }) ∧
          (miss = [] → (g.beginShift i).thr.shift = some { inst := i, start := g.beat, go := go, stop := go + (g.shiftSet i).beats, restore := [] }))) ) ∧
    (∀ h d, c.thr.shift = some h → c.spillDeadline h.inst = some d →
      (h.restore ≠ [] ∨ d < h.stop → exec .spillDeadline s = s.leaves (c.advanceTo d).endShift) ∧
      (h.restore = [] → h.stop ≤ d → exec .spillDeadline s = s.leaves c)) ∧
    (c.thr.shift = none ∨ c.startBeat = none → exec .spillDeadline s = s.leaves c) ∧
    (∀ h, c.thr.shift = some h → c.endShift.thr.shift = none ∧ c.endShift.thr.lastInst = some h.inst) ∧
    (∀ i j rest, c.thr.spills = (i, j) :: rest →
      exec .sliceSpillComplete s = s.leaves (({ c with thr := { c.thr with spills := rest } } : Chip).spillSlice i j)) ∧
    (c.thr.spills = [] → exec .sliceSpillComplete s = s.leaves c) ∧
    (∀ h j rest, c.thr.shift = some h → h.restore = j :: rest → c.freeSlices ≠ [] →
      let d := (c.restoreSlice h.inst j).onThr (fun t => { t with shift := some { h with restore := rest } })
      exec .sliceRestoreComplete s = s.leaves (if rest = [] then d.fixShift else d)) ∧
    (c.thr.shift = none ∨ c.freeSlices = [] ∨ (∃ h ∈ c.thr.shift, h.restore = []) → exec .sliceRestoreComplete s = s.leaves c) ∧
    (c.reaches src F.THR_SHIFT_CMD_APPLY 0 0 = true →
      (c.thr.applying = none → exec (.thrApply src) s = s.leaves { c.wr F.THR_SHIFT_CMD_APPLY 1 with thr := { c.thr with applying := some c.pendingSet } }) ∧
      (c.thr.applying ≠ none → exec (.thrApply src) s = s.leaves c)) ∧
    (∀ set, c.thr.applying = some set → firstOver (0, 1) set = none → exec .thrApplyResult s =
      s.leaves { (c.wr F.THR_SHIFT_CMD_APPLY 0).wr F.THR_SHIFT_CMD_RESULT 0 with thr := { c.thr with applying := none, admitted := some set } }) ∧
    (∀ set i, c.thr.applying = some set → firstOver (0, 1) set = some i → i < 512 →
      ∃ d, exec .thrApplyResult s = s.leaves d ∧ d.thr = { c.thr with applying := none } ∧ d.rd F.THR_SHIFT_CMD_APPLY = 0 ∧ d.rd F.THR_SHIFT_CMD_RESULT = 1 ∧
        d.rd F.THR_SHIFT_CMD_FIRST = i ∧ ∀ k, k < 512 → d.rd F.THR_SHIFT_CFG_SHARE 0 k = (c.shiftSet k).share % 2 ^ 11 ∧ d.rd F.THR_SHIFT_CFG_PRIORITY 0 k = (c.shiftSet k).priority % 2 ^ F.THR_SHIFT_CFG_PRIORITY.width ∧
          d.rd F.THR_SHIFT_CFG_QUANTUM 0 k = (c.shiftSet k).quantum % 2 ^ 16 ∧ d.rd F.THR_SHIFT_STAGE_STAGE 0 k = (c.shiftSet k).stage % 2 ^ F.THR_SHIFT_STAGE_STAGE.width) ∧
    (c.thr.applying = none → exec .thrApplyResult s = s.leaves c)) ∧
  (∀ (s : State) (src : Nat),
    let c := s.chip
    let act := [0, 1].any (fun n => (c.ctx n).st == .running || (c.ctx n).st == .held)
    let chosen := if c.on F.ARI_CHAFF_DESC_ALL then c.chaffNamed else c.chaffNamed.filter (fun x => x.1 == c.rd F.ARI_CHAFF_DESC_DESC)
    let l := (chosen.filter (fun x => c.chaffClearable x.1 x.2)).flatMap (fun x => (c.descAt 0 x.1).ranges.map (fun r => (r.1, r.2.1)))
    let z := c.chaffClear.foldl (fun (d : Chip) r => d.vaWrite steadSpace r.1 (clean (List.replicate r.2 0))) c
    (c.reaches src F.ARI_CHAFF_CMD_CLEAR 0 0 = true →
      (src ≠ 0x3FF ∨ c.chaffBusy = true → exec (.chaffClear src) s = s.leaves c) ∧
      (src = 0x3FF → c.chaffBusy = false →
        ((c.ctx 0).st = .empty → exec (.chaffClear src) s = s.leaves (c.wr F.ARI_CHAFF_STATUS_RESULT 3)) ∧
        ((c.ctx 0).st ≠ .empty → act = true → exec (.chaffClear src) s = s.leaves (c.wr F.ARI_CHAFF_STATUS_RESULT 1)) ∧
        ((c.ctx 0).st ≠ .empty → act = false → c.on F.ARI_CHAFF_DESC_ALL = false → chosen = [] →
          exec (.chaffClear src) s = s.leaves (c.wr F.ARI_CHAFF_STATUS_RESULT 2)) ∧
        ((c.ctx 0).st ≠ .empty → act = false → c.on F.ARI_CHAFF_DESC_ALL = true ∨ chosen ≠ [] → exec (.chaffClear src) s =
          s.leaves (((({ c with chaffClear := l } : Chip).wr F.ARI_CHAFF_STATUS_BUSY 1).wr F.ARI_CHAFF_CMD_CLEAR 1).wr F.ARI_CHAFF_STATUS_RESULT 0)))) ∧
    (c.chaffBusy = true → exec .chaffClearDone s = s.leaves ((({ z with chaffClear := [] } : Chip).wr F.ARI_CHAFF_STATUS_BUSY 0).wr F.ARI_CHAFF_CMD_CLEAR 0)) ∧
    (c.chaffBusy = false → exec .chaffClearDone s = s.leaves c))

/-- Memory units (R53, R140–R142, R167, R168). OUT takes the stack, or the four channels of the page, that are present out of service; of a stack in
service its bit clears, its source is held (or, held already, has one event) and re-admission is asked for; one out of service stays as it is. RETURN
is ignored while the page is in service or trains, and else begins a training of each present unit that must be full. A training ends for a unit that
trains, and nothing else happens: failed, the unit stays as it was with TRAIN_KIND 3; fast, where its cache entry is this module's and nothing asks
for a full one, in service with TRAIN_KIND 1; full, in service with TRAIN_KIND 2 and its entry written; a fast end that may not be, or of a unit that
does not train, changes nothing. A full training that a stack's FORCE_FULL asked for clears it. The model's choices: an impossible event does nothing
(log entry 2). -/
def Obligations.MemoryUnitCommands : Prop :=
  ∀ (s : State) (src time : Nat) (n : Fin 12) (p : Fin 8) (u : TrainUnit),
    let c := s.chip
    let o := c.wr F.GLB_SVC_CRB_STACKS (setBit (c.rd F.GLB_SVC_CRB_STACKS) n.val false)
    let kind (d : Chip) : Nat := match u with | .stack k => d.rd F.CRB_STATUS_TRAIN_KIND k.val | .channel k => d.rd F.GRN_CH_STATUS_TRAIN_KIND (k.val / 4) 0 (k.val % 4)
    (c.reaches src F.CRB_CTRL_OUT n.val 0 = true →
      (c.stackUp n = true → exec (.unitOut src (.stack n)) s =
        s.leaves { (if (o.src (Flt.crib n.val)).persist then o.event (Flt.crib n.val) else o.onset (Flt.crib n.val)) with readmitReq := true }) ∧
      (c.stackUp n = false → exec (.unitOut src (.stack n)) s = s.leaves c) ∧
      (c.stackUp n = true ∨ c.training (.stack n) = true → exec (.unitReturn src (.stack n)) s = s.leaves c) ∧
      (c.stackUp n = false → c.training (.stack n) = false → exec (.unitReturn src (.stack n)) s =
        s.leaves { c.wr F.CRB_STATUS_TRAINING 1 n.val with trainWhy := Table.insert n.val .ret (Table.erase n.val c.trainWhy) })) ∧
    (c.reaches src F.GRN_CTRL_OUT p.val 0 = true →
      (∃ d, exec (.unitOut src (.page p)) s = s.leaves d ∧
        (∀ k, k < 32 → k < c.channels → d.channelUp k = (c.channelUp k && decide (k / 4 ≠ p.val))) ∧ d.crib = c.crib ∧ d.grn = c.grn ∧
        ((∃ k, k < c.channels ∧ k < 32 ∧ k / 4 = p.val ∧ c.channelUp k = true) → d.readmitReq = true)) ∧
      (c.memUp (.page p) = true ∨ (MemUnit.page p).units.any c.training = true → exec (.unitReturn src (.page p)) s = s.leaves c) ∧
      (c.memUp (.page p) = false → (MemUnit.page p).units.any c.training = false →
        ∃ d, exec (.unitReturn src (.page p)) s = s.leaves d ∧ ∀ k : Fin 32, k.val < c.channels → k.val / 4 = p.val →
          d.training (.channel k) = true ∧ d.channelUp k.val = false ∧ Table.find? (TrainUnit.channel k).no d.trainWhy = some .ret)) ∧
    (c.training u = false → ∀ k, exec (.memoryTrainingComplete u k time) s = s.leaves c) ∧
    (c.training u = true →
      (∃ d, exec (.memoryTrainingComplete u .failed time) s = s.leaves d ∧ d.training u = false ∧ kind d = 3 ∧ d.unitUp u = c.unitUp u ∧
        d.readmitReq = c.readmitReq ∧ d.trainCache = c.trainCache) ∧
      (c.fastOk u = true → c.unitPresent u = true → ∃ d, exec (.memoryTrainingComplete u .fast time) s = s.leaves d ∧ d.training u = false ∧ kind d = 1 ∧
        d.unitUp u = true ∧ d.trainCache = c.trainCache) ∧
      (c.fastOk u = false → exec (.memoryTrainingComplete u .fast time) s = s.leaves c) ∧
      (c.unitPresent u = true → ∃ d, exec (.memoryTrainingComplete u .full time) s = s.leaves d ∧ d.training u = false ∧ kind d = 2 ∧ d.unitUp u = true ∧
        Table.find? u.no d.trainCache = some c.trainEnt ∧
        (∀ k, u = .stack k → Table.find? u.no c.trainWhy = some .forced → d.rd F.CRB_CTRL_FORCE_FULL k.val = 0)))

/-- Walks (R139, R145, R146, R148, R154). A miss starts a walk, counted in XLT_MISSES; where the cache holds the leaf, 64 walks are in flight or the
space does not reach the address, nothing happens. The oldest walk ends: one that an accepted invalidate covers goes to the end of the line and walks
again (log entry 207); one of a space that no longer reaches the address is forgotten; any other counts an access to a stack out of service, loads
what it read, notes a malformed entry, and sends a fault request where it found no leaf. With none in flight nothing happens. Invalidates (R150–R153):
an accepted one takes the next module-wide sequence number with the space, range or ALL, and marks the walks it covers; with 16 outstanding it is
rejected with FULL. The oldest waits while an entry in flight still uses a translation it covers; then DONE names it, and no entry of its range is
left in the shared cache, in those of the engines or with an almanac entry, but for what ACCESSED_BY loads again. With none accepted nothing happens.
The model's choices: an impossible event does nothing (log entry 2). -/
def Obligations.TranslationsAndInvalidates : Prop :=
  (∀ (s : State) (space va requester : Nat) (acs : Acs) (stall : Bool),
    let c := s.chip
    let w : Walk := { space := space, va := va, acs := acs, requester := requester, stall := stall, waiter := .none }
    (c.cachedLeaf space va = none → (c.walk space va).isSome = true → c.walks.length < 64 →
      exec (.translationMiss space va acs requester stall) s = s.leaves { c.count F.XLT_MISSES_COUNT with walks := c.walks ++ [w] }) ∧
    (64 ≤ c.walks.length ∨ c.walk space va = none ∨ c.cachedLeaf space va ≠ none → exec (.translationMiss space va acs requester stall) s = s.leaves c) ∧
    (c.walks = [] → exec .walkComplete s = s.leaves c) ∧
    (∀ u rest, c.walks = u :: rest →
      let b : Chip := { c with walks := rest }
      (u.stale = true → exec .walkComplete s = s.leaves { c with walks := rest ++ [u] }) ∧
      (u.stale = false → c.walk u.space u.va = none → exec .walkComplete s = s.leaves b) ∧
      (u.stale = false → ∀ e path, c.walk u.space u.va = some (e, path) →
        let d := ((b.walkTouch u.space u.va).loadPath path).noteMalformed (e.res u.va u.acs)
        exec .walkComplete s = s.leaves (match e.res u.va u.acs with
          | .fault cause level => (d.sendFault u.space u.va u.acs cause level u.requester u.stall u.waiter).2
          | _ => d)))) ∧
  (∀ (s : State) (src : Nat) (all : Bool),
    let c := s.chip
    let v : Inval := ⟨(c.rd F.XLT_INV_CMD_SEQ + 1) % 65536, c.rd F.XLT_SEL_SPACE, all, c.rd F.XLT_INV_VA_VA, c.rd F.XLT_INV_SIZE_PAGES⟩
    let a := c.wr F.XLT_INV_CMD_ALL (b2n all)
    (c.reaches src F.XLT_INV_CMD_GO 0 0 = true →
      (16 ≤ c.invals.length → exec (.invalidateGo src all) s = s.leaves (a.wr F.XLT_INV_CMD_FULL 1)) ∧
      (c.invals.length < 16 → exec (.invalidateGo src all) s = s.leaves { a.wr F.XLT_INV_CMD_SEQ v.seq with
        invals := c.invals ++ [v], walks := c.walks.map (fun w => if v.coversVa w.space w.va then { w with stale := true } else w) })) ∧
    (c.invals = [] → exec .invalidateComplete s = s.leaves c) ∧
    (∀ u rest, c.invals = u :: rest →
      let d : Chip := { c.wr F.XLT_INV_DONE_SEQ u.seq with
        invals := rest, walks := c.walks.map (fun w => { w with stale := rest.any (fun x => x.coversVa w.space w.va) }) }
      (c.translated u = true → exec .invalidateComplete s = s.leaves c) ∧
      (c.translated u = false → exec .invalidateComplete s = s.leaves (d.invalidated u)) ∧
      ((c.space u.space).hints = [] → (d.invalidated u).xcache = c.xcache.filter (fun e => !u.covers e) ∧
        (d.invalidated u).engCache = c.engCache.filter (fun e => !u.covers e.2) ∧
        ∀ n i, i ∈ ((d.invalidated u).ctx n).inFlight → i.pins.any u.covers = false)))

/-- The fault queue (R156, R157, R162). Messages that wait on chip take the places that are free. Where the queue is on and its ring not full, the
oldest is written there as 32 bytes with the next REQ_ID, PROD advances, one that stalls awaits its reply, and vector 1 of the PF is signalled;
otherwise none is. A PREFETCH whose notice has gone out then completes OK. XLT_FQ_CONS moves the consumer index, or is ignored with CONS_ERR where
that would leave more entries than the ring holds. Replies to fault requests (R158): RETRY and FAIL end the pending request they name, a message that
waited takes its place, and every requester joined to it goes on with that reply; a reply to no pending request sets REPLY_ERR of the space, one that
names no space that of the space selected. The request of a space that was written first fails XLT_FQ_TIMEOUT of its space after it was written; with
none pending nothing happens. The model's choices: timed commands move BEAT (log entry 9); an impossible event does nothing (2). -/
def Obligations.FaultQueues : Prop :=
  (∀ (s : State) (src space v : Nat),
    let c := s.chip
    let r := c.fqRefill space
    let x := r.space space
    let prod := r.rd F.XLT_FQ_PROD_INDEX 0 space
    let at_ := r.rd F.XLT_FQ_BASE_BASE 0 space * 4096 + prod % 2 ^ r.rd F.XLT_FQ_SIZE_LOG2 0 space * 32
    let idle := (c.prefetches.any (fun p => p.space == space)) = false
    (∀ q rest, x.queue = q :: rest → r.on F.XLT_SPACE_CTRL_FQ_EN 0 space = true → r.fqFull space = false →
      let m : FReq := { q with id := x.nextId, written := r.beat }
      let d := (((r.tierWrite .host space at_ (clean (r.faultMsg space m))).wr F.XLT_FQ_PROD_INDEX (prod + 1) 0 space).setSpace space
        { x with nextId := (x.nextId + 1) % 65536, queue := rest, opened := if q.stalled then x.opened ++ [m] else x.opened }).fqRefill space
      (idle → exec (.faultQueueWrite space) s = s.leaves (d.msix 0 1)) ∧
      (∀ p, c.prefetches.find? (fun p => p.space == space) = some p → p.pages < p.next →
        ((d.space space).queue ++ (d.space space).waiting).any (fun q => q.cause == Cause.notice && q.kind == 0) = false →
        exec (.faultQueueWrite space) s = s.leaves
          (({ d.msix 0 1 with prefetches := (d.msix 0 1).prefetches.filter (fun x => x.space ≠ space) } : Chip).admDone space 0 0 0 0).ringFails)) ∧
    (x.queue = [] ∨ r.on F.XLT_SPACE_CTRL_FQ_EN 0 space = false ∨ r.fqFull space = true → idle → exec (.faultQueueWrite space) s = s.leaves r) ∧
    (c.reaches src F.XLT_FQ_CONS_INDEX 0 0 = true →
      let k := c.rd F.XLT_SEL_SPACE
      let left := subMod 32 (c.rd F.XLT_FQ_PROD_INDEX 0 k) (v % 2 ^ 32)
      (left ≤ 2 ^ c.rd F.XLT_FQ_SIZE_LOG2 0 k → exec (.fqConsWrite src v) s = s.leaves ((c.wr F.XLT_FQ_CONS_INDEX v 0 k).fqRefill k)) ∧
      (2 ^ c.rd F.XLT_FQ_SIZE_LOG2 0 k < left → exec (.fqConsWrite src v) s = s.leaves (c.wr F.XLT_FQ_STATUS_CONS_ERR 1 0 k)))) ∧
  (∀ (s : State) (src space id : Nat),
    let c := s.chip
    let x := c.space space
    (c.reaches src F.XLT_FQ_REPLY_ACTION 0 0 = true →
      (space < 513 → ∀ q, x.opened.find? (fun r => r.id == id) = some q →
        let d := (c.setSpace space { x with opened := x.opened.erase q }).fqRefill space
        exec (.faultReplyRetry src space id) s = s.leaves (q.joined.foldl (fun (c : Chip) w => c.answer true w) d) ∧
        exec (.faultReplyFail src space id) s = s.leaves (q.joined.foldl (fun (c : Chip) w => c.answer false w) d)) ∧
      (space < 513 → x.opened.find? (fun r => r.id == id) = none →
        exec (.faultReplyRetry src space id) s = s.leaves (c.wr F.XLT_FQ_STATUS_REPLY_ERR 1 0 space) ∧
        exec (.faultReplyFail src space id) s = s.leaves (c.wr F.XLT_FQ_STATUS_REPLY_ERR 1 0 space)) ∧
      (512 < space →
        exec (.faultReplyRetry src space id) s = s.leaves (c.wr F.XLT_FQ_STATUS_REPLY_ERR 1 0 (c.rd F.XLT_SEL_SPACE)) ∧
        exec (.faultReplyFail src space id) s = s.leaves (c.wr F.XLT_FQ_STATUS_REPLY_ERR 1 0 (c.rd F.XLT_SEL_SPACE)))) ∧
    (∀ q rest, x.opened = q :: rest →
      exec (.faultReplyTimeout space) s = s.leaves (q.joined.foldl (fun (c : Chip) w => c.answer false w)
        (((c.advanceTo (q.written + c.rd F.XLT_FQ_TIMEOUT_MS 0 space * 900000)).setSpace space { x with opened := rest }).fqRefill space))) ∧
    (x.opened = [] → exec (.faultReplyTimeout space) s = s.leaves c))

/-- R170: a write of XLT_POOL_PROD adds frames to the selected pool, or is ignored with CONS_ERR where the pool would hold more than its ring.
PREFETCH and ADVISE (R161–R164, R170, R279). A reserved bit or destination is refused RANGE. A PREFETCH that fails a check completes with its status,
a disabled destination pool included; else it is in progress, waiting where frames lack, and the owner's queue waits for it. Its next page is moved,
or after the last the REMAPPED notice goes out; nothing happens while its frames lack, and then it completes RNR_EXHAUSTED after XLT_FQ_TIMEOUT of its
space with nothing moved. ADVISE with more than 256 ranges completes LENGTH; else the hints hold, WILL_NOT_NEED takes pins away, READ_MOSTLY sets or
clears them, ACCESSED_BY loads its pages, and it completes OK. Loft quotas (R132, R166, R370): while the instance's almanac is ADMITTED, RUNNING or
HELD, or with a non-zero quota and no spill region, a quota is ignored with CFG_ERR, even the present one; one beyond what other quotas leave of 384
slices also sets CFG_ERR of the instance's page; else a new one takes effect with the loft blank, and the present one changes nothing. A value above
384 counts as 384. The spill base changes while the quota is 0; otherwise its write is ignored with CFG_ERR. The model's choices: timed commands move
BEAT (log entry 9); an impossible event does nothing (2). -/
def Obligations.PoolsPrefetchesAndLoft : Prop :=
  (∀ (s : State) (src v : Nat), s.chip.reaches src F.XLT_POOL_PROD_INDEX 0 0 = true →
    let c := s.chip
    let space := c.rd F.XLT_SEL_SPACE
    let b := poolBank space (c.rd F.XLT_POOL_SEL_POOL)
    let size := if c.rd F.XLT_POOL_SIZE_LOG2 0 b = 0 then 0 else 2 ^ c.rd F.XLT_POOL_SIZE_LOG2 0 b
    (subMod 32 (v % 2 ^ 32) (c.rd F.XLT_POOL_CONS_INDEX 0 b) ≤ size →
      exec (.poolProdWrite src v) s = s.leaves ((c.wr F.XLT_POOL_PROD_INDEX v 0 b).poolCheck space (c.rd F.XLT_POOL_SEL_POOL))) ∧
    (size < subMod 32 (v % 2 ^ 32) (c.rd F.XLT_POOL_CONS_INDEX 0 b) →
      exec (.poolProdWrite src v) s = s.leaves (c.wr F.XLT_FQ_STATUS_CONS_ERR 1 0 space))) ∧
  (∀ (s : State) (o : Nat),
    let c := s.chip
    let ends (d : Chip) (st det : Nat) := s.leaves (d.admDone o st det 0 0).ringFails
    (c.admHead o = none → exec (.prefetch o) s = s.leaves c ∧ exec (.advise o) s = s.leaves c) ∧
    (∀ e, c.admHead o = some e → e.op = 0x18 → e.admRsv = true ∨ destOf (e.w 1) = none → exec (.prefetch o) s = ends c 12 6) ∧
    (∀ e dest, c.admHead o = some e → e.op = 0x18 → e.admRsv = false → destOf (e.w 1) = some dest →
      let p : Prefetch := ⟨o, e.w64 2, e.w64 4 / 65536, 0, dest, 0, c.beat, false⟩
      (∀ st, c.prefetchBad p (e.w64 4) = some st → exec (.prefetch o) s = ends c st 0) ∧
      (c.prefetchBad p (e.w64 4) = none → exec (.prefetch o) s = s.leaves ({ c with
        prefetches := c.prefetches ++ [{ p with waiting := !c.framesReady p }], admWait := Table.insert o .prefetch (Table.erase o c.admWait) } : Chip).ringFails)) ∧
    (∀ p, c.prefetches.find? (fun p => p.space == o) = some p →
      (p.waiting = true → c.framesReady p = false → exec (.prefetchPageDone o) s = s.leaves c ∧
        exec (.prefetchPoolTimeout o) s = ends { c.advanceTo (p.started + c.rd F.XLT_FQ_TIMEOUT_MS 0 o * 900000) with
          prefetches := c.prefetches.filter (fun x => x.space ≠ o) } 11 0) ∧
      (p.waiting = false ∨ c.framesReady p = true →
        exec (.prefetchPoolTimeout o) s = s.leaves c ∧
        (∀ t, p.next < p.pages → c.destTier p (pageVa p p.next) = some t →
          let m := c.movePage o (pageVa p p.next) t
          exec (.prefetchPageDone o) s = s.leaves { m with prefetches := m.prefetches.map (fun x => if x.space = o then { p with waiting := false, next := p.next + 1 } else x) }) ∧
        (p.next = p.pages →
          let m := c.notice o p.va p.pages 0 ((c.destTier p p.va).getD .crib)
          exec (.prefetchPageDone o) s = s.leaves { m with prefetches := m.prefetches.map (fun x => if x.space = o then { p with next := p.pages + 1 } else x) }))) ∧
    (c.prefetches.find? (fun p => p.space == o) = none → exec (.prefetchPageDone o) s = s.leaves c ∧ exec (.prefetchPoolTimeout o) s = s.leaves c) ∧
    (∀ e, c.admHead o = some e → e.op = 0x19 → e.admRsv = true → exec (.advise o) s = ends c 12 6) ∧
    (∀ e, c.admHead o = some e → e.op = 0x19 → e.admRsv = false →
      let hint := field (e.w 1) 0 2
      let clear := bit (e.w 1) 2
      let by3 := field (e.w 1) 8 3
      let lo := e.w64 2 / 65536
      let hi := ceilDiv (e.w64 2 + e.w64 4) 65536
      let l := mergeHints ((adviseGo (hintChange hint clear (field (e.w 1) 4 2) by3) lo hi (c.space o).hints).filter (fun h => !h.none))
      let d := c.setSpace o { c.space o with hints := l }
      (256 < l.length → exec (.advise o) s = ends c 8 0) ∧
      (l.length ≤ 256 →
        (hint = 0 → exec (.advise o) s = ends (d.repin o lo hi) 0 0) ∧
        (hint = 3 → clear = false → exec (.advise o) s = ends (d.unpin o lo hi) 0 0) ∧
        (hint = 2 → clear = false → exec (.advise o) s = ends (if by3 = 0 then d else (pageList lo hi).foldl (fun (c : Chip) a => c.loadPage o a by3) d) 0 0) ∧
        (hint = 1 ∨ (clear = true ∧ hint ≠ 0) → exec (.advise o) s = ends d 0 0)))) ∧
  (∀ (s : State) (src v base : Nat),
    let c := s.chip
    let i := c.rd F.LFT_SEL_INSTANCE
    let q := min v 384
    let free := (c.ctx (i + 2)).st.idle = true ∧ (q = 0 ∨ c.rd F.LFT_SPILL_BASE 0 i ≠ 0)
    (c.reaches src F.LFT_QUOTA_QUOTA 0 0 = true →
      (¬ free → exec (.loftQuotaWrite src v) s = s.leaves (c.wr F.LFT_QUOTA_CFG_ERR 1 0 i)) ∧
      (free → 384 < c.loftQuotaOthers i + q → exec (.loftQuotaWrite src v) s = s.leaves ((c.wr F.LFT_QUOTA_CFG_ERR 1 0 i).wr F.INS_STATUS_CFG_ERR 1 i)) ∧
      (free → c.loftQuotaOthers i + q ≤ 384 → q ≠ c.rd F.LFT_QUOTA_QUOTA 0 i → exec (.loftQuotaWrite src v) s =
        s.leaves { c.wr F.LFT_QUOTA_QUOTA q 0 i with allot := Table.setD c.allot i [] (List.replicate q .blank) }) ∧
      (free → c.loftQuotaOthers i + q ≤ 384 → q = c.rd F.LFT_QUOTA_QUOTA 0 i → exec (.loftQuotaWrite src v) s = s.leaves c)) ∧
    (c.reaches src F.LFT_SPILL_BASE 0 0 = true →
      (c.rd F.LFT_QUOTA_QUOTA 0 i = 0 → exec (.spillRegionWrite src base) s = s.leaves (c.wr F.LFT_SPILL_BASE base 0 i)) ∧
      (c.rd F.LFT_QUOTA_QUOTA 0 i ≠ 0 → exec (.spillRegionWrite src base) s = s.leaves (c.wr F.LFT_QUOTA_CFG_ERR 1 0 i))))

/-- BELL_MARK_RECEIVE (R173–R175, R180, R217): on a link out of service the flit is counted and nothing more; on one with an end that has no position
the mark is not acted on. The timekeeper records a mark and keeps its role with no upstream. A FREE module not yet stepped takes the one link of its
list, whose mark shows a sender LOCKED or TIMEKEEPER at depth 5 or less with a listed timekeeper: it is ACQUIRING, one step deeper, under that
timekeeper. A mark in step from the upstream is followed: depth and timekeeper, its error in CLK_ALIGN_LAST and the greatest in CLK_ALIGN_MAX, and
ALIGNED is 1 within 1/4 beat. A LOCKED module whose upstream's mark shows a sender that may not be one goes to HOLDOVER without an upstream.
UPSTREAM_LOSS (R173, R175): a LOCKED module whose upstream's link is out of service, or whose upstream's marks are missing at the bell in progress and
the one before, goes to HOLDOVER without an upstream, with CLK_HOLDOVER_BELLS 0; one that never stepped is FREE again; with no mark missing nothing
changes. LOCK_ACHIEVED (R173, R181): an ACQUIRING module is LOCKED and ALIGNED, and BEAT is stepped by the error the first time only; in any other
state nothing changes. HOLDOVER_LIMIT (R176, R188): from the 2,049th bell of HOLDOVER on, a module no hold has reached originates one HOLD, naming the
first bell boundary at least 4,096 beats ahead, and re-admits; earlier nothing changes. TIMEKEEPER_TAKEOVER (R178): a listed FREE or HOLDOVER module
without an adoptable upstream whose wait is over is TIMEKEEPER at depth 0 under its own id, in the next timekeeper epoch; an unlisted module changes
nothing. The model's choices: an impossible event does nothing (log entry 2). -/
def Obligations.BellMarksAndLock : Prop :=
  (∀ (s : State) (k ack arrive : Nat) (m : Mark), s.chip.hasLink k = true →
    let c := s.chip
    (c.inService k = false → exec (.bellMarkReceive ⟨k, ack⟩ m arrive) s = s.leaves (c.gotFlits k 1)) ∧
    (c.inService k = true → c.posLimited k = true → exec (.bellMarkReceive ⟨k, ack⟩ m arrive) s = s.leaves (c.gotMsg k ack)) ∧
    (c.inService k = true → c.posLimited k = false → c.clk.running = false → m.holdBell = 0 → m.resumeBell = 0 → c.clk.order.contains m.tkId = true →
      (c.lock = Lock.timekeeper → c.upstream = none → ∃ d : Chip, exec (.bellMarkReceive ⟨k, ack⟩ m arrive) s = s.leaves d ∧
        Table.find? k d.clk.marks = some m ∧ d.lock = Lock.timekeeper ∧ d.upstream = none) ∧
      (c.lock = Lock.free → c.upstream = none → c.rd F.CLK_STATUS_STEPPED = 0 → c.clk.upstreams = [k] → m.state = Lock.locked ∨ m.state = Lock.timekeeper →
        m.depth ≤ 5 → ∃ d : Chip, exec (.bellMarkReceive ⟨k, ack⟩ m arrive) s = s.leaves d ∧ d.lock = Lock.acquiring ∧ d.upstream = some k ∧
          d.rd F.CLK_STATUS_DEPTH = m.depth + 1 ∧ d.rd F.CLK_STATUS_TK_ID = m.tkId % 256) ∧
      (c.upstream = some k → c.fitMark m = true → m.surveyEpoch = c.clk.epoch → m.surveyModules = 0 →
        c.rd F.CLK_LINK_ASYM_ASYM 0 k = Table.getD c.clk.asym k 0 → (c.markError k m arrive).natAbs ≤ 512 →
        ∃ d : Chip, exec (.bellMarkReceive ⟨k, ack⟩ m arrive) s = s.leaves d ∧ d.lock = c.lock ∧ d.upstream = some k ∧
          d.rd F.CLK_STATUS_DEPTH = m.depth + 1 ∧ d.rd F.CLK_STATUS_TK_ID = m.tkId % 256 ∧ d.rd F.CLK_ALIGN_LAST = wrap 16 (c.markError k m arrive) ∧
          d.rd F.CLK_ALIGN_MAX = max (c.rd F.CLK_ALIGN_MAX) (c.markError k m arrive).natAbs ∧
          d.rd F.CLK_STATUS_ALIGNED = b2n (decide ((c.markError k m arrive).natAbs ≤ 16))) ∧
      (c.upstream = some k → c.lock = Lock.locked → c.fitMark m = false →
        ∃ d : Chip, exec (.bellMarkReceive ⟨k, ack⟩ m arrive) s = s.leaves d ∧ d.lock = Lock.holdover ∧ d.upstream = none))) ∧
  (∀ (s : State),
    let c := s.chip
    (∀ k, c.upstream = some k → c.inService k = false ∨ c.marksMissing k = true → c.lock = Lock.locked →
      ∃ d : Chip, exec .upstreamLoss s = s.leaves d ∧ d.lock = Lock.holdover ∧ d.rd F.CLK_HOLDOVER_BELLS = 0 ∧ d.upstream = none) ∧
    (∀ k, c.upstream = some k → c.inService k = false ∨ c.marksMissing k = true → c.lock = Lock.acquiring → c.rd F.CLK_STATUS_STEPPED = 0 →
      ∃ d : Chip, exec .upstreamLoss s = s.leaves d ∧ d.lock = Lock.free ∧ d.upstream = none) ∧
    (∀ k, c.upstream = some k → c.inService k = true → c.marksMissing k = false → exec .upstreamLoss s = s.leaves c) ∧
    (c.lock = Lock.acquiring →
      ∃ d : Chip, exec .lockAchieved s = s.leaves d ∧ d.lock = Lock.locked ∧ d.rd F.CLK_STATUS_STEPPED = 1 ∧ d.rd F.CLK_STATUS_ALIGNED = 1 ∧
        d.beat = if c.rd F.CLK_STATUS_STEPPED = 1 then c.beat else ((c.beat : Int) - (c.clk.lastErr + 32) / 64).toNat) ∧
    (c.lock ≠ Lock.acquiring → exec .lockAchieved s = s.leaves c) ∧
    (c.lock = Lock.holdover → 2049 ≤ c.rd F.CLK_HOLDOVER_BELLS → c.clk.limitRaised = false → c.hold = {} →
      ∃ d : Chip, exec .holdoverLimit s = s.leaves d ∧ d.clk.limitRaised = true ∧ d.readmitReq = true ∧ d.hold.bell = some (c.bellAhead 4096) ∧
        d.hold.seen = [(c.modId, c.bellAhead 4096)] ∧ d.hold.now.isOrigin = true) ∧
    (c.rd F.CLK_HOLDOVER_BELLS ≤ 2048 → exec .holdoverLimit s = s.leaves c) ∧
    (∀ r, c.tkRankOf = some r → c.lock = Lock.free ∨ c.lock = Lock.holdover → (∀ k ∈ c.clk.upstreams, c.adoptable k = false) →
      (r = 0 → 4 ≤ c.clk.freeBells ∧ c.rd F.CLK_STATUS_STEPPED = 0 ∧ c.clk.heardTk = false) → (0 < r → 2 + 2 * r ≤ c.clk.freeBells) →
      ∃ d : Chip, exec .timekeeperTakeover s = s.leaves d ∧ d.lock = Lock.timekeeper ∧ d.rd F.CLK_STATUS_DEPTH = 0 ∧
        d.rd F.CLK_STATUS_TK_ID = c.modId % 256 ∧ d.clk.tkEpoch = (c.clk.tkEpoch + 1) % 65536) ∧
    (c.tkRankOf = none → exec .timekeeperTakeover s = s.leaves c))

/-- SURVEY_GO (R183): on a module that is not the timekeeper nothing changes; on one whose stead is larger, the next epoch is in progress from this
bell, and re-admission is due. RESURVEY (R182, R185): each link in service that carries stead time has 32 requests sent, on a module with a position
that is LOCKED or TIMEKEEPER; a VALID delay becomes PROVISIONAL; with no link in service nothing changes. SURVEY_REQ (R182): answered. SURVEY_RSP
(R182): an awaited response adds one sample, twice the one-way delay; the 64th ends the survey, with the mean plus the asymmetry in force VALID where
the samples spread over one beat or less, else FAILED; on a link that surveys nothing no delay changes. SURVEY_TIMEOUT (R183): an epoch in progress
ends with state 3 at 64 bells after SURVEY_GO; with none nothing changes. HOLD, READY and RESUME on a link in service that carries stead time, in a
copy not yet acted on. HOLD (R188–R190, R203): a second copy is discarded; a new one, where none is in force, names the hold bell, or the next bell
where its own has passed, in CLK_HOLD_BELL too, changes no almanac, and goes out on every other such link; the timekeeper then awaits READY of its
origin; one heard before goes on to the upstream. READY (R190, R191): it goes on to the upstream; at the timekeeper its origin is ready, and when it
is the last one awaited a resume bell is named, at least 4,096 beats ahead and after the hold bell. RESUME (R191, R454): for the hold in force it
names the resume bell, in CLK_RESUME_BELL too; heard before, it does nothing; where a HOLD for the same bell was heard it names none.
HOLD_BELL_REACHED (R189): RUNNING stead and fallow almanacs are HELD and no other context changes. RESUME_BELL_REACHED (R191, R454): HELD ones run on
with their frames moved later by the bells held, and a hold kept for later comes into force. With no hold in force both change nothing. The model's
choices: timed commands move BEAT (log entry 9); an impossible event does nothing (2). -/
def Obligations.SurveysAndHold : Prop :=
  (∀ (s : State) (src k ack seq t1 t2 t3 t4 : Nat),
    let c := s.chip
    (c.reaches src F.CLK_CTRL_SURVEY_GO 0 0 = true →
      (c.isTk = false → exec (.surveyGo src) s = s.leaves c) ∧
      (c.isTk = true → (∀ e ∈ c.clk.marks, e.2.surveyEpoch ≠ (c.clk.epoch + 1) % 65536) → 1 < c.rd F.CLK_STEAD_SIZE_EXPECTED →
        ∃ d : Chip, exec (.surveyGo src) s = s.leaves d ∧ d.clk.epoch = (c.clk.epoch + 1) % 65536 ∧ d.clk.running = true ∧ d.clk.goBell = c.bell ∧
          d.rd F.CLK_SURVEY_STATE = 1 ∧ d.readmitReq = true)) ∧
    (c.reaches src F.CLK_CTRL_RESURVEY 0 0 = true →
      (c.linksUp = [] → exec (.resurvey src) s = s.leaves c) ∧
      (c.posValid = true → c.lock = Lock.locked ∨ c.isTk = true → ∃ d : Chip, exec (.resurvey src) s = s.leaves d ∧
        ∀ j ∈ c.linksUp, c.posLimited j = false → (Table.find? j d.clk.surveys).map (·.sent) = some 32 ∧ (Table.find? j d.clk.surveys).map (·.samples) = some [] ∧
          (c.rd F.CLK_LINK_DELAY_VALID 0 j = 1 → d.rd F.CLK_LINK_DELAY_VALID 0 j = 0 ∧ d.rd F.CLK_LINK_DELAY_PROVISIONAL 0 j = 1))) ∧
    (c.hasLink k = true → c.inService k = true → c.posLimited k = false →
      (∃ d : Chip, exec (.surveyReq ⟨k, ack⟩ seq t1 t4) s = s.leaves d ∧ d.clk = c.clk ∧ (d.link k).ctlq = (c.link k).ctlq ++ [⟨.surveyRsp seq t4 0, 0, 0⟩]) ∧
      (∀ v, Table.find? k c.clk.surveys = some v → ∀ x b, v.waiting.find? (fun w => w.1 == seq) = some (x, b) →
        let l : List Int := (((t4 : Int) - b) - ((t3 : Int) - t2)) :: v.samples
        (v.samples.length < 63 → ∃ d : Chip, exec (.surveyRsp ⟨k, ack⟩ seq t2 t3 t4) s = s.leaves d ∧
          Table.find? k d.clk.surveys = some { v with waiting := v.waiting.filter (fun w => w.1 ≠ seq), samples := l }) ∧
        (v.samples.length = 63 → c.clk.running = false → ∃ d : Chip, exec (.surveyRsp ⟨k, ack⟩ seq t2 t3 t4) s = s.leaves d ∧ Table.find? k d.clk.surveys = none ∧
          (let hi := l.foldl max (l.headD 0)
           let lo := l.foldl min (l.headD 0)
           let mean := (max 0 (l.foldl (· + ·) 0 / 128 + sext 16 (Table.getD c.clk.asym k 0))).toNat
           (128 < hi - lo → d.rd F.CLK_LINK_DELAY_FAILED 0 k = 1 ∧ d.rd F.CLK_LINK_DELAY_VALID 0 k = 0) ∧
           (hi - lo ≤ 128 → mean ≤ 19200 → d.rd F.CLK_LINK_DELAY_FAILED 0 k = 0 ∧ d.rd F.CLK_LINK_DELAY_VALID 0 k = 1 ∧ d.rd F.CLK_LINK_DELAY_DELAY 0 k = mean)))) ∧
      (Table.find? k c.clk.surveys = none → exec (.surveyRsp ⟨k, ack⟩ seq t2 t3 t4) s = s.leaves (c.gotMsg k ack))) ∧
    (c.isTk = true → c.clk.running = true →
      ∃ d : Chip, exec .surveyTimeout s = s.leaves d ∧ d.rd F.CLK_SURVEY_STATE = 3 ∧ d.clk.running = false ∧
        d.beat = max c.beat ((c.clk.goBell + 64) * bellBeats)) ∧
    (c.clk.running = false → exec .surveyTimeout s = s.leaves c)) ∧
  (∀ (s : State) (k ack origin b r cause : Nat) (copy : Bool),
    let c := s.chip
    (c.hasLink k = true → c.inService k = true → c.posLimited k = false →
      (copy = true → c.heardCopy k (.hold origin b cause) = true →
        exec (.hold ⟨k, ack, copy⟩ origin b cause) s = s.leaves (c.gotCopy k ack copy (.hold origin b cause)).2) ∧
      (copy = false ∨ c.heardCopy k (.hold origin b cause) = false →
        (c.hold.seen.contains (origin, b) = false → c.hold.bell = none → c.hold.resume = none → c.hold.held = false →
          ∃ d : Chip, exec (.hold ⟨k, ack, copy⟩ origin b cause) s = s.leaves d ∧ d.ctxs = c.ctxs ∧ d.hold.seen = (origin, b) :: c.hold.seen ∧
            d.hold.bell = some (if c.beat < b * bellBeats then b else c.bell + 1) ∧
            d.rd F.CLK_HOLD_BELL_BELL = (if c.beat < b * bellBeats then b else c.bell + 1) % 2 ^ F.CLK_HOLD_BELL_BELL.width ∧
            (c.isTk = true → (origin, false) ∈ d.hold.now.origins) ∧
            ∀ j ∈ c.linksUp, j ≠ k → c.posLimited j = false → (d.link j).ctlq = (c.link j).ctlq ++ [⟨.hold origin b cause, 0, 0⟩]) ∧
        (c.hold.seen.contains (origin, b) = true → c.isTk = false → ∀ u, c.upstream = some u → u ≠ k → c.posLimited u = false →
          ∃ d : Chip, exec (.hold ⟨k, ack, copy⟩ origin b cause) s = s.leaves d ∧ d.clk = c.clk ∧
            (d.link u).ctlq = (c.link u).ctlq ++ [⟨.hold origin b cause, 0, 0⟩])) ∧
      (copy = false ∨ c.heardCopy k (.ready origin b) = false →
        (c.isTk = false → ∀ u, c.upstream = some u → u ≠ k → c.posLimited u = false →
          ∃ d : Chip, exec (.ready ⟨k, ack, copy⟩ origin b) s = s.leaves d ∧ d.clk = c.clk ∧ (d.link u).ctlq = (c.link u).ctlq ++ [⟨.ready origin b, 0, 0⟩]) ∧
        (c.isTk = true → c.upstream = none → c.rd F.CMB_SUBST_ACTIVE = 0 → c.hold.bell = some b → c.hold.resume = none →
          ∃ d : Chip, exec (.ready ⟨k, ack, copy⟩ origin b) s = s.leaves d ∧ (origin, true) ∈ d.hold.now.origins ∧
            ((∃ o ∈ c.hold.now.origins, o.1 ≠ origin ∧ o.2 = false) → d.hold.resume = none) ∧
            ((∀ o ∈ c.hold.now.origins, o.1 ≠ origin → o.2 = true) → 2 ≤ c.clk.tkBells →
              ∃ r', d.hold.resume = some r' ∧ b < r' ∧ c.beat + 4096 ≤ r' * bellBeats ∧ ∀ o, (o, r') ∉ c.hold.seen))) ∧
      (copy = false ∨ c.heardCopy k (.resume b r) = false →
        (c.hold.seenResume.contains (b, r) = false → c.hold.bell = some b → c.hold.resume = none → (∀ o, (o, r) ∉ c.hold.seen) →
          ∃ d : Chip, exec (.resume ⟨k, ack, copy⟩ b r) s = s.leaves d ∧ d.hold.resume = some r ∧ d.hold.bell = some b ∧ d.ctxs = c.ctxs ∧
            d.rd F.CLK_RESUME_BELL_BELL = r % 2 ^ F.CLK_RESUME_BELL_BELL.width ∧
            ∀ j ∈ c.linksUp, j ≠ k → c.posLimited j = false → (d.link j).ctlq = (c.link j).ctlq ++ [⟨.resume b r, 0, 0⟩]) ∧
        (c.hold.seenResume.contains (b, r) = false → c.hold.bell = some b → c.hold.resume = none → (∃ o, (o, r) ∈ c.hold.seen) →
          ∃ d : Chip, exec (.resume ⟨k, ack, copy⟩ b r) s = s.leaves d ∧ d.hold.resume = none ∧ d.hold.bell = some b) ∧
        (c.hold.seenResume.contains (b, r) = true → exec (.resume ⟨k, ack, copy⟩ b r) s = s.leaves (c.gotCopy k ack copy (.resume b r)).2))) ∧
    (c.hold.bell = some b → c.hold.held = false → c.hold.resume = none →
      ∃ d : Chip, exec .holdBellReached s = s.leaves d ∧ d.hold.held = true ∧ d.beat = max c.beat (b * bellBeats) ∧
        (∀ n, n < 2 → (c.ctx n).st = .running → d.ctx n = { c.ctx n with st := .held }) ∧
        (∀ n, 2 ≤ n ∨ (c.ctx n).st ≠ .running → d.ctx n = c.ctx n)) ∧
    (c.hold.bell = none → exec .holdBellReached s = s.leaves c ∧ exec .resumeBellReached s = s.leaves c) ∧
    (c.hold.bell = some b → c.hold.resume = some r →
      ∃ d : Chip, exec .resumeBellReached s = s.leaves d ∧ d.hold.bell = c.hold.later.map (·.1) ∧ d.hold.held = false ∧ d.hold.resume = none ∧
        d.beat = max c.beat (r * bellBeats) ∧ ∀ n, n < 2 → (c.ctx n).st = .held →
          (d.ctx n).st = .running ∧ (d.ctx n).frames = (c.ctx n).frames.map (fun f => { f with origin := f.origin + (r - b) * bellBeats })))

/-- FRAME_RECEIVE (R195–R201, R204, R205, R215) on a link in service. HEAD and BODY flits that read as a frame of VC0–VC6 with the LSEQ expected: it
is accepted, the next is expected and an ACK is owed; one for this module joins the receive buffer, one whose channel the link's role does not carry
is counted as misrouted and frees its flits, one for another rick at the seat of this module is queued on the column link with FWD. A later LSEQ draws
a NAK of the one expected; an earlier one is discarded. Flits lost or that read as no frame count a CRC error and draw a NAK, once until the frame
expected is accepted; a frame of VC7 among them is counted and dropped. A CONTROL flit that reads as a message acts as that message; of an unknown
code it is counted and dropped. FRAME_TAKEN (R208): the oldest frame of a channel that its client has taken leaves the buffer and frees its flits,
unless accepted before a reset of the sequence state; one that no command performs counts as taken; with none the buffer stays. -/
def Obligations.FramesAreAcceptedInOrder : Prop :=
  ∀ (s : State) (k corrected arrive v lseq ack : Nat) (slots : List Slot) (f : LFrame), s.chip.hasLink k = true → s.chip.inService k = true →
    let c := s.chip
    let l := c.link k
    let got : Instr := .frameReceive k corrected arrive (slots.map (·.kind)) (slots.map (·.lost)) (slots.map (·.bytes))
    let b := slots.flatMap (·.bytes)
    (slots ≠ [] → (∀ x ∈ slots, x.kind = FlitKind.head ∨ x.kind = FlitKind.body) →
      ((∀ x ∈ slots, x.lost = false) → LFrame.parse b = some (lseq, ack, f) → f.vc < 7 →
        (subMod 16 lseq l.expect = 0 → ∃ d : Chip, exec got s = s.leaves d ∧ (d.link k).expect = (l.expect + 1) % 65536 ∧
          (d.link k).nakSent = false ∧ (d.link k).ackOwed = true ∧ d.rd F.AGL_RX_FLITS_COUNT k = min (2 ^ 32 - 1) (c.rd F.AGL_RX_FLITS_COUNT k + slots.length) ∧
          d.rd F.AGL_FEC_CORR_COUNT k = min (2 ^ 32 - 1) (c.rd F.AGL_FEC_CORR_COUNT k + corrected) ∧
          (c.mst ≠ .safe → f.vc ≠ 6 → roleCarries (c.linkRole k) f.vc = true → c.posLimited k = false → f.dest = c.modId →
            (d.link k).rx.getLast? = some ⟨f, false, false, false⟩) ∧
          (c.mst ≠ .safe → roleCarries (c.linkRole k) f.vc = false →
            d.rd F.AGL_DROP_ROUTE_COUNT k = min (2 ^ 32 - 1) (c.rd F.AGL_DROP_ROUTE_COUNT k + 1) ∧
              (d.link k).freed = l.freed.set f.vc ((l.freed.getD f.vc 0 + f.flits) % 65536)) ∧
          (let out := colLink (rickOf c.modId) (rickOf f.dest)
           c.mst ≠ .safe → f.vc = 1 ∨ f.vc = 3 ∨ f.vc = 5 → c.linkRole k = 0 → c.posLimited k = false → f.fwd = false → seatOf f.dest = seatOf c.modId →
             rickOf f.dest ≠ rickOf c.modId → c.inService out = true → (d.link out).txq = (c.link out).txq ++ [({ f with fwd := true }, some k)])) ∧
        (0 < subMod 16 lseq l.expect → subMod 16 lseq l.expect < 32768 → l.nakSent = false → ∃ d : Chip, exec got s = s.leaves d ∧
          (d.link k).expect = l.expect ∧ (d.link k).nakSent = true ∧ (d.link k).ctlq = l.ctlq ++ [⟨.nak l.expect, 0, 0⟩]) ∧
        (32768 ≤ subMod 16 lseq l.expect → ∃ d : Chip, exec got s = s.leaves d ∧ (d.link k).expect = l.expect ∧
          (d.link k).ctlq = l.ctlq ∧ (d.link k).rx.map (·.frame) = l.rx.map (·.frame))) ∧
      ((∃ x ∈ slots, x.lost = true) ∨ LFrame.parse b = none → ∃ d : Chip, exec got s = s.leaves d ∧
        d.rd F.AGL_CRC_ERR_COUNT k = min (2 ^ 32 - 1) (c.rd F.AGL_CRC_ERR_COUNT k + 1) ∧ (d.link k).nakSent = true ∧ (d.link k).expect = l.expect ∧
        (d.link k).ctlq = if l.nakSent then l.ctlq else l.ctlq ++ [⟨.nak l.expect, 0, 0⟩]) ∧
      ((∀ x ∈ slots, x.lost = false) → LFrame.parse b = some (lseq, ack, f) → f.vc = 7 → ∃ d : Chip, exec got s = s.leaves d ∧
        d.rd F.AGL_DROP_CTRL_COUNT k = min (2 ^ 32 - 1) (c.rd F.AGL_DROP_CTRL_COUNT k + 1) ∧ (d.link k).rx = l.rx)) ∧
    (∀ x, slots = [x] → x.kind = FlitKind.control → x.lost = false → LFrame.parse x.bytes = some (lseq, ack, f) → f.vc = 7 →
      (∀ m, CtlMsg.ofPayload f.typ f.payload = some m → exec got s = s.leaves
        ((c.count F.AGL_FEC_CORR_COUNT corrected k).recvCtl k ack (bit lseq 0) arrive m)) ∧
      (CtlMsg.ofPayload f.typ f.payload = none → ∃ d : Chip, exec got s = s.leaves d ∧
        d.rd F.AGL_DROP_CTRL_COUNT k = min (2 ^ 32 - 1) (c.rd F.AGL_DROP_CTRL_COUNT k + 1))) ∧
    (v < 7 → v ≠ 3 → v ≠ 5 → (v = 1 → c.rxHead c.unheld (.link k) = none) →
      (∀ r, l.rx.find? (fun r => r.frame.vc == v && r.placed) = some r → ∃ d : Chip, exec (.frameTaken k v) s = s.leaves d ∧ (d.link k).rx = l.rx.erase r ∧
        (d.link k).freed = if r.old then l.freed else l.freed.set v ((l.freed.getD v 0 + r.frame.flits) % 65536)) ∧
      (l.rx.find? (fun r => r.frame.vc == v && r.placed) = none → ∃ d : Chip, exec (.frameTaken k v) s = s.leaves d ∧ (d.link k).rx = l.rx)) ∧
    (∀ r rest, l.rx = r :: rest → r.placed = false → r.forward = false → r.frame.plain = true → r.frame.vc = v → r.old = false →
      ∃ d : Chip, exec (.frameTaken k v) s = s.leaves d ∧ (d.link k).rx = rest ∧ (d.link k).freed = l.freed.set v ((l.freed.getD v 0 + r.frame.flits) % 65536))

/-- FLIT_SLOT_TRANSMIT (R202–R204, R211): on a link in UP a waiting message that the limiter never holds takes the slot before anything else, with the
ACK of the moment; with nothing queued a VC0 frame that may start takes it, with the next LSEQ, is kept for replay and uses credit for its flits; both
count a flit; with nothing to send none is counted; a link that is DOWN, TRAINING, DISABLED or FAILED sends nothing. LINK_ACK_TIMER: an ACK message is
queued where one is owed. LINK_CREDIT_TIMER: a CREDIT with the counts of freed flits is queued, at the change or 4,096 beats after the last. Out of
service neither is. LINK_ACK (R204) on a link in service: a value one past the oldest kept frame releases it; one that names frames never sent is
counted and ignored. LINK_NAK (R206): the frame named and all later ones are to be sent again, and a retry is counted; a frame sent again 16 times
takes the link out of service with CAUSE 2, into training. LINK_CREDIT (R209): each LIMIT is the peer's share plus the flits freed. REPLAY_TIMEOUT
(R206): 4,096 beats after the latest transmission of the oldest unacknowledged frame it and all later ones are to be sent again, or after 16 the link
trains with CAUSE 2; with none nothing changes. The model's choices: timed commands move BEAT (log entry 9); an impossible event does nothing (2);
what is sent stands in a list (7). -/
def Obligations.FlitsAcksAndRetry : Prop :=
  (∀ (s : State) (k : Nat), s.chip.hasLink k = true →
    let c := s.chip
    let l := c.link k
    let n := c.rd F.AGL_TX_FLITS_COUNT k
    (c.linkState k = LinkSt.up →
      (∀ e rest, l.ctlq = e :: rest → e.notBefore ≤ l.slot + 1 → e.msg.unlimited = true → ∃ d : Chip, exec (.flitSlotTransmit k) s = s.leaves d ∧
        d.out.head? = some (.ctl k e.copy l.expect (e.msg.departing c.beat)) ∧ (d.link k).ctlq = rest ∧ d.rd F.AGL_TX_FLITS_COUNT k = min (2 ^ 32 - 1) (n + 1)) ∧
      (c.mst ≠ .safe → c.mute = false → l.ctlq = [] → l.cur = [] → l.resend = [] → l.replay.length < 512 → ∀ e, c.headFrame k 0 = some e →
        ∃ d : Chip, exec (.flitSlotTransmit k) s = s.leaves d ∧ d.out.head? = some (.frame k (c.rd F.AGL_SEQ_NEXT k) l.expect e.1) ∧
          d.rd F.AGL_SEQ_NEXT k = (c.rd F.AGL_SEQ_NEXT k + 1) % 65536 ∧ (d.link k).txq = l.txq.erase e ∧
          (d.link k).replay = l.replay ++ [⟨c.rd F.AGL_SEQ_NEXT k, e.1, e.2, 0, c.beat⟩] ∧
          (d.link k).used = l.used.set 0 ((l.used.getD 0 0 + e.1.flits) % 65536) ∧ d.rd F.AGL_TX_FLITS_COUNT k = min (2 ^ 32 - 1) (n + 1)) ∧
      (l.ctlq = [] → l.cur = [] → l.resend = [] → l.txq = [] → ∃ d : Chip, exec (.flitSlotTransmit k) s = s.leaves d ∧ d.rd F.AGL_TX_FLITS_COUNT k = n ∧
        (d.link k).slot = l.slot + 1)) ∧
    (c.linkState k = LinkSt.down ∨ c.linkState k = LinkSt.training ∨ c.linkState k = LinkSt.disabled ∨ c.linkState k = LinkSt.failed →
      exec (.flitSlotTransmit k) s = s.leaves c) ∧
    (c.inService k = true → l.ackOwed = true → ∃ d : Chip, exec (.linkAckTimer k) s = s.leaves d ∧ (d.link k).ackOwed = false ∧
      (d.link k).ctlq = l.ctlq ++ [⟨.ack, 0, 0⟩]) ∧
    (l.ackOwed = false → exec (.linkAckTimer k) s = s.leaves c) ∧
    (c.inService k = true → ∃ d : Chip, exec (.linkCreditTimer k) s = s.leaves d ∧ (d.link k).creditOwed = false ∧
      (d.link k).ctlq = l.ctlq ++ [⟨.credit l.freed, 0, 0⟩] ∧ d.beat = if l.creditOwed then c.beat else max c.beat (l.creditBeat + 4096)) ∧
    (c.inService k = false → exec (.linkAckTimer k) s = s.leaves c ∧ exec (.linkCreditTimer k) s = s.leaves c)) ∧
  (∀ (s : State) (k a ack : Nat) (copy : Bool) (freed : List Nat), s.chip.hasLink k = true → s.chip.inService k = true →
    let c := s.chip
    let l := c.link k
    (∀ r rest, l.replay = r :: rest →
      (r.lseq < 65536 → ack = (r.lseq + 1) % 65536 → ∃ d : Chip, exec (.linkAck k ack) s = s.leaves d ∧ (d.link k).replay = rest ∧ d.rd F.AGL_SEQ_NEXT k = c.rd F.AGL_SEQ_NEXT k) ∧
      (l.replay.length < subMod 16 ack r.lseq → 32768 ≤ subMod 16 r.lseq ack → ∃ d : Chip, exec (.linkAck k ack) s = s.leaves d ∧ (d.link k).replay = l.replay ∧
        d.rd F.AGL_DROP_CTRL_COUNT k = min (2 ^ 32 - 1) (c.rd F.AGL_DROP_CTRL_COUNT k + 1)) ∧
      (copy = false ∨ c.heardCopy k (.nak a) = false → ack = r.lseq → r.lseq = a →
        (r.replays < 16 → ∃ d : Chip, exec (.linkNak ⟨k, ack⟩ copy a) s = s.leaves d ∧ (d.link k).resend = l.replay.map (·.lseq) ∧ d.linkState k = c.linkState k ∧
          d.rd F.AGL_RETRY_COUNT k = min (2 ^ 32 - 1) (c.rd F.AGL_RETRY_COUNT k + 1)) ∧
        (16 ≤ r.replays → ∃ d : Chip, exec (.linkNak ⟨k, ack⟩ copy a) s = s.leaves d ∧ d.linkState k = LinkSt.training ∧ d.rd F.AGL_STATUS_CAUSE k = 2)) ∧
      (c.linkState k = LinkSt.up →
        (r.replays < 16 → ∃ d : Chip, exec (.replayTimeout k) s = s.leaves d ∧ d.beat = max c.beat (r.sent + 4096) ∧ (d.link k).resend = l.replay.map (·.lseq)) ∧
        (16 ≤ r.replays → ∃ d : Chip, exec (.replayTimeout k) s = s.leaves d ∧ d.beat = max c.beat (r.sent + 4096) ∧ d.linkState k = LinkSt.training ∧
          d.rd F.AGL_STATUS_CAUSE k = 2))) ∧
    (∃ d : Chip, exec (.linkCredit ⟨k, ack⟩ freed) s = s.leaves d ∧ (d.link k).limit = (List.range 7).map (fun v => (l.peerBuf.getD v 0 + freed.getD v 0) % 65536)) ∧
    (l.replay = [] → exec (.replayTimeout k) s = s.leaves c))

/-- The bytes of a frame (R4, R198, R199, R202). Every frame of VC0–VC6 whose fields fit, and every control message whose fields fit, reads back from
the bytes it is sent as, with its LSEQ or copy, its ACK and every field; a frame's bytes fill the flits that R198 gives it, a message's one. Where
R202 lists the fields of a payload without places, the places are the model's (log entry 220). -/
def Obligations.FramesReadBackFromTheirBytes : Prop :=
  ∀ (f : LFrame) (m : CtlMsg) (lseq ack dest src copy : Nat), lseq < 65536 → ack < 65536 → dest < 256 → src < 256 → copy < 2 →
    (f.ok = true → (f.wire lseq ack).length = 64 * f.flits ∧ LFrame.parse (f.wire lseq ack) = some (lseq, ack, f)) ∧
    (m.ok = true → (m.wire dest src copy ack).length = 64 ∧ CtlMsg.ofPayload m.code m.payload = some m ∧
      LFrame.parse (m.wire dest src copy ack) = some (copy, ack, ⟨7, m.code, dest, src, false, 0, 0, m.payload⟩))

/-- TRAINING_SIGNAL_DETECT (R216): a DOWN link, or one FAILED but not for its length, trains, with no PEER valid; in any other state nothing changes.
LANE_LOCK: the lane is locked, and a DOWN link trains. TRAINING_END: with no pair locked the link is FAILED with CAUSE 7, else in PEER_CHECK on the
pairs locked with PEER queued; a link that does not train changes nothing. TRAINING_RETRY: one second after the failure a FAILED link trains again,
unless failed for its length. PEER (R202, R216–R219): a link in PEER_CHECK records the peer; where it matches AGL_EXPECT the link is UP and in
service, else MISWIRED with CAUSE 4; a first or changed EPOCH starts the sequence anew, with the peer's shares as credit. In service, a PEER whose
position or mode differs changes the link at the next bell. A second copy, or a PEER on a link that is DOWN or TRAINING, changes no register of the
peer. PEER_REPEAT_TIMER: in PEER_CHECK, PEER is queued again 1,024 beats after the last until the peer's is received. The model's choices: timed
commands move BEAT (log entry 9); an impossible event does nothing (2). -/
def Obligations.LinkTrainingAndPeers : Prop :=
  (∀ (s : State) (k lane lanes : Nat), s.chip.hasLink k = true →
    let c := s.chip
    (c.linkState k = LinkSt.down ∨ c.linkState k = LinkSt.failed ∧ c.rd F.AGL_STATUS_CAUSE k ≠ 5 →
      ∃ d : Chip, exec (.trainingSignalDetect k) s = s.leaves d ∧ d.linkState k = LinkSt.training ∧ d.rd F.AGL_PEER_VALID k = 0) ∧
    (c.linkState k ≠ LinkSt.down → c.linkState k ≠ LinkSt.failed ∨ c.rd F.AGL_STATUS_CAUSE k = 5 → exec (.trainingSignalDetect k) s = s.leaves c) ∧
    (lane < 4 → ∃ d : Chip, exec (.laneLock k lane) s = s.leaves d ∧ d.rd (rxLockF lane) k = 1 ∧
      d.linkState k = if c.linkState k = LinkSt.down then LinkSt.training else c.linkState k) ∧
    (c.linkState k = LinkSt.training →
      let good := b2n (bit lanes 0 && bit lanes 1) + 2 * b2n (bit lanes 2 && bit lanes 3)
      (good = 0 → ∃ d : Chip, exec (.trainingEnd k lanes) s = s.leaves d ∧ d.linkState k = LinkSt.failed ∧ d.rd F.AGL_STATUS_CAUSE k = 7 ∧
        (d.link k).failedAt = c.beat) ∧
      (good ≠ 0 → ∃ d : Chip, exec (.trainingEnd k lanes) s = s.leaves d ∧ d.linkState k = LinkSt.peerCheck ∧ (d.link k).good = good ∧
        ⟨.peer (c.ownPeer k), 0, 0⟩ ∈ (d.link k).ctlq)) ∧
    (c.linkState k ≠ LinkSt.training → exec (.trainingEnd k lanes) s = s.leaves c) ∧
    (c.linkState k = LinkSt.failed →
      (c.rd F.AGL_STATUS_CAUSE k ≠ 5 → ∃ d : Chip, exec (.trainingRetry k) s = s.leaves d ∧ d.linkState k = LinkSt.training ∧
        d.beat = max c.beat ((c.link k).failedAt + 900000000)) ∧
      (c.rd F.AGL_STATUS_CAUSE k = 5 → exec (.trainingRetry k) s = s.leaves c))) ∧
  (∀ (s : State) (k ack : Nat) (copy : Bool) (p : PeerMsg), s.chip.hasLink k = true →
    let c := s.chip
    let l := c.link k
    (copy = false ∨ c.heardCopy k (.peer p) = false →
      (c.linkState k = LinkSt.peerCheck →
        (c.peerMatches k p = true → ∃ d : Chip, exec (.peer ⟨k, ack⟩ copy p) s = s.leaves d ∧ d.linkState k = LinkSt.up ∧ d.rd F.AGL_PEER_VALID k = 1 ∧
          d.rd F.AGL_PEER_MODULE k = p.modId % 256 ∧ bit (d.rd F.GLB_SVC_LINKS_LINKS) k = true ∧
          (l.peerEpoch ≠ some p.epoch → (d.link k).expect = 0 ∧ (d.link k).limit = p.buf ∧ d.rd F.AGL_SEQ_NEXT k = 0)) ∧
        (c.peerMatches k p = false → ∃ d : Chip, exec (.peer ⟨k, ack⟩ copy p) s = s.leaves d ∧ d.linkState k = LinkSt.miswired ∧ d.rd F.AGL_STATUS_CAUSE k = 4 ∧
          d.rd F.AGL_PEER_MODULE k = p.modId % 256)) ∧
      (c.inService k = true → c.on F.AGL_PEER_POS_VALID k ≠ p.posValid ∨ c.on F.AGL_PEER_MODE_QUIET k ≠ p.quiet → ∃ d : Chip,
        exec (.peer ⟨k, ack⟩ copy p) s = s.leaves d ∧ (d.link k).changeBell = some (c.bell + 1) ∧ d.linkState k = c.linkState k)) ∧
    (copy = true → c.heardCopy k (.peer p) = true → ∃ d : Chip, exec (.peer ⟨k, ack⟩ copy p) s = s.leaves d ∧ d.linkState k = c.linkState k ∧
      d.rd F.AGL_PEER_VALID k = c.rd F.AGL_PEER_VALID k ∧ d.rd F.AGL_PEER_MODULE k = c.rd F.AGL_PEER_MODULE k) ∧
    (c.linkState k = LinkSt.down ∨ c.linkState k = LinkSt.training → exec (.peer ⟨k, ack⟩ copy p) s = s.leaves c) ∧
    (c.linkState k = LinkSt.peerCheck →
      (c.rd F.AGL_PEER_VALID k = 0 → ∃ d : Chip, exec (.peerRepeatTimer k) s = s.leaves d ∧ d.beat = max c.beat (l.peerSent + 1024) ∧
        (d.link k).ctlq = l.ctlq ++ [⟨.peer (c.ownPeer k), 0, 0⟩]) ∧
      (c.rd F.AGL_PEER_VALID k = 1 → exec (.peerRepeatTimer k) s = s.leaves c)))

/-- LANE_LOSS (R216, R220): on a link in UP with both pairs the lane is LOST and the other pair is kept: RETRAINING with SHED, one shed counted, SHED
queued; with that pair alone the link trains with CAUSE 1; on a DOWN link only its lock is gone. CODEWORD_UNCORRECTABLE (R196, R220): it is counted,
and the eighth of a pair within 1,024 codewords sheds the pair. SHED (R220): the pair named is kept, or where it does not work here the link trains
with CAUSE 1; kept already, nothing changes. SHED_RETRAIN_END (R216, R219): lock returns the link to UP with its unacknowledged frames to be sent
again, else it trains with CAUSE 1; a link not RETRAINING changes nothing. LINK_DISABLE (R216, R226): set, the link is DISABLED, with CAUSE 6 where it
was in service; cleared, a DISABLED link is DOWN. RETRAIN (R226): the link trains again; a DISABLED one ignores it. VC_BUF_WRITE (R227): a share
changes while the link is DOWN, DISABLED or FAILED and all shares sum to 16,384 flits or less, else only CFG_ERR is set. The model's choices: an
impossible event does nothing (log entry 2). -/
def Obligations.LaneShedAndLinkRegisters : Prop :=
  (∀ (s : State) (k ack lane n : Nat) (copy pairB keepB : Bool), s.chip.hasLink k = true → lane < 4 →
    let c := s.chip
    let l := c.link k
    let p := if pairB then 2 else 1
    let kept (d : Chip) (q : Nat) : Prop := d.linkState k = LinkSt.retraining ∧ d.rd F.AGL_STATUS_SHED k = 1 ∧ d.rd F.AGL_STATUS_PAIRS k = q ∧ (d.link k).good = q ∧
      d.rd F.AGL_SHEDS_SHEDS k = min (2 ^ 16 - 1) (c.rd F.AGL_SHEDS_SHEDS k + 1) ∧ ⟨.shed (q == 2), 0, 0⟩ ∈ (d.link k).ctlq
    let trains (d : Chip) : Prop := d.linkState k = LinkSt.training ∧ d.rd F.AGL_STATUS_CAUSE k = 1 ∧ bit (d.rd F.GLB_SVC_LINKS_LINKS) k = false
    (c.linkState k = LinkSt.up →
      (l.good = 3 → ∃ d : Chip, exec (.laneLoss k lane) s = s.leaves d ∧ d.rd (rxLockF lane) k = 0 ∧ kept d (3 - pairOf lane)) ∧
      (l.good = pairOf lane → ∃ d : Chip, exec (.laneLoss k lane) s = s.leaves d ∧ d.rd (rxLockF lane) k = 0 ∧ trains d) ∧
      (l.good = 3 → 7 ≤ (l.uncorr.filter (fun u => u.1 == p && decide (n < u.2 + 1024))).length →
        ∃ d : Chip, exec (.codewordUncorrectable k pairB n) s = s.leaves d ∧ kept d (3 - p))) ∧
    (c.linkState k = LinkSt.down → ∃ d : Chip, exec (.laneLoss k lane) s = s.leaves d ∧ d.rd (rxLockF lane) k = 0 ∧ d.linkState k = LinkSt.down) ∧
    (l.uncorr = [] → ∃ d : Chip, exec (.codewordUncorrectable k pairB n) s = s.leaves d ∧ (d.link k).uncorr = [(p, n)] ∧ d.linkState k = c.linkState k ∧
      d.rd F.AGL_FEC_UNCORR_COUNT k = min (2 ^ 32 - 1) (c.rd F.AGL_FEC_UNCORR_COUNT k + 1)) ∧
    (c.inService k = true → copy = false ∨ c.heardCopy k (.shed keepB) = false →
      (l.good = 3 → ∃ d : Chip, exec (.shed ⟨k, ack⟩ copy keepB) s = s.leaves d ∧ kept d (if keepB then 2 else 1)) ∧
      (l.good = (if keepB then 1 else 2) → ∃ d : Chip, exec (.shed ⟨k, ack⟩ copy keepB) s = s.leaves d ∧ trains d) ∧
      (l.good = (if keepB then 2 else 1) → exec (.shed ⟨k, ack⟩ copy keepB) s = s.leaves (c.gotCopy k ack copy (.shed keepB)).2)) ∧
    (c.linkState k = LinkSt.retraining →
      (∃ d : Chip, exec (.shedRetrainEnd k false) s = s.leaves d ∧ trains d) ∧
      (∃ d : Chip, exec (.shedRetrainEnd k true) s = s.leaves d ∧ d.linkState k = LinkSt.up ∧ (d.link k).resend = l.replay.map (·.lseq) ∧
        ⟨.peer (c.ownPeer k), 0, 0⟩ ∈ (d.link k).ctlq)) ∧
    (c.linkState k ≠ LinkSt.retraining → exec (.shedRetrainEnd k true) s = s.leaves c ∧ exec (.shedRetrainEnd k false) s = s.leaves c)) ∧
  (∀ (s : State) (src k v n : Nat), k < 32 → v < 7 → n < 2 ^ 15 →
    let c := s.chip
    let sum := ((List.range 7).map (fun i => if i = v then n else c.rd F.AGL_VC_CFG_BUF k i)).sum
    let out := c.linkState k = LinkSt.down ∨ c.linkState k = LinkSt.disabled ∨ c.linkState k = LinkSt.failed
    (c.reaches src F.AGL_CTRL_DISABLE k 0 = true →
      (∃ d : Chip, exec (.linkDisable src k true) s = s.leaves d ∧ d.linkState k = LinkSt.disabled ∧ d.rd F.AGL_CTRL_DISABLE k = 1 ∧
        (c.inService k = true → d.rd F.AGL_STATUS_CAUSE k = 6)) ∧
      (∃ d : Chip, exec (.linkDisable src k false) s = s.leaves d ∧ d.rd F.AGL_CTRL_DISABLE k = 0 ∧
        d.linkState k = if c.linkState k = LinkSt.disabled then LinkSt.down else c.linkState k)) ∧
    (c.reaches src F.AGL_CTRL_RETRAIN k 0 = true → c.linkPresent k = true →
      (c.linkState k = LinkSt.disabled → exec (.retrain src k) s = s.leaves c) ∧
      (c.linkState k ≠ LinkSt.disabled → ∃ d : Chip, exec (.retrain src k) s = s.leaves d ∧ d.linkState k = LinkSt.training ∧ d.rd F.AGL_PEER_VALID k = 0)) ∧
    (c.reaches src F.AGL_VC_CFG_BUF k 0 = true →
      (out → sum ≤ 16384 → exec (.vcBufWrite src k v n) s = s.leaves (c.wr F.AGL_VC_CFG_BUF n k v)) ∧
      (¬ out ∨ 16384 < sum → exec (.vcBufWrite src k v n) s = s.leaves (c.wr F.AGL_VC_CFG_CFG_ERR 1 k v))))

/-- RESTORE (R222): on a link in UP with SHED, AGL_CTRL.RESTORE or the other end's request begins a restore, and the register's queues the request; on
a link without SHED the register does nothing; the other end's report is noted, and where this end received the request and has its pair locked a join
bell at least 4,096 beats ahead is named; a join bell received is kept. RESTORE_PAIR_LOCKED: reported to the other end, once. RESTORE_JOIN_BELL: both
pairs carry codewords, SHED and RESTORING clear. RESTORE_TIMEOUT: 100 ms after the start with no join bell named the restore ends with RESTORE_FAIL.
With no restore in progress these three change nothing. QUIET (R223): on a link in service, in a copy not yet acted on, it sets PEER_QUIET and is a
HOLD of its origin: where none is in force and its bell is ahead, that bell is the hold bell. LIVE clears PEER_QUIET. A second copy of either changes
nothing more. The model's choices: timed commands move BEAT (log entry 9); an impossible event does nothing (2). -/
def Obligations.RestoresAndQuiet : Prop :=
  (∀ (s : State) (src k ack b : Nat) (copy : Bool),
    let c := s.chip
    let l := c.link k
    let fresh (phase : Nat) : Prop := copy = false ∨ c.heardCopy k (.restore phase b) = false
    (c.reaches src F.AGL_CTRL_RESTORE k 0 = true →
      (c.linkState k = LinkSt.up → c.rd F.AGL_STATUS_SHED k = 1 → l.restore = none → ∃ d : Chip, exec (.restore ⟨k, ack⟩ (some src) copy 0 b) s = s.leaves d ∧
        d.rd F.AGL_STATUS_RESTORING k = 1 ∧ (d.link k).restore = some { start := c.beat, own := true } ∧ (d.link k).ctlq = l.ctlq ++ [⟨.restore 0 0, 0, 0⟩]) ∧
      (c.rd F.AGL_STATUS_SHED k = 0 → exec (.restore ⟨k, ack⟩ (some src) copy 0 b) s = s.leaves c)) ∧
    (c.hasLink k = true →
      (c.linkState k = LinkSt.up → c.rd F.AGL_STATUS_SHED k = 1 → l.restore = none → fresh 0 → ∃ d : Chip, exec (.restore ⟨k, ack⟩ none copy 0 b) s = s.leaves d ∧
        d.rd F.AGL_STATUS_RESTORING k = 1 ∧ (d.link k).restore = some { start := c.beat, own := false }) ∧
      (c.inService k = true → ∀ r, l.restore = some r →
        (r.own = false → r.here = true → r.join = none → fresh 1 → ∃ d : Chip, exec (.restore ⟨k, ack⟩ none copy 1 b) s = s.leaves d ∧
          (d.link k).restore = some { r with there := true, join := some (c.bellAhead 4096) } ∧
          (d.link k).ctlq = l.ctlq ++ [⟨.restore 2 (c.bellAhead 4096), 0, 0⟩]) ∧
        (r.own = true ∨ r.here = false → fresh 1 → ∃ d : Chip, exec (.restore ⟨k, ack⟩ none copy 1 b) s = s.leaves d ∧ (d.link k).restore = some { r with there := true }) ∧
        (fresh 2 → ∃ d : Chip, exec (.restore ⟨k, ack⟩ none copy 2 b) s = s.leaves d ∧ (d.link k).restore = some { r with join := some b })) ∧
      (∀ r, l.restore = some r →
        (r.here = false → r.there = false → ∃ d : Chip, exec (.restorePairLocked k) s = s.leaves d ∧ (d.link k).restore = some { r with here := true } ∧
          (d.link k).ctlq = l.ctlq ++ [⟨.restore 1 0, 0, 0⟩]) ∧
        (r.here = true → exec (.restorePairLocked k) s = s.leaves c) ∧
        (∀ j, r.join = some j → ∃ d : Chip, exec (.restoreJoinBell k) s = s.leaves d ∧ d.rd F.AGL_STATUS_SHED k = 0 ∧ d.rd F.AGL_STATUS_RESTORING k = 0 ∧
          (d.link k).restore = none ∧ (d.link k).good = 3 ∧ d.beat = max c.beat (j * bellBeats)) ∧
        (r.join = none → exec (.restoreJoinBell k) s = s.leaves c ∧ ∃ d : Chip, exec (.restoreTimeout k) s = s.leaves d ∧ (d.link k).restore = none ∧
          d.rd F.AGL_STATUS_RESTORING k = 0 ∧ d.rd F.AGL_STATUS_RESTORE_FAIL k = 1 ∧ d.beat = max c.beat (r.start + 90000000))) ∧
      (l.restore = none → exec (.restorePairLocked k) s = s.leaves c ∧ exec (.restoreJoinBell k) s = s.leaves c ∧ exec (.restoreTimeout k) s = s.leaves c))) ∧
  (∀ (s : State) (k ack origin b : Nat) (copy : Bool), s.chip.hasLink k = true → s.chip.inService k = true →
    let c := s.chip
    (copy = false ∨ c.heardCopy k (.quiet origin b) = false → ∃ d : Chip, exec (.quiet ⟨k, ack⟩ copy origin b) s = s.leaves d ∧ d.rd F.AGL_STATUS_PEER_QUIET k = 1 ∧
      (c.hold.seen.contains (origin, b) = false → c.hold.bell = none → c.hold.resume = none → c.hold.held = false → c.beat < b * bellBeats →
        d.hold.bell = some b)) ∧
    (copy = false ∨ c.heardCopy k .live = false → ∃ d : Chip, exec (.live ⟨k, ack⟩ copy) s = s.leaves d ∧ d.rd F.AGL_STATUS_PEER_QUIET k = 0) ∧
    (copy = true → c.heardCopy k (.quiet origin b) = true → exec (.quiet ⟨k, ack⟩ copy origin b) s = s.leaves (c.gotCopy k ack copy (.quiet origin b)).2) ∧
    (copy = true → c.heardCopy k .live = true → exec (.live ⟨k, ack⟩ copy) s = s.leaves (c.gotCopy k ack copy .live).2))

/-- With no combine on a channel none of its operations changes anything. CHAIN_SETUP (R242, R259): on the stead channel a sheaf of the combine at a
position of this module has its chain set up, nothing produced, and CMB_TRIG_PEAK is the most operations in flight; on the tenant channel so while the
stead almanacs keep theirs; above 4,096 operations the chain is not set up. PRODUCED (R240, R241, R250): with a slot a sheaf not produced is produced,
in TALLY with its codes noted; without one it is not, and the riddle of MATMUL_RS waits from the beat it ends at (log entry 9). Combine frames on a
link (R240, R243, R250, R257), the oldest on VC0 for the stead channel and on VC4 for the tenant's. COMBINE_DATA: a frame of another group, or without
a combine, is counted and dropped; one whose chain is not set up waits; the last frame of a sheaf for the floors makes its slot READY and counts a
sheaf in. ANCHOR_UP: whole codes are noted with their child. ANCHOR_DOWN: whole codes are the position's anchors. GRANT: it is noted.
WINDOW_PLACE_FREE takes the frame as its own command does. With no frame the buffer stays. TENANT_COMBINE_TIMEOUT (R258): CMB_TWAIT after its last
progress a tenant combine has ended; with none nothing changes. The model's choices: timed commands move BEAT (log entry 9); an impossible event does
nothing (2). -/
def Obligations.CombineChainsAndFrames : Prop :=
  (∀ (s : State) (ch pos g beat : Nat),
    let c := s.chip
    let at_ (d : Chip) : Option Chain := (d.comb ch).bind (fun b => b.chain pos g)
    (c.comb ch = none → exec (.chainSetup ch pos g) s = s.leaves c ∧ exec (.produced ch pos g beat) s = s.leaves c ∧ exec (.anchored ch pos g) s = s.leaves c ∧
      (∀ l, exec (.arrived ch pos g l) s = s.leaves c) ∧ exec (.reduced ch pos g) s = s.leaves c ∧ exec (.root ch pos g) s = s.leaves c ∧
      exec (.down ch pos g) s = s.leaves c ∧ exec (.sent ch pos g) s = s.leaves c ∧ ∀ m, exec (.relay ch g m) s = s.leaves c) ∧
    (∀ b, c.comb ch = some b →
      (b.chain pos g = none → (c.positionsOf b).contains pos = true → b.grp.names pos = true → c.ownStead b.grp = true → g < b.total →
        (ch = 0 → c.opsInFlight + c.pendingOps b { pos := pos, g := g } ≤ 4096 → ∃ d : Chip, exec (.chainSetup ch pos g) s = s.leaves d ∧
          (at_ d).map (·.produced) = some false ∧
          d.rd F.CMB_TRIG_PEAK_PEAK = max (c.rd F.CMB_TRIG_PEAK_PEAK) (c.opsInFlight + c.pendingOps b { pos := pos, g := g })) ∧
        (ch = 1 → c.opsInFlight + c.pendingOps b { pos := pos, g := g } ≤ 4096 → c.combineOps b + c.pendingOps b { pos := pos, g := g } + c.opsKept ≤ 4096 →
          ∃ d : Chip, exec (.chainSetup ch pos g) s = s.leaves d ∧ (at_ d).map (·.produced) = some false) ∧
        (4096 < c.opsInFlight → ∃ d : Chip, exec (.chainSetup ch pos g) s = s.leaves d ∧ at_ d = none)) ∧
      (∀ x, b.chain pos g = some x → x.produced = false → c.makes b pos g = true →
        ((c.ownSlot b pos g).isSome = true → ∃ d : Chip, exec (.produced ch pos g beat) s = s.leaves d ∧ (at_ d).map (·.produced) = some true ∧
          (b.e.reduces = true → b.ints = true → (at_ d).map (fun y => y.codes.any (fun k => k.1 == 0 && k.2.1 == pos)) = some true)) ∧
        (c.ownSlot b pos g = none → ∃ d : Chip, exec (.produced ch pos g beat) s = s.leaves d ∧ (at_ d).map (·.produced) = some false ∧
          (b.e.op = Op.matmulRs → b.waitFrom = none → (d.comb ch).map (·.waitFrom) = some (some (max c.beat beat))))))) ∧
  (∀ (s : State) (k vc : Nat), s.chip.hasLink k = true → vc = 0 ∨ vc = 4 →
    let c := s.chip
    let ch := if vc = 0 then 0 else 1
    let at_ (d : Chip) (pos g : Nat) : Option Chain := (d.comb ch).bind (fun b => b.chain pos g)
    (∀ f, c.peekRx k vc = some f →
      (c.comb ch = none → f.typ = 1 → exec (.combineData k vc) s = s.leaves ((c.count F.CMB_DROP_COUNT).takeRx k vc)) ∧
      (f.typ = 1 ∨ f.typ = 5 → exec (.windowPlaceFree k vc) s = exec (.combineData k vc) s) ∧
      (f.typ = 2 → exec (.windowPlaceFree k vc) s = exec (.anchorUp k vc) s) ∧
      (f.typ = 3 → exec (.windowPlaceFree k vc) s = exec (.anchorDown k vc) s) ∧
      (f.typ = 4 → vc = 4 → exec (.windowPlaceFree k vc) s = exec (.grant k) s) ∧
      (∀ b, c.comb ch = some b →
        let g := f.ctx / 1024
        let l := field f.flow 8 2
        let mine := field f.flow 0 8 = (if ch = 0 then b.e.group else b.grp.tgroup) ∧ field f.flow 11 5 = 0 ∧ g < b.total ∧ c.member b.grp = true ∧
          (ch = 1 → c.tgroupOk b = true)
        (f.typ = 1 → field f.flow 0 8 ≠ (if ch = 0 then b.e.group else b.grp.tgroup) → ∃ d : Chip, exec (.combineData k vc) s = s.leaves d ∧
          d.rd F.CMB_DROP_COUNT = min (2 ^ 32 - 1) (c.rd F.CMB_DROP_COUNT + 1) ∧ (d.link k).rx = (c.takeRx k vc |>.link k).rx) ∧
        (f.typ = 1 → mine → b.chain f.dest g = none → ∃ d : Chip, exec (.combineData k vc) s = s.leaves d ∧ (d.link k).rx = (c.link k).rx) ∧
        (mine → ∀ x, b.chain f.dest g = some x → c.expects ch b f.dest f.src f.typ l g (bit f.flow 10) = true →
          (f.typ = 1 → b.e.reduces = true → bit f.flow 10 = false → ∀ j r, b.slotOf f.dest g l f.src = some (j, r) → Table.find? j b.slots = some r → 1 ≤ l → r.st = .filling → r.spent = false →
            f.ctx % 1024 < framesOf (b.expectBytes l false) → r.frames.contains (f.ctx % 1024) = false → framesOf (b.expectBytes l false) = r.frames.length + 1 →
            ∃ d : Chip, exec (.combineData k vc) s = s.leaves d ∧ (d.comb ch).map (·.slotSt j) = some .ready ∧
              d.rd F.CMB_SHEAVES_IN_COUNT = min (2 ^ 32 - 1) (c.rd F.CMB_SHEAVES_IN_COUNT + 1)) ∧
          (f.ctx % 1024 = 0 → 0 < b.anchorBytes → framesOf b.anchorBytes = 1 →
            (f.typ = 2 → (∀ i ∈ x.ins, i.level = 32 + l → i.who ≠ f.src) → ∃ d : Chip, exec (.anchorUp k vc) s = s.leaves d ∧
              (at_ d f.dest g).map (fun y => y.codes.contains (l, f.src, f.payload.map (·.toNat))) = some true) ∧
            (f.typ = 3 → (∀ i ∈ x.ins, i.level = 48 + l → i.who ≠ f.src) → ∃ d : Chip, exec (.anchorDown k vc) s = s.leaves d ∧
              (at_ d f.dest g).map (·.anchors) = some (some (f.payload.map (·.toNat))))) ∧
          (f.typ = 4 → vc = 4 → ∃ d : Chip, exec (.grant k) s = s.leaves d ∧ (d.comb 1).map (fun b => b.grants.contains (f.src, l, g)) = some true)))) ∧
    (c.peekRx k vc = none → ∃ d : Chip, exec (.combineData k vc) s = s.leaves d ∧ (d.link k).rx = (c.link k).rx) ∧
    (c.comb 1 = none → exec .tenantCombineTimeout s = s.leaves c) ∧
    (∀ b i, c.comb 1 = some b →
      let d := c.advanceTo (b.lastProgress + c.rd F.CMB_TWAIT_MS * 900000)
      let e := ((d.pinned b.pins (fun c => c.combineUndef b)).endCombine 1).instEvent (b.ctx - 2) 2
      (e.ctx b.ctx).flight b.idx = some i → exec .tenantCombineTimeout s = s.leaves (e.leaveUnit b.ctx i)))

/-- ANCHORED (R114, R241): a produced contribution whose anchors are held becomes integers, once; without anchors it does not. ARRIVED (R241, R249): a
level whose inputs are all placed takes one of the 16 floors, and with all 16 busy none. REDUCED (R111, R115, R249): a floor in use is free again and
its level done; at the top, as its position's own sheaf and then its children's are read in order, the result of each element is their FP32 sum added
in that order and narrowed to FP32, or in TALLY the integers' sum modulo 2^64; with no floor in use no level is done. -/
def Obligations.FloorsAddInOrder : Prop :=
  ∀ (s : State) (ch pos g l : Nat) (b : Combine) (x : Chain), s.chip.comb ch = some b → b.chain pos g = some x →
    let c := s.chip
    let at_ (d : Chip) : Option Chain := (d.comb ch).bind (fun b => b.chain pos g)
    (x.anchors.isSome = true → x.anchored = false → x.produced = true →
      (b.slots.find? (fun e => e.2.pos == pos && e.2.g == g && e.2.who == pos && e.2.st == .ready)).isSome = true →
      ∃ d : Chip, exec (.anchored ch pos g) s = s.leaves d ∧ (at_ d).map (fun y => (y.anchored, y.units)) = some (true, [])) ∧
    (x.anchors = none → ∃ d : Chip, exec (.anchored ch pos g) s = s.leaves d ∧ (at_ d).map (·.anchored) = some x.anchored) ∧
    (x.floor = none → c.floorsBusy = 16 → ∃ d : Chip, exec (.arrived ch pos g l) s = s.leaves d ∧ (at_ d).map (·.floor) = some none) ∧
    (b.e.reduces = true → b.active l = true → c.owns b pos l g = true → x.floor = none → x.reducedLv.contains l = false → c.floorsBusy < 16 →
      (b.ints = true → x.anchored = true) → x.win.contains l = true →
      (∀ m ∈ pos :: c.children b pos l, ∃ e, b.slotOf pos g l m = some e ∧ e.2.st = .ready) →
      ∃ d : Chip, exec (.arrived ch pos g l) s = s.leaves d ∧ (at_ d).map (·.floor) = some (some l)) ∧
    (x.floor = none → ∃ d : Chip, exec (.reduced ch pos g) s = s.leaves d ∧ (at_ d).map (fun y => (y.reducedLv, y.result)) = some (x.reducedLv, x.result)) ∧
    (x.floor = some l → (b.slotOf pos g l pos).isSome = true →
      let y := b.layAt l
      let ins := ((c.addOrder b pos l).foldl (fun (acc : List (List MByte × List MByte) × Chip) m => match b.slotOf pos g l m with
        | some (j, _) => let r := acc.2.slotRead b j y; (acc.1 ++ [(r.1, r.2.1)], r.2.2)
        | none => acc) ([], { c with xcache := b.pins ++ c.xcache })).1
      ∃ d : Chip, exec (.reduced ch pos g) s = s.leaves d ∧ (at_ d).map (fun y => (y.floor, y.reducedLv)) = some (none, l :: x.reducedLv) ∧
        (b.above l = none → y.ints = false → (at_ d).bind (·.result) = some ((List.range b.se).map (fun i =>
          match ins.map (fun e => (y.vals b.ringD b.se e.1 e.2).getD i Fp.nan) with
          | [] => some (narrowFloat 0 Fp.nan .rne).1
          | v :: t => some (narrowFloat 0 (t.foldl Fp.add v) .rne).1))) ∧
        (b.above l = none → y.ints = true → (at_ d).bind (·.result) = some ((List.range b.se).map (fun i =>
          (sumInts (ins.map (fun e => (Lay.integers b.se e.1).getD i none))).map (wrap 64)))))

/-- ROOT (R115, R241, R252): a result is taken once; of AR it then goes down from level 4, of MATMUL_RS without TALLY or a riddle it is written to D
at its element; without a result nothing is taken. DOWN (R241, R246): a sheaf that goes down has gone, and a member's copy of an AR result with no
level below is written to D as it came; one that does not go down has not. SENT (R241): once every frame of a sheaf is acknowledged its slots await no
acknowledgement and its chain is sent as far as its work is done; before that it is not. RELAY (R247): a sheaf READY for a member of another rick is
sent on, counted once more, and noted as relayed; one not READY is not. -/
def Obligations.ResultsReachTheirMembers : Prop :=
  ∀ (s : State) (ch pos g origin : Nat) (b : Combine) (x : Chain), s.chip.comb ch = some b → b.chain pos g = some x →
    let c := s.chip
    let at_ (d : Chip) : Option Chain := (d.comb ch).bind (fun b => b.chain pos g)
    (x.result = none → ∃ d : Chip, exec (.root ch pos g) s = s.leaves d ∧ (at_ d).map (·.rooted) = some x.rooted) ∧
    (x.result.isSome = true → x.rooted = false → ∃ d : Chip, exec (.root ch pos g) s = s.leaves d ∧ (at_ d).map (·.rooted) = some true ∧
      (b.e.op = Op.ar → (∀ y ∈ b.chains, y.waiting = []) → (at_ d).map (fun y => (y.down, y.downFrom)) = some (true, 4))) ∧
    (∀ r, x.result = some r → x.rooted = false → b.ints = false → b.e.op = Op.matmulRs → b.e.p16 = 0 →
      exec (.root ch pos g) s = s.leaves (c.inComb ch (fun c =>
        let y := (c.onChain ch pos g (fun x => { x with rooted := true })).writeRun b.ctx (c.posDesc b pos 3) (c.keyOf b (b.e.desc 3)) (g / b.grp.p * b.se)
          ((List.range b.se).map (fun i => match r.getD i none with | some v => f32 v | none => Fp.nan))
        y.2.2.ariEvents (ariScope b.ctx) (y.2.1.add { tallyNf := 0 })))) ∧
    (x.down = false → ∃ d : Chip, exec (.down ch pos g) s = s.leaves d ∧ (at_ d).map (·.downDone) = some x.downDone) ∧
    (x.down = true → x.downDone = false → (∃ d : Chip, exec (.down ch pos g) s = s.leaves d ∧ (at_ d).map (·.downDone) = some true) ∧
      (b.isAr = true → x.rooted = false → b.levelsBelow x.downFrom = [] → exec (.down ch pos g) s = s.leaves (c.inComb ch (fun c =>
        (c.onChain ch pos g (fun x => { x with downDone := true })).writeResult b pos g x.downData)))) ∧
    (c.allAcked ch b pos g = true → ∃ d : Chip, exec (.sent ch pos g) s = s.leaves d ∧ (at_ d).map (·.sent) = some (x.sent || c.chainWork b x)) ∧
    (c.allAcked ch b pos g = false → ∃ d : Chip, exec (.sent ch pos g) s = s.leaves d ∧ (at_ d).map (·.sent) = some x.sent) ∧
    (∀ k e, b.slots.find? (fun e => e.2.g == g && e.2.tag == 16 && e.2.who == origin) = some (k, e) → e.pos = pos →
      (e.st ≠ .ready → ∃ d : Chip, exec (.relay ch g origin) s = s.leaves d ∧ (at_ d).map (·.relayed) = some x.relayed) ∧
      (e.st = .ready → e.spent = false → (ch = 1 → b.grants.contains (b.blockOf g, 0, g) = true) → c.carriedHere (b.blockOf g) = false → (∀ y ∈ b.chains, y.waiting = []) →
        ∃ d : Chip, exec (.relay ch g origin) s = s.leaves d ∧ (at_ d).map (·.relayed) = some (origin :: x.relayed) ∧
          d.rd F.CMB_SHEAVES_OUT_COUNT = min (2 ^ 32 - 1) (c.rd F.CMB_SHEAVES_OUT_COUNT + 1)))

/-- Doorbells (R43, R264, R265, R266). With the host link down nothing happens, nor for a requester other than the manager that is beyond the
instances, is not the queue's owner, is not present or is resetting, nor with the module off. Otherwise a write of the high word alone is a SIZE
violation, and outside service any is a STATE violation, as is one of a queue that does not exist. In service: a producer index that neither moves
back nor passes the ring is taken, adding its RECVs; any other is a violation and the queue enters error; a producer write of a CQ and a consumer
write of another queue do nothing; a consumer index up to the producer is taken, with ARM of a whole write, what waited is written and the queue pairs
on the ring go on; one beyond it is a violation. Entries (R263, R267, R269). A fetch takes the entry at the fetch index of a ring whose page
translates, and nothing of a ring with none left. A CQ and a queue that does not exist have none to fetch; an admin queue in service fetches when it
holds none; an SQ or RQ in service of a connected queue pair with its context on the die fetches one and goes on, of one in error it completes the
entry FLUSHED, of one that ends the end goes on. The next send-queue entry of a connected queue pair, every earlier one sent and none failed, with
FENCE every earlier READ and atomic complete, starts by the command of its opcode alone: a NOP completes at once, the others are sent. A context that
is not on the die holds either operation until it comes. The model's choices: an impossible event does nothing (log entry 2). -/
def Obligations.DoorbellsAndWorkEntries : Prop :=
  (∀ (s : State) (src qid v : Nat) (form : BellForm) (arm : Bool), v < 2 ^ 32 →
    let c := s.chip
    let both (d : Chip) : Prop := exec (.doorbellProducer src qid ⟨form, v⟩) s = s.leaves d ∧ exec (.doorbellConsumer src qid ⟨form, v⟩ arm) s = s.leaves d
    let shut : Prop := src ≠ 0x3FF ∧ (512 ≤ src ∨ qOwner qid ≠ src ∨ c.on F.INS_STATUS_VF_PRESENT src = false ∨ c.resetting src = true)
    (c.hostUp = false ∨ shut ∨ c.mst = .off → both c) ∧
    (c.hostUp = true → ¬ shut → c.mst ≠ .off →
      (form = .high → both (c.bellViol src qid .high .size)) ∧
      (form ≠ .high →
        (c.dataState = false ∨ (src ≠ 0x3FF ∧ c.ownerServed src = false) → both (c.bellViol src qid form .state)) ∧
        (c.dataState = true → src = 0x3FF ∨ c.ownerServed src = true →
          (c.queue qid = none → both (c.bellViol src qid form .state)) ∧
          (∀ q, c.queue qid = some q → q.kind ≠ .cq →
            exec (.doorbellConsumer src qid ⟨form, v⟩ arm) s = s.leaves c ∧
            (span q.p q.c ≤ span v q.c → span v q.c ≤ 2 ^ q.log2 →
              exec (.doorbellProducer src qid ⟨form, v⟩) s = s.leaves ((c.onQueue qid (fun q => { q with p := v })).addRecvs q (span v q.p))) ∧
            (span v q.c < span q.p q.c ∨ 2 ^ q.log2 < span v q.c →
              exec (.doorbellProducer src qid ⟨form, v⟩) s = s.leaves ((c.bellViol src qid form .state).queueError qid QpCause.doorbell).ringFails)) ∧
          (∀ q, c.queue qid = some q → q.kind = .cq →
            exec (.doorbellProducer src qid ⟨form, v⟩) s = s.leaves c ∧
            (span v q.c ≤ span q.p q.c → exec (.doorbellConsumer src qid ⟨form, v⟩ arm) s = s.leaves
              (((c.onQueue qid (fun q => { q with c := v, armed := q.armed || (arm && form == .whole), err := false })).flushCq qid).ringFreed qid).ringFails) ∧
            (span q.p q.c < span v q.c → exec (.doorbellConsumer src qid ⟨form, v⟩ arm) s = s.leaves (c.bellViol src qid form .state))))))) ∧
  (∀ (s : State) (qid n : Nat),
    let c := s.chip
    let u := c.useCtx n
    let held (x : CtxOp) : Chip := if u.ctxOps.contains (n, x) then u else { u with ctxOps := u.ctxOps ++ [(n, x)] }
    (c.queue qid = none → exec (.workEntryFetch qid) s = s.leaves c) ∧
    (∀ q, c.queue qid = some q →
      (q.f = q.p → c.fetchOne qid = (false, c)) ∧
      (q.f ≠ q.p → q.faulted = false → (c.ringRange qid (q.slotVa q.f) 64 .read).1 = .ok →
        let d := (c.ringRange qid (q.slotVa q.f) 64 .read).2
        c.fetchOne qid = (true, (d.vaRead (qOwner qid) (q.slotVa q.f) 64).2.onQueue qid (fun z =>
          { z with f := next32 q.f, ents := z.ents ++ [{ idx := q.f, words := wordsOf 16 ((d.vaRead (qOwner qid) (q.slotVa q.f) 64).1.map (·.1)) }] }))) ∧
      (q.kind = .cq → exec (.workEntryFetch qid) s = s.leaves c) ∧
      (q.kind = .admin → c.admOn (qOwner qid) = true → c.admErr (qOwner qid) = false → c.gap = false → q.ents = [] → c.cqStalled (qid + 1) = false →
        exec (.workEntryFetch qid) s = s.leaves (c.fetchOne qid).2.ringFails) ∧
      (q.kind = .sq ∨ q.kind = .rq → q.qp = some n → c.cqStalled q.cq = false → c.rmeOn = true → ∀ p, c.qpair n = some p → c.ownerServed p.owner = true →
        p.draining = false →
        (p.closing.isSome = true → exec (.workEntryFetch qid) s = s.leaves (c.closeStep n).ringFails) ∧
        (p.closing = none → c.ctxHeld n = true →
          (p.st = .connected → exec (.workEntryFetch qid) s = s.leaves ((u.fetchOne qid).2.qpStep n).ringFails) ∧
          (p.st = .error → (u.fetchOne qid).1 = true →
            exec (.workEntryFetch qid) s = s.leaves (((u.fetchOne qid).2.endAll qid p.flush).settleQ n qid (q.kind == .rq)).2.ringFails)) ∧
        (p.closing = none → c.ctxHeld n = false → p.st = .connected ∨ p.st = .error → exec (.workEntryFetch qid) s = s.leaves (held (.fetch qid))))) ∧
    (∀ q z e, c.qpair n = some q → c.queue q.sq = some z → z.ents.find? (fun e => !e.started) = some e → c.rmeOn = true → q.st = .connected → q.stalled = false →
      q.draining = false → c.cqStalled z.cq = false → e.badSq = false →
      (z.ents.takeWhile (·.started)).all (fun x => x.allSent && (x.res == none || x.res == some St.ok) && !(e.fence && x.isRead && x.res == none)) = true →
      let d := (u.count F.RME_OPS_COUNT).onWqe q.sq e.idx (fun e => { e with started := true })
      (c.ctxHeld n = true →
        (e.op = 0 → exec (.sqNop n) s = s.leaves ((d.endWqe q.sq e.idx St.ok 0).settleSq n).ringFails ∧ exec (.sqSend n) s = s.leaves c) ∧
        (e.op = 1 → exec (.sqSend n) s = s.leaves (d.qpStep n).ringFails ∧ exec (.sqNop n) s = s.leaves c) ∧
        (e.op = 2 → exec (.sqWrite n) s = s.leaves (d.qpStep n).ringFails ∧ exec (.sqRead n) s = s.leaves c) ∧
        (e.op = 3 → exec (.sqRead n) s = s.leaves (d.qpStep n).ringFails ∧ exec (.sqWrite n) s = s.leaves c) ∧
        (e.op = 4 → exec (.sqFetchAdd n) s = s.leaves (d.qpStep n).ringFails ∧ exec (.sqCompareSwap n) s = s.leaves c) ∧
        (e.op = 5 → exec (.sqCompareSwap n) s = s.leaves (d.qpStep n).ringFails ∧ exec (.sqFetchAdd n) s = s.leaves c)) ∧
      (c.ctxHeld n = false → e.op = 1 → exec (.sqSend n) s = s.leaves (held (.start 1)))) ∧
    (c.qpair n = none → exec (.sqNop n) s = s.leaves c ∧ exec (.sqSend n) s = s.leaves c ∧ exec (.cqStallTimeout n) s = s.leaves c))

/-- Stalled rings and contexts (R23, R274, R277, R288). A connected queue pair whose SQ's CQ has been full for 10 ms enters error with its cause; one
that is being reset ends then, the ABORTED completions that wait discarded; with neither CQ full nothing happens. A context among the 64 misses in
flight arrives, a place being made where the cache is full by the least recently used that is not pinned, written back if dirty; then the operations
it held go on in their order. One that is not in flight changes nothing. The model's choices: timed commands move BEAT (log entry 9); an impossible
event does nothing (2). -/
def Obligations.RingStallsAndContexts : Prop :=
  ∀ (s : State) (n : Nat),
    let c := s.chip
    (∀ q z k t, c.qpair n = some q → c.queue q.sq = some z → c.queue z.cq = some k → k.full = true → k.since = some t →
      (q.closing = none → q.st = .connected → exec (.cqStallTimeout n) s = s.leaves ((c.advanceTo (t + 9000000)).qpError n QpCause.cqStall).ringFails) ∧
      (∀ x, q.closing = some x → exec (.cqStallTimeout n) s = s.leaves ((([q.sq, q.rq].filterMap (fun w => (c.queue w).map (·.cq))).foldl
        (fun c r => c.onQueue r (fun y => { y with waiting := y.waiting.filter (fun e => !abortedOf q e) }))
        (c.advanceTo (max t x.since + 9000000))).closeEnd n true).ringFails)) ∧
    (∀ q, c.qpair n = some q → (∀ w ∈ [q.sq, q.rq], (c.queue w).all (fun z => (c.queue z.cq).all (fun k => !k.full)) = true) →
      exec (.cqStallTimeout n) s = s.leaves c) ∧
    ((c.ctxMiss.take 64).contains n = true →
      exec (.contextFetchComplete n) s = s.leaves (((c.ctxOps.filter (·.1 == n)).map (·.2)).foldl (fun c o => c.ctxOp n o)
        { c.ctxFetched n with ctxOps := c.ctxOps.filter (·.1 ≠ n) }) ∧
      (∀ q, c.qpair n = some q → c.ctxCache.length < 16384 →
        c.ctxFetched n = { c with ctxMiss := c.ctxMiss.filter (· ≠ n), ctxCache := ⟨n, true⟩ :: c.ctxCache }) ∧
      (∀ q v, c.qpair n = some q → 16384 ≤ c.ctxCache.length → c.ctxCache.reverse.find? (fun e => !c.ctxPinned e.qpn) = some v →
        (c.ctxFetched n).ctxCache = ⟨n, true⟩ :: c.ctxCache.erase v ∧
        (v.dirty = true → (c.ctxFetched n).regs = (c.count F.RME_CTX_WB_COUNT).regs) ∧ (v.dirty = false → (c.ctxFetched n).regs = c.regs))) ∧
    ((c.ctxMiss.take 64).contains n = false → exec (.contextFetchComplete n) s = s.leaves c)

/-- The admin queue (R279, R280). With no command at the head no admin command does anything. A command with a reserved bit set is RANGE, whatever its
opcode, as is an unlisted opcode. NOP completes OK; QUERY_USE and QUERY_QP complete with what the owner holds and how a queue pair stands; a queue
pair that is not the owner's is NO_SUCH, and one whose context is not on the die holds the command until it comes. Queues (R262, R280). CREATE_CQ and
CREATE_WQ with every field in range, a work ring's CQ the owner's, take a free local index within the quota and complete OK with it; a ring size,
alignment, vector or shadow out of range is RANGE, a CQ that is not the owner's NO_SUCH, the quota exhausted QUOTA. DESTROY_CQ and DESTROY_WQ remove a
queue of the owner that is not in use; one in use is IN_USE and one that is not the owner's NO_SUCH. The model's choices: an impossible event does
nothing (log entry 2); which free number is assigned is free (10). -/
def Obligations.AdminQueriesAndQueues : Prop :=
  (∀ (s : State) (o : Nat),
    let c := s.chip
    (c.admHead o = none →
      exec (.createCq o) s = s.leaves c ∧ exec (.destroyCq o) s = s.leaves c ∧ exec (.createWq o) s = s.leaves c ∧ exec (.destroyWq o) s = s.leaves c ∧
      exec (.createQp o) s = s.leaves c ∧ exec (.connectQp o) s = s.leaves c ∧ exec (.resetQp o) s = s.leaves c ∧ exec (.destroyQp o) s = s.leaves c ∧
      exec (.queryQp o) s = s.leaves c ∧ exec (.almLoad o) s = s.leaves c ∧ exec (.almAdmit o) s = s.leaves c ∧ exec (.almRun o) s = s.leaves c ∧
      exec (.almStop o) s = s.leaves c ∧ exec (.almUnload o) s = s.leaves c ∧ exec (.keyAlloc o) s = s.leaves c ∧ exec (.keyFree o) s = s.leaves c ∧
      exec (.adminNop o) s = s.leaves c ∧ exec (.queryUse o) s = s.leaves c ∧ exec (.adminUnlistedOpcode o) s = s.leaves c) ∧
    (∀ e, c.admHead o = some e → e.admRsv = true →
      let d := (c.admDone o 12 6 0 0).ringFails
      (e.op = 1 → exec (.createCq o) s = s.leaves d) ∧ (e.op = 2 → exec (.destroyCq o) s = s.leaves d) ∧ (e.op = 3 → exec (.createWq o) s = s.leaves d) ∧
      (e.op = 4 → exec (.destroyWq o) s = s.leaves d) ∧ (e.op = 5 → exec (.createQp o) s = s.leaves d) ∧ (e.op = 6 → exec (.connectQp o) s = s.leaves d) ∧
      (e.op = 7 → exec (.resetQp o) s = s.leaves d) ∧ (e.op = 8 → exec (.destroyQp o) s = s.leaves d) ∧ (e.op = 9 → exec (.queryQp o) s = s.leaves d) ∧
      (e.op = 0x10 → exec (.almLoad o) s = s.leaves d) ∧ (e.op = 0x11 → exec (.almAdmit o) s = s.leaves d) ∧ (e.op = 0x12 → exec (.almRun o) s = s.leaves d) ∧
      (e.op = 0x13 → exec (.almStop o) s = s.leaves d) ∧ (e.op = 0x14 → exec (.almUnload o) s = s.leaves d) ∧ (e.op = 0x20 → exec (.keyAlloc o) s = s.leaves d) ∧
      (e.op = 0x21 → exec (.keyFree o) s = s.leaves d) ∧ (e.op = 0x30 → exec (.adminNop o) s = s.leaves d) ∧ (e.op = 0x31 → exec (.queryUse o) s = s.leaves d)) ∧
    (∀ e, c.admHead o = some e →
      (admListed e.op = false → exec (.adminUnlistedOpcode o) s = s.leaves (c.admDone o 12 6 0 0).ringFails) ∧
      (admListed e.op = true → exec (.adminUnlistedOpcode o) s = s.leaves c) ∧
      (e.admRsv = false →
        (e.op = 0x30 → exec (.adminNop o) s = s.leaves (c.admDone o 0 0 0 0).ringFails) ∧
        (e.op ≠ 0x30 → exec (.adminNop o) s = s.leaves c) ∧
        (e.op = 0x31 → exec (.queryUse o) s = s.leaves (c.admDone o 0 0 (c.queuesUsed o + (c.keysHeld 0 (sourceOf o) + c.keysHeld 1 (sourceOf o)) * 65536)
          (c.qpsUsed o)).ringFails) ∧
        (e.op = 0x09 →
          (c.ownQp o (e.w 1) = none → exec (.queryQp o) s = s.leaves (c.admDone o 4 2 0 0).ringFails) ∧
          (∀ q, c.ownQp o (e.w 1) = some q →
            let n := e.w 1
            let u := c.useCtx n
            let held (x : CtxOp) : Chip := if u.ctxOps.contains (n, x) then u else { u with ctxOps := u.ctxOps ++ [(n, x)] }
            (c.ctxHeld (e.w 1) = true → exec (.queryQp o) s = s.leaves
              ((c.useCtx (e.w 1)).admDone o 0 0 (q.st.code + q.retries * 16 + q.cause * 256) (q.next % 2 ^ 32)).ringFails) ∧
            (c.ctxHeld (e.w 1) = false → exec (.queryQp o) s = s.leaves (held (.admin o 0x09)))))))) ∧
  (∀ (s : State) (o : Nat) (e : Wqe), s.chip.admHead o = some e → e.admRsv = false →
    let c := s.chip
    let log2 := field (e.w 1) 0 5
    let range := (c.admDone o 12 6 0 0).ringFails
    let noSuch := (c.admDone o 4 2 0 0).ringFails
    let inUse := (c.admDone o 12 5 0 0).ringFails
    (e.op = 0x01 →
      (4 ≤ log2 → log2 ≤ 16 → vectorOk o (field (e.w 1) 16 11) = true → ringAligned (e.w64 2) log2 32 = true → e.w 4 % 4 = 0 →
        exec (.createCq o) s = s.leaves (c.newQueue o { kind := .cq, base := e.w64 2, log2 := log2, shadow := e.w64 4, vector := field (e.w 1) 16 11 }).ringFails) ∧
      (log2 < 4 ∨ 16 < log2 ∨ vectorOk o (field (e.w 1) 16 11) = false ∨ ringAligned (e.w64 2) log2 32 = false ∨ e.w 4 % 4 ≠ 0 →
        exec (.createCq o) s = s.leaves range)) ∧
    (e.op = 0x03 →
      (4 ≤ log2 → log2 ≤ 16 → ringAligned (e.w64 3) log2 64 = true →
        (∀ q, c.ownQueue o (e.w 2) (· == .cq) = some q → exec (.createWq o) s = s.leaves (c.newQueue o
          { kind := if bit (e.w 1) 8 then .rq else .sq, base := e.w64 3, log2 := log2, cq := qidOf o (e.w 2) }).ringFails) ∧
        (c.ownQueue o (e.w 2) (· == .cq) = none → exec (.createWq o) s = s.leaves noSuch)) ∧
      (log2 < 4 ∨ 16 < log2 ∨ ringAligned (e.w64 3) log2 64 = false → exec (.createWq o) s = s.leaves range)) ∧
    (∀ q, (c.queueQuota o ≤ c.queuesUsed o → c.newQueue o q = c.admDone o 4 1 0 0) ∧
      (c.queuesUsed o < c.queueQuota o → ∀ l d, c.assign 2 8190 (fun l => (c.queue (qidOf o l)).isSome) = (some l, d) →
        c.newQueue o q = (d.setQueue (qidOf o l) q).admDone o 0 0 l 0)) ∧
    (e.op = 0x02 →
      (c.ownQueue o (e.w 1) (· == .cq) = none → exec (.destroyCq o) s = s.leaves noSuch) ∧
      (∀ q, c.ownQueue o (e.w 1) (· == .cq) = some q →
        let used := c.queues.any (fun x => (x.2.kind == .sq || x.2.kind == .rq) && x.2.cq == qidOf o (e.w 1))
        (used = true → exec (.destroyCq o) s = s.leaves inUse) ∧
        (used = false → exec (.destroyCq o) s = s.leaves (({ c with queues := Table.erase (qidOf o (e.w 1)) c.queues }).admDone o 0 0 0 0).ringFails))) ∧
    (e.op = 0x04 →
      (c.ownQueue o (e.w 1) (fun k => k == .sq || k == .rq) = none → exec (.destroyWq o) s = s.leaves noSuch) ∧
      (∀ q, c.ownQueue o (e.w 1) (fun k => k == .sq || k == .rq) = some q →
        (q.qp.isSome = true → exec (.destroyWq o) s = s.leaves inUse) ∧
        (q.qp = none → exec (.destroyWq o) s = s.leaves (({ c with queues := Table.erase (qidOf o (e.w 1)) c.queues }).admDone o 0 0 0 0).ringFails))))

/-- Queue pairs (R277, R280, R289). CREATE_QP is refused for the first of: COMBINE or PIN by an instance, ETH or PROT on variant R, PROT without ETH,
queues that are not the owner's, the engine not enabled, a queue taken, the quota or the pins exhausted; else it completes OK with the number
assigned, the queue pair IDLE and its queues taken. CONNECT_QP, RESET_QP and DESTROY_QP of a queue pair that is not the owner's are NO_SUCH, and with
its context not on the die wait for it. CONNECT_QP is RANGE for a window or MTU out of range, STATE unless IDLE and not ending, IN_USE for keys that
are not free to bind; else the queue pair is CONNECTING, its transmit key bound, and CONNECT is sent. RESET_QP and DESTROY_QP of one that is ending
are STATE; else its end begins. Almanac commands of an admin queue (R280): an instance that names another context than its own, or a start bell, is
refused PRIVILEGE; otherwise each acts as the register command does on the owner's context, LOAD after its addresses are written where the context
takes the command, the manager's RUN after its start bell, and completes with the context's state word and failing index: LOAD, RUN and UNLOAD at
once, ADMIT when admission ends, STOP when the almanac is done, and either of these at once where the command is in error. The model's choices: which
free number is assigned is free (log entry 10). -/
def Obligations.AdminQueuePairsAndAlmanacs : Prop :=
  (∀ (s : State) (o : Nat) (e : Wqe), s.chip.admHead o = some e → e.admRsv = false →
    let c := s.chip
    let n := e.w 1
    let f (k : Nat) : Bool := bit (e.w 3) k
    (e.op = 0x05 →
      let sq := c.ownQueue o (e.w 1) (· == .sq)
      let rq := c.ownQueue o (e.w 2) (· == .rq)
      let why : Option (Nat × Nat) :=
        if (f 6 || f 7) = true ∧ o ≠ 512 then some (4, 3) else if (f 0 || f 1) = true ∧ c.variant = .r then some (12, 7)
        else if f 1 = true ∧ f 0 = false then some (12, 6) else if sq = none ∨ rq = none then some (4, 2) else if c.on F.RME_CTRL_ENABLE = false then some (12, 4)
        else if (sq.bind (·.qp)).isSome = true ∨ (rq.bind (·.qp)).isSome = true then some (12, 5)
        else if c.qpQuota o ≤ c.qpsUsed o ∨ (f 7 = true ∧ 1024 ≤ c.pinnedQps) then some (4, 1) else none
      (∀ w, why = some w → exec (.createQp o) s = s.leaves (c.admDone o w.1 w.2 0 0).ringFails) ∧
      (why = none → ∀ m d, c.assign 1 262144 (fun n => (c.qpair n).isSome || c.lastQpns.contains n) = (some m, d) →
        let q : QPair := { owner := o, sq := qidOf o (e.w 1), rq := qidOf o (e.w 2), eth := f 0, prot := f 1, rWrite := f 2, rRead := f 3,
                           rAtomic := f 4, stallIn := f 5, combine := f 6, pin := f 7, winVa := e.w64 4, winLen := e.w64 6 }
        let g := ((d.setQp m q).onQueue (qidOf o (e.w 1)) (fun q => { q with qp := some m })).onQueue (qidOf o (e.w 2)) (fun q => { q with qp := some m })
        exec (.createQp o) s = s.leaves (({ g with lastQpns := (m :: g.lastQpns).take 65536 }).admDone o 0 0 m 0).ringFails)) ∧
    (e.op = 0x06 →
      let n := field (e.w 1) 0 24
      let u := c.useCtx n
      let held (x : CtxOp) : Chip := if u.ctxOps.contains (n, x) then u else { u with ctxOps := u.ctxOps ++ [(n, x)] }
      (c.ownQp o n = none → exec (.connectQp o) s = s.leaves (c.admDone o 4 2 0 0).ringFails) ∧
      (∀ q, c.ownQp o n = some q →
        let p : QPair := { q with conn := e.words }
        let why : Option (Nat × Nat) :=
          if p.window = 0 ∨ 4096 < p.window ∨ (p.prot = true ∧ p.window % 16 ≠ 0) ∨ (p.eth = true ∧ ¬ p.mtu ∈ [1024, 2048, 4096, 8192]) then some (12, 6)
          else if q.st ≠ .idle ∨ q.closing.isSome = true then some (12, 4) else if u.connKeysBad o p = true then some (12, 5) else none
        let posted := match u.queue q.rq with | some s => span s.p s.c | none => 0
        let ms := if field (e.w 12) 16 16 = 0 then u.rd F.ORT_CONN_WAIT_MS else field (e.w 12) 16 16
        let d := u.setQp n { p with
          st := .connecting, retryLimit := u.rd F.ORT_QP_TIMEOUT_RETRY_LIMIT, creditWait := u.rd F.ORT_QP_TIMEOUT_CREDIT_WAIT,
          connEnd := u.beat + ms * 900000, connAt := u.beat + 900000, next := p.initPsn, una := p.initPsn, exp := p.expectPsn, mgrant := posted }
        let g := if p.prot then d.setKey 0 p.txKey { d.keySlot 0 p.txKey with tx := some n } else d
        (c.ctxHeld n = true →
          (∀ w, why = some w → exec (.connectQp o) s = s.leaves (u.admDone o w.1 w.2 0 0).ringFails) ∧
          (why = none → exec (.connectQp o) s = s.leaves (((g.grantOne n).sendConn n Ort.connect).admDone o 0 0 0 0).ringFails)) ∧
        (c.ctxHeld n = false → exec (.connectQp o) s = s.leaves (held (.admin o 0x06))))) ∧
    (e.op = 0x07 ∨ e.op = 0x08 →
      let act (d : Chip) : Prop := (e.op = 0x07 → exec (.resetQp o) s = s.leaves d) ∧ (e.op = 0x08 → exec (.destroyQp o) s = s.leaves d)
      let u := c.useCtx n
      let held (x : CtxOp) : Chip := if u.ctxOps.contains (n, x) then u else { u with ctxOps := u.ctxOps ++ [(n, x)] }
      (c.ownQp o n = none → act (c.admDone o 4 2 0 0).ringFails) ∧
      (∀ q, c.ownQp o n = some q →
        (c.ctxHeld n = true →
          (q.closing.isSome = true → act (u.admDone o 12 4 0 0).ringFails) ∧
          (q.closing = none → act (({ u with admWait := Table.insert o (.close n) (Table.erase o u.admWait) } : Chip).closeStart n (e.op == 0x08)).ringFails)) ∧
        (c.ctxHeld n = false → act (held (.admin o e.op)))))) ∧
  (∀ (s : State) (o : Nat) (e : Wqe), s.chip.admHead o = some e → e.admRsv = false →
    let c := s.chip
    let n := admCtx o e
    let waits (d : Chip) (w : AdmWait) : Chip := { d with admWait := Table.insert o w (Table.erase o d.admWait) }
    let priv := (c.admDone o 4 3 0 0).ringFails
    (o ≠ 512 → e.w 1 ≠ 0 ∨ (e.op = 0x12 ∧ e.w64 2 ≠ 0) →
      (e.op = 0x10 → exec (.almLoad o) s = s.leaves priv) ∧ (e.op = 0x11 → exec (.almAdmit o) s = s.leaves priv) ∧ (e.op = 0x12 → exec (.almRun o) s = s.leaves priv) ∧
      (e.op = 0x13 → exec (.almStop o) s = s.leaves priv) ∧ (e.op = 0x14 → exec (.almUnload o) s = s.leaves priv)) ∧
    (e.op = 0x12 → o ≠ 512 → e.w 1 = 0 → e.w64 2 = 0 → exec (.almRun o) s = s.leaves ((c.almRun n).almAdmDone o n).ringFails) ∧
    (e.op = 0x12 → o = 512 → exec (.almRun o) s = s.leaves (((c.wr F.ALM_START_BELL (e.w64 2) 0 n).almRun n).almAdmDone o n).ringFails) ∧
    (o = 512 ∨ e.w 1 = 0 →
      (e.op = 0x14 → exec (.almUnload o) s = s.leaves ((c.almUnload n).almAdmDone o n).ringFails) ∧
      (e.op = 0x10 →
        (c.almGate n (fun s => s.idle) (decide (n < 2) && c.chaffBusy) = 0 →
          exec (.almLoad o) s = s.leaves (((((((c.wr F.ALM_BASE_VA (e.w64 2) 0 n).wr F.ALM_DESC_VA (e.w64 4) 0 n).wr F.ALM_DESC_COUNT_COUNT (e.w 6) 0 n).wr
            F.ALM_GROUP_VA (e.w64 7) 0 n).almLoad n).almAdmDone o n).ringFails)) ∧
        (c.almGate n (fun s => s.idle) (decide (n < 2) && c.chaffBusy) ≠ 0 → exec (.almLoad o) s = s.leaves ((c.almLoad n).almAdmDone o n).ringFails)) ∧
      (e.op = 0x11 →
        let d := c.almAdmit n
        (d.rd F.ALM_STATE_CMD_ERR 0 n ≠ 0 ∨ (d.ctx n).adm = none → exec (.almAdmit o) s = s.leaves (d.almAdmDone o n).ringFails) ∧
        (d.rd F.ALM_STATE_CMD_ERR 0 n = 0 → (d.ctx n).adm.isSome = true → exec (.almAdmit o) s = s.leaves (waits d (.admission n)).ringFails)) ∧
      (e.op = 0x13 →
        let d := c.almStop n
        (d.rd F.ALM_STATE_CMD_ERR 0 n ≠ 0 → exec (.almStop o) s = s.leaves (d.almAdmDone o n).ringFails) ∧
        (d.rd F.ALM_STATE_CMD_ERR 0 n = 0 → exec (.almStop o) s = s.leaves (waits d (.done n)).ringFails))))

/-- Key slots (R332, R333): KEY_ALLOC and KEY_FREE on variant R are ABSENT; KEY_ALLOC at its quota or with no slot free is QUOTA, and else completes
with a free slot, now EMPTY and the owner's; KEY_FREE of a slot that does not exist, is FREE or is another's is NO_SUCH, of a bound one IN_USE, and
else erases it. The model's choices: which free number is assigned is free (log entry 10). -/
def Obligations.KeySlotsAreAllocated : Prop :=
  ∀ (s : State) (o : Nat) (e : Wqe), s.chip.admHead o = some e → e.admRsv = false →
    let c := s.chip
    let k := field (e.w 1) 12 1
    let z := field (e.w 1) 0 12
    let quota (d : Chip) := (d.admDone o 4 1 0 0).ringFails
    (c.variant = .r → (e.op = 0x20 → exec (.keyAlloc o) s = s.leaves (c.admDone o 12 7 0 0).ringFails) ∧
      (e.op = 0x21 → exec (.keyFree o) s = s.leaves (c.admDone o 12 7 0 0).ringFails)) ∧
    (c.variant ≠ .r → e.op = 0x20 →
      (c.keyQuota (e.w 1) o ≤ c.keysHeld (e.w 1) (sourceOf o) → exec (.keyAlloc o) s = s.leaves (quota c)) ∧
      (c.keysHeld (e.w 1) (sourceOf o) < c.keyQuota (e.w 1) o → ∀ i d, c.assign 0 (keySlots (e.w 1)) (fun s => (c.keySlot (e.w 1) s).st != .free) = (i, d) →
        (∀ j, i = some j → exec (.keyAlloc o) s = s.leaves ((d.setKey (e.w 1) j { st := .empty, owner := sourceOf o }).admDone o 0 0 j 0).ringFails) ∧
        (i = none → exec (.keyAlloc o) s = s.leaves (quota d)))) ∧
    (c.variant ≠ .r → e.op = 0x21 →
      (keySlots k ≤ z ∨ (c.keySlot k z).st = .free ∨ (c.keySlot k z).owner ≠ sourceOf o → exec (.keyFree o) s = s.leaves (c.admDone o 4 2 0 0).ringFails) ∧
      (z < keySlots k → (c.keySlot k z).st ≠ .free → (c.keySlot k z).owner = sourceOf o →
        (c.keyBound k z = true → exec (.keyFree o) s = s.leaves (c.admDone o 12 5 0 0).ringFails) ∧
        (c.keyBound k z = false → exec (.keyFree o) s = s.leaves ((c.setKey k z {}).admDone o 0 0 0 0).ringFails)))

/-- Received packets (R275, R278, R288, R290, R292, R295–R303): the command of a packet's opcode performs the oldest packet of a receive buffer that
can go at its queue pair and takes it, with the engine on; with none, with one that cannot be read, and with one of another opcode nothing happens. A
packet of no queue pair is dropped and draws RESET_NOTICE, but CONNECT and ACCEPT are looked at; one whose queue pair's context is not on the die
waits for it. Else: a malformed packet is dropped, and fatal at a CONNECTED queue pair; one that asks something of a queue pair that drains or whose
owner resets does nothing; CONNECT and ACCEPT set up; at an IDLE or failed queue pair a packet is dropped and draws RESET_NOTICE; RESET_NOTICE is an
error of the queue pair; while CONNECTING any other is dropped. At a CONNECTED queue pair its ACK and limits are taken first, then a response, a NAK
and a request each go their way, and a request that cannot be placed yet stays in its buffer. The model's choices: an impossible event does nothing
(log entry 2). -/
def Obligations.PacketsArePerformed : Prop :=
  ∀ (s : State) (rx : RxAt),
    let c := s.chip
    let held (n : Nat) (x : CtxOp) : Chip := if (c.useCtx n).ctxOps.contains (n, x) then c.useCtx n else { c.useCtx n with ctxOps := (c.useCtx n).ctxOps ++ [(n, x)] }
    let d (p : OrtPkt) := ((c.useCtx p.dest).takeAck p.dest p.ack).takeLimits p.dest p.mlim p.blim
    let fin (src : PktFrom) (e : Chip) := s.leaves (((e.ortCount src.isEth F.ORT_RX_PKTS_COUNT).rxTake c.unheld rx).ringFails)
    let rows : List (Nat × Instr) := [(Ort.send, .ortSend rx), (Ort.write, .ortWrite rx), (Ort.readReq, .readReq rx), (Ort.readResp, .readResp rx),
      (Ort.fetchAdd, .ortFetchAdd rx), (Ort.cmpSwap, .ortCompareSwap rx), (Ort.atomicResp, .atomicResp rx), (Ort.ack, .ortAck rx), (Ort.nak, .ortNak rx),
      (Ort.credit, .ortCredit rx), (Ort.connect, .connect rx), (Ort.accept, .accept rx), (Ort.resetNotice, .resetNotice rx), (Ort.combine, .ortCombine rx)]
    let answers := [Ort.readResp, Ort.atomicResp, Ort.ack, Ort.nak, Ort.credit]
    (∀ r, r ∈ rows → c.rmeOn = false ∨ c.rxHead c.unheld rx = none ∨ (c.rxHead c.unheld rx).any (fun x => x.2.isNone) = true → exec r.2 s = s.leaves c) ∧
    (∀ r src p, r ∈ rows → c.rxHead c.unheld rx = some (src, some p) → p.op ≠ r.1 → exec r.2 s = s.leaves c) ∧
    (∀ r src p, r ∈ rows → c.rmeOn = true → c.rxHead c.unheld rx = some (src, some p) → p.op = r.1 → c.qpair p.dest = none →
      (p.malformed none = true → exec r.2 s = fin src (c.ortDrop src)) ∧
      (p.malformed none = false → r.1 = Ort.connect ∨ r.1 = Ort.accept → exec r.2 s = fin src (c.recvConn src p)) ∧
      (p.malformed none = false → r.1 ≠ Ort.connect → r.1 ≠ Ort.accept → exec r.2 s = fin src ((c.ortDrop src).noticeBack src p))) ∧
    (∀ r src p, r ∈ rows → c.rmeOn = true → c.rxHead c.unheld rx = some (src, some p) → p.op = r.1 → (c.qpair p.dest).isSome = true → c.ctxHeld p.dest = false →
      exec r.2 s = s.leaves (held p.dest (.recv rx))) ∧
    (∀ r src p q, r ∈ rows → c.rmeOn = true → c.rxHead c.unheld rx = some (src, some p) → p.op = r.1 → c.qpair p.dest = some q → c.ctxHeld p.dest = true →
      let n := p.dest
      let u := c.useCtx n
      let closed : Prop := c.resetting q.owner = true ∨ q.draining = true
      (closed → r.1 ∉ answers → exec r.2 s = fin src u) ∧
      (¬ closed ∨ r.1 ∈ answers →
        (p.malformed (some q) = true → q.st = .connected → exec r.2 s = fin src ((u.ortDrop src).fatalNak n Nak.format q.ackPsn)) ∧
        (p.malformed (some q) = true → q.st ≠ .connected → exec r.2 s = fin src (u.ortDrop src)) ∧
        (p.malformed (some q) = false →
          (r.1 = Ort.connect ∨ r.1 = Ort.accept → exec r.2 s = fin src (u.recvConn src p)) ∧
          (r.1 ≠ Ort.connect → r.1 ≠ Ort.accept → q.st = .idle ∨ q.st = .error →
            (closed → exec r.2 s = fin src u) ∧ (¬ closed → exec r.2 s = fin src ((u.ortDrop src).noticeBack src p))) ∧
          (r.1 = Ort.resetNotice → q.st = .connecting ∨ q.st = .connected → exec r.2 s = fin src (u.qpErrorAs n QpCause.peerReset none)) ∧
          (r.1 ≠ Ort.connect → r.1 ≠ Ort.accept → r.1 ≠ Ort.resetNotice → q.st = .connecting → exec r.2 s = fin src (u.ortDrop src)) ∧
          (q.st = .connected →
            (r.1 = Ort.ack ∨ r.1 = Ort.credit → exec r.2 s = fin src ((d p).qpStep n)) ∧
            (r.1 = Ort.nak → exec r.2 s = fin src (((d p).recvNak n p).qpStep n)) ∧
            (r.1 = Ort.readResp ∨ r.1 = Ort.atomicResp → exec r.2 s = fin src (((d p).recvResp n p).qpStep n)) ∧
            (r.1 = Ort.send ∨ r.1 = Ort.write ∨ r.1 = Ort.readReq ∨ r.1 = Ort.fetchAdd ∨ r.1 = Ort.cmpSwap ∨ r.1 = Ort.combine →
              (((d p).recvRequest n p).1 = true → exec r.2 s = fin src (((d p).recvRequest n p).2.qpStep n)) ∧
              (((d p).recvRequest n p).1 = false → exec r.2 s = s.leaves (((d p).recvRequest n p).2.qpStep n).ringFails))))))

/-- Requests at a CONNECTED queue pair (R283–R285, R287, R295, R296): a packet later than expected is not performed and draws one NAK SEQ; one
accepted before is not performed again: a READ is answered afresh, an atomic from its record, any other acknowledged; while one waits for a
translation NAK WAIT answers. Unprotected and as expected: a WRITE in its window and with the right whose pages translate is placed at its address,
and without the right or outside the window it draws a NAK and no byte moves; a SEND that fits the oldest RECV is placed there, its last packet ending
the RECV, and with no RECV it is discarded; a READ in its window and with the right is read and answered; an atomic leaves its value and answers what
was there. R284: FETCH_ADD leaves the sum modulo 2^64 and COMPARE_SWAP the swap value where the operand compares equal, else what was there. -/
def Obligations.RequestsAreDoneOnce : Prop :=
  (∀ (c : Chip) (n : Nat) (p : OrtPkt) (q : QPair), c.qpair n = some q →
    let d := subMod 32 p.psn q.exp
    let old := q.exp - subMod 32 q.exp p.psn
    (0 < d → d < 2 ^ 31 → c.recvRequest n p = (true, c.gapNak n)) ∧
    (2 ^ 31 ≤ d → p.op ≠ Ort.readReq → p.isAtomic = false → c.recvRequest n p = (true, c.sendAck n)) ∧
    (2 ^ 31 ≤ d → p.op = Ort.readReq → c.recvRequest n p = c.serveRead n q p old false) ∧
    (∀ a, 2 ^ 31 ≤ d → p.isAtomic = true → q.atoms.find? (fun a => a.1 == old) = some a → c.recvRequest n p = (true, c.sendAtomicResp n q old a.2)) ∧
    (d = 0 → q.inStall.isSome = true → c.recvRequest n p = (true, c.sendNak n Nak.wait q.ackPsn)) ∧
    (d = 0 → q.inStall = none → q.prot = false → p.prot = false →
      let len := p.data.length
      (p.op = Ort.write → p.msgFirst = true →
        let r := c.range q.owner p.va p.vlen .write 4 q.stallIn (.inbound n)
        (q.rWrite = false ∨ q.inWindow p.va p.vlen = false → c.recvRequest n p = (true, c.nakError n Nak.remoteAccess q.ackPsn QpCause.peerNak none)) ∧
        (q.rWrite = true → q.inWindow p.va p.vlen = true → r.1 = .ok → q.msgOff = 0 →
          c.recvRequest n p = ((r.2.vaWrite q.owner p.va (clean p.data)).onQp n (fun q =>
            { q with msgVa := p.va, msgOff := if p.msgLast then 0 else q.msgOff + len })).afterPlace n p (byteUnits len) 1 .yes)) ∧
      (∀ z, p.op = Ort.send → c.queue q.rq = some z →
        (z.ents = [] → z.f = z.p → c.cqStalled z.cq = false → c.recvRequest n p = (true, c)) ∧
        (∀ e, z.ents.head? = some e → e.badRq = false → len ≤ e.len - q.msgOff →
          let r := c.localRange q.owner (e.va + q.msgOff) len (e.va, e.len) .write 4 q.stallIn (.inbound n)
          let k := (r.2.vaWrite q.owner (e.va + q.msgOff) (clean p.data)).onQp n (fun q => { q with msgOff := if p.msgLast then 0 else q.msgOff + len })
          r.1 = .ok → c.recvRequest n p =
            (if p.msgLast then k.endRecv n q e St.ok (q.msgOff + len) else k).afterPlace n p (byteUnits len) 1 .yes)) ∧
      (p.op = Ort.readReq → p.aux = respPkts q.mtu p.vlen → p.aux ≤ 256 → q.rRead = true → q.inWindow p.va p.vlen = true →
        let r := c.range q.owner p.va p.vlen .read 4 q.stallIn (.inbound n)
        let v := r.2.vaRead q.owner p.va p.vlen
        r.1 = .ok → v.1.any (·.2) = false → c.recvRequest n p =
          (true, ((v.2.onQp n (fun q => { q with exp := q.exp + p.aux, inStall := none })).accepted n 1 p.ackreq).sendResps n q q.exp p.vlen (v.1.map (·.1)))) ∧
      (p.op = Ort.fetchAdd → p.va % 8 = 0 → p.vlen = 8 → q.rAtomic = true → q.inWindow p.va 8 = true →
        let r := c.range q.owner p.va 8 .atomic 4 q.stallIn (.inbound n)
        let v := r.2.vaRead q.owner p.va 8
        let was := ofLE (v.1.map (·.1))
        r.1 = .ok → v.1.any (·.2) = false → ∀ t a b, v.2.look q.owner p.va .atomic = .ok t a b → c.recvRequest n p =
          (true, (((v.2.tierWrite t q.owner a (clean (toLE 8 ((was + p.op1) % 2 ^ 64)))).onQp n (fun w =>
            { w with exp := w.exp + 1, inStall := none, atoms := ((q.exp, was) :: w.atoms).take w.depth })).accepted n 1 p.ackreq).sendAtomicResp n q q.exp was)))) ∧
  (∀ (old op1 op2 : Nat), old < 2 ^ 64 →
    atomicNew Ort.fetchAdd old op1 op2 = (old + op1) % 2 ^ 64 ∧ atomicNew Ort.cmpSwap old old op2 = op2 ∧
    (op1 ≠ old → atomicNew Ort.cmpSwap old op1 op2 = old))

/-- Timers of queue pairs (R288, R290, R298–R301, R416): in the safe state none acts, nor one that is not due: a retransmission timer, a credit wait
or a delayed ACK that does not run, a set-up timer of a queue pair that is not CONNECTING, any other of one that is not CONNECTED. A due one whose
context is not on the die waits for it. On a CONNECTED queue pair RTO doubles and the entry is tried again; the entry that waited for credit, or with
none the queue pair, fails; a delayed ACK and a CREDIT go out. On a CONNECTING one CONNECT is sent again, and at the end of its wait it is in error.
The model's choices: timed commands move BEAT (log entry 9); an impossible event does nothing (2). -/
def Obligations.QueuePairTimers : Prop :=
  ∀ (s : State) (n : Nat),
    let c := s.chip
    let u := c.useCtx n
    let held (x : CtxOp) : Chip := if u.ctxOps.contains (n, x) then u else { u with ctxOps := u.ctxOps ++ [(n, x)] }
    (c.mst = .safe ∨ c.qpair n = none → exec (.retransmitTimeout n) s = s.leaves c ∧ exec (.creditWaitTimeout n) s = s.leaves c ∧
      exec (.connectResendTimer n) s = s.leaves c ∧ exec (.connectWaitTimeout n) s = s.leaves c ∧ exec (.ackDelayTimer n) s = s.leaves c ∧
      exec (.creditUpdateTimer n) s = s.leaves c) ∧
    (∀ q, c.qpair n = some q →
      (q.st ≠ .connected ∨ q.rtxAt = none → exec (.retransmitTimeout n) s = s.leaves c) ∧
      (q.st ≠ .connected ∨ (q.waitM = none ∧ q.waitB = none) → exec (.creditWaitTimeout n) s = s.leaves c) ∧
      (q.st ≠ .connected ∨ q.ackAt = none → exec (.ackDelayTimer n) s = s.leaves c) ∧
      (q.st ≠ .connected → exec (.creditUpdateTimer n) s = s.leaves c) ∧
      (q.st ≠ .connecting → exec (.connectResendTimer n) s = s.leaves c ∧ exec (.connectWaitTimeout n) s = s.leaves c) ∧
      (q.connEnd < q.connAt → exec (.connectResendTimer n) s = s.leaves c)) ∧
    (∀ q, c.mst ≠ .safe → c.qpair n = some q → c.ctxHeld n = false →
      (q.st = .connected → q.rtxAt.isSome = true → exec (.retransmitTimeout n) s = s.leaves (held .retransmit)) ∧
      (q.st = .connected → q.waitM.isSome = true ∨ q.waitB.isSome = true → exec (.creditWaitTimeout n) s = s.leaves (held .creditWait)) ∧
      (q.st = .connected → q.ackAt.isSome = true → exec (.ackDelayTimer n) s = s.leaves (held .ackDelay)) ∧
      (q.st = .connected → exec (.creditUpdateTimer n) s = s.leaves (held .creditUpdate)) ∧
      (q.st = .connecting → exec (.connectWaitTimeout n) s = s.leaves (held .connectWait)) ∧
      (q.st = .connecting → q.connAt ≤ q.connEnd → exec (.connectResendTimer n) s = s.leaves (held .connectResend))) ∧
    (∀ q, c.mst ≠ .safe → c.qpair n = some q → c.ctxHeld n = true → q.st = .connected →
      let next := (u.queue q.sq).bind (fun z => z.ents.find? (fun e => e.started && !e.allSent))
      let fails (t st : Nat) : Prop :=
        (∀ e, next = some e → exec (.creditWaitTimeout n) s = s.leaves ((u.advanceTo (t + q.creditWait * 900000)).qpError n QpCause.credit (some (e.idx, st))).ringFails) ∧
        (next = none → exec (.creditWaitTimeout n) s = s.leaves ((u.advanceTo (t + q.creditWait * 900000)).qpErrorAs n QpCause.credit none).ringFails)
      (∀ t, q.rtxAt = some t → exec (.retransmitTimeout n) s = s.leaves
        (((((u.advanceTo t).ortCount q.eth F.ORT_TIMEOUTS_COUNT).setQp n { q with rto := rtoBound (2 * q.rto) }).retry n).ringFails)) ∧
      (∀ t, q.waitM = some t → fails t 11) ∧
      (∀ t, q.waitM = none → q.waitB = some t → fails t 6) ∧
      (∀ t, q.ackAt = some t → exec (.ackDelayTimer n) s = s.leaves ((u.advanceTo t).sendAck n)) ∧
      exec (.creditUpdateTimer n) s = s.leaves
        ((u.advanceTo (q.toldAt + (if q.told = (q.mgrant, q.bgrant) then 900000 else 3600))).sendPkt n { op := Ort.credit, dest := 0 })) ∧
    (∀ q, c.mst ≠ .safe → c.qpair n = some q → c.ctxHeld n = true → q.st = .connecting →
      (q.connAt ≤ q.connEnd → exec (.connectResendTimer n) s = s.leaves
        (((u.advanceTo q.connAt).setQp n { q with connAt := q.connAt + 900000 }).sendConn n Ort.connect)) ∧
      exec (.connectWaitTimeout n) s = s.leaves
        (((u.advanceTo q.connEnd).qpEvent n opConnectEvent St.retryExceeded QpCause.connectTimeout).qpErrorAs n QpCause.connectTimeout none).ringFails)

/-- Reception (R309, R310, R312, R313, R317, R329): with the link down nothing arrives; a frame that cannot be reassembled is counted and discarded,
one that was is counted; one that fails its check, is longer than 9,216 bytes or shorter than 64 is counted and discarded. Otherwise a PFC or other
MAC control frame to the control address is acted on or counted, and to another is counted as other; in the safe state a frame that is neither of them
nor synchronization goes without trace; any other that the port accepts is buffered, and one it does not accept is counted as other. A buffered frame
takes the shared room where it fits, else with PFC its priority's headroom, counted and stamped with its arrival; without room it is counted and
discarded. The oldest frame of a priority leaves once its client has taken it, and one it has not taken stays; a packet that cannot be read is
counted, discarded and taken. Priority flow control (R313–R315). With the link down a PFC frame does nothing; else it is counted, and each priority it
names with PFC is paused for its quanta of 512 bit times, or released by 0, a pause in progress keeping its beginning. A pause ends when it expires;
one without a break for STORM × 10 ms is an event once; XOFF goes again every 32,768 quanta while it holds; without a pause, or without XOFF, nothing
happens. The model's choices: timed commands move BEAT (log entry 9); an impossible event does nothing (2). -/
def Obligations.EthernetFramesAndPriorities : Prop :=
  (∀ (s : State) (p q prio phase : Nat) (b : List Byte) (parts : Option Bool), s.chip.hasPort p q = true →
    let c := s.chip
    let f := EFrame.parse b
    let d := if parts = some true then c.ecount F.ETH_RX_ASSY_OK_COUNT p q else c
    let got (x : Chip) : Prop := exec (.ethFrameReceive p q b phase parts) s = s.leaves x
    let counted (x : Chip) := (x.ecount F.ETH_RX_FRAMES_COUNT p q).ecount F.ETH_RX_OCTETS_COUNT p q f.len
    let sync : Bool := match f.body with | .as _ => true | _ => false
    let pfc : Option (List (Nat × Nat)) := match f.body with | .pfc l => some l | _ => none
    let mac : Bool := match f.body with | .mac => true | _ => false
    (c.ethUp p q = false → got c) ∧
    (c.ethUp p q = true →
      (parts = some false → got (c.ecount F.ETH_RX_ASSY_ERR_COUNT p q)) ∧
      (parts ≠ some false →
        (fcsFails b = true → got (d.ecount F.ETH_RX_FCS_ERR_COUNT p q)) ∧
        (fcsFails b = false →
          (9216 < b.length → got (d.ecount F.ETH_RX_OVERSIZE_COUNT p q)) ∧
          (b.length < 64 → got (d.ecount F.ETH_RX_RUNT_COUNT p q)) ∧
          (64 ≤ b.length → b.length ≤ 9216 →
            (∀ l, pfc = some l → f.dmac = macDest → got (d.pfcReceive p q l f.len)) ∧
            (mac = true → f.dmac = macDest → got (counted d)) ∧
            (pfc.isSome = true ∨ mac = true → f.dmac ≠ macDest → got (d.ecount F.ETH_RX_OTHER_COUNT p q)) ∧
            (pfc = none → mac = false →
              (c.mst = .safe → sync = false → got d) ∧
              (c.mst ≠ .safe ∨ sync = true →
                (d.ethAccepts p f = true → got (d.ethBuffer p q f phase)) ∧
                (d.ethAccepts p f = false → got (d.ecount F.ETH_RX_OTHER_COUNT p q)))))))) ∧
    (let prio := c.rxPrio p q f
     let head : Prop := c.pfcOn p q prio = true ∧ f.len ≤ c.headFree p q prio
     (c.sharedFree p < f.len → ¬ head → c.ethBuffer p q f phase = c.ecount F.ETH_RX_DROP_BUF_COUNT p q) ∧
     (f.len ≤ c.sharedFree p ∨ head → c.ethBuffer p q f phase = ((counted c).onPort (portKey p q) (fun e =>
       { e with rx := e.rx ++ [⟨prio, f, sync, !decide (f.len ≤ c.sharedFree p), f.stampAt (c.beat * 64 + phase)⟩] })).holdShares p)) ∧
    (let at_ : RxAt := .eth p q prio
     let first (x : Chip) := (x.eport (portKey p q)).rx.find? (fun r => r.prio == prio)
     (c.rxHead c.unheld at_ = none → c.discardHead at_ = c) ∧
     (∀ x, c.rxHead c.unheld at_ = some x → c.rmeOn = true → x.2 = none →
       c.discardHead at_ = ((c.ortCount x.1.isEth F.ORT_RX_PKTS_COUNT).ortDrop x.1).rxTake c.unheld at_) ∧
     (let d := c.discardHead at_
      (first d = none → exec (.ethRxBufferRelease p q prio) s = s.leaves d) ∧
      (∀ r, first d = some r → r.taken = true →
        exec (.ethRxBufferRelease p q prio) s = s.leaves ((d.onPort (portKey p q) (fun e => { e with rx := e.rx.erase r })).releaseShare p q prio)) ∧
      (∀ r, first d = some r → r.taken = false → d.discardHead at_ = d → exec (.ethRxBufferRelease p q prio) s = s.leaves d)))) ∧
  (∀ (s : State) (p q prio : Nat) (quanta : List (Nat × Nat)), s.chip.hasPort p q = true →
    let c := s.chip
    let k := portKey p q
    let e := c.eport k
    let d := ((c.ecount F.ETH_RX_PFC_COUNT p q).ecount F.ETH_RX_FRAMES_COUNT p q).ecount F.ETH_RX_OCTETS_COUNT p q 64
    let pause (c : Chip) (x : Nat × Nat) : Chip :=
      let l := (c.eport k).pauses
      let since := match l.find? (fun y => y.1 == x.1) with | some y => if c.beat * 1000 ≤ y.2.1 then y.2.2 else c.beat | none => c.beat
      let rest := l.filter (fun y => y.1 ≠ x.1)
      if 8 ≤ x.1 ∨ c.pfcOn p q x.1 = false then c
      else (c.ewr F.ETH_PFC_STATUS_RX_PAUSED (setBit (c.erd F.ETH_PFC_STATUS_RX_PAUSED p q) x.1 (x.2 != 0)) p q).setPort k
        { c.eport k with pauses := if x.2 = 0 then rest else (x.1, c.beat * 1000 + x.2 * (if c.breakout p then 1152 else 576), since) :: rest }
    (c.ethUp p q = false → exec (.pfcFrameReceive p q quanta) s = s.leaves c) ∧
    (c.ethUp p q = true → exec (.pfcFrameReceive p q quanta) s = s.leaves (quanta.foldl pause d)) ∧
    (∀ y, e.pauses.find? (fun y => y.1 == prio) = some y →
      exec (.pauseExpiry p q prio) s = s.leaves (((c.advanceTo (ceilDiv y.2.1 1000)).ewr F.ETH_PFC_STATUS_RX_PAUSED
        (setBit (c.erd F.ETH_PFC_STATUS_RX_PAUSED p q) prio false) p q).setPort k { e with pauses := e.pauses.filter (fun y => y.1 ≠ prio) }) ∧
      (let w := y.2.2 + c.erd F.ETH_PFC_CFG_STORM p q * 9000000
       (w * 1000 ≤ y.2.1 → bit (c.erd F.ETH_PFC_STATUS_STORM p q) prio = false →
        exec (.stormDetect p q prio) s = s.leaves (((c.advanceTo w).ewr F.ETH_PFC_STATUS_STORM (setBit (c.erd F.ETH_PFC_STATUS_STORM p q) prio true) p q).event (Flt.eth p))) ∧
       (y.2.1 < w * 1000 ∨ bit (c.erd F.ETH_PFC_STATUS_STORM p q) prio = true → exec (.stormDetect p q prio) s = s.leaves c))) ∧
    (e.pauses.find? (fun y => y.1 == prio) = none → exec (.pauseExpiry p q prio) s = s.leaves c ∧ exec (.stormDetect p q prio) s = s.leaves c) ∧
    (∀ y, c.xoffed p q prio = true → e.xoffs.find? (fun y => y.1 == prio) = some y →
      exec (.xoffRepeatTimer p q prio) s = s.leaves ((c.advanceTo (y.2 + (if c.breakout p then 37749 else 18875))).xoff p q prio)) ∧
    (c.xoffed p q prio = false → exec (.xoffRepeatTimer p q prio) s = s.leaves c))

/-- Link and verification (R308, R311, R316). A port that is not present, or whose rails are down, does nothing. An enabled port's link comes up, with
the verify exchange where preemption is on; one already up or not enabled does nothing. Going down a link loses the frames it had to send, its pauses
and its verification, keeps those it received, and in breakout gives what waited to the other sub-port where its link is up. Without a matching speed
an enabled port with auto-negotiation tries again 1 s later. A restart begins the verify exchange of a link that is up with preemption on; an attempt
succeeds, is repeated after 10 ms, or fails for good at the third, and without an exchange nothing happens. Time maps and PPS (R317–R319): a commit
takes beat, time and rate as one map in the next beat and makes it valid, and without another for 1 s validity ends with an event, once. With PPS out
enabled it rises for 10 ms at the next whole second of stead time, or of port time by that port's map. A rising edge on the lowest pin that selects
PPS in, neither held nor with the module off, captures BEAT; on any other pin it does nothing. The model's choices: timed commands move BEAT (log
entry 9); an impossible event does nothing (2). -/
def Obligations.EthernetLinksAndTime : Prop :=
  (∀ (s : State) (src p q prio phase : Nat) (b : List Byte) (parts : Option Bool) (quanta : List (Nat × Nat)) (ok : Bool),
    let c := s.chip
    let e := c.eport (portKey p q)
    (c.hasPort p q = false →
      exec (.ethFrameReceive p q b phase parts) s = s.leaves c ∧ exec (.ethRxBufferRelease p q prio) s = s.leaves c ∧ exec (.xoffRepeatTimer p q prio) s = s.leaves c ∧
      exec (.pfcFrameReceive p q quanta) s = s.leaves c ∧ exec (.pauseExpiry p q prio) s = s.leaves c ∧ exec (.stormDetect p q prio) s = s.leaves c ∧
      exec (.ethTransmitSelect p q) s = s.leaves c ∧ exec (.ethLinkUp p q) s = s.leaves c ∧ exec (.ethLinkDown p q) s = s.leaves c ∧
      exec (.ethAnRetry p q) s = s.leaves c ∧ exec (.verifyAttemptEnd p q ok) s = s.leaves c ∧ exec (.gateAdmissionComplete p q) s = s.leaves c ∧
      exec (.gateListSwap p q) s = s.leaves c ∧ exec (.gateEntryAdvance p q) s = s.leaves c) ∧
    (c.hasPort p q = true →
      (c.ethUp p q = false → c.erd F.ETH_CTRL_ENABLE p q ≠ 0 →
        (c.erd F.ETH_PREEMPT_EN p q ≠ 1 → exec (.ethLinkUp p q) s = s.leaves (c.ewr F.ETH_STATUS_LINK 1 p q)) ∧
        (c.erd F.ETH_PREEMPT_EN p q = 1 → exec (.ethLinkUp p q) s = s.leaves ((c.ewr F.ETH_STATUS_LINK 1 p q).verifyStart p q)) ∧
        (c.erd F.ETH_CTRL_AN_EN p q ≠ 0 → exec (.ethAnRetry p q) s = s.leaves
          ((c.advanceTo (e.retryAt + 900000000)).onPort (portKey p q) (fun x => { x with retryAt := max c.beat (e.retryAt + 900000000) })))) ∧
      (c.ethUp p q = true ∨ c.erd F.ETH_CTRL_ENABLE p q = 0 → exec (.ethLinkUp p q) s = s.leaves c ∧ exec (.ethAnRetry p q) s = s.leaves c) ∧
      (c.erd F.ETH_CTRL_AN_EN p q = 0 → exec (.ethAnRetry p q) s = s.leaves c) ∧
      (c.ethUp p q = false → exec (.ethLinkDown p q) s = s.leaves c) ∧
      (c.ethUp p q = true →
        ∃ d : Chip, exec (.ethLinkDown p q) s = s.leaves d ∧ d.ethUp p q = false ∧ d.erd F.ETH_STATUS_VERIFY p q = 0 ∧ (d.eport (portKey p q)).txq = [] ∧
          (d.eport (portKey p q)).cur = none ∧ (d.eport (portKey p q)).pauses = [] ∧ (d.eport (portKey p q)).rx = e.rx ∧
          (c.breakout p = true → c.ethUp p (1 - q) = true →
            (d.eport (portKey p (1 - q))).txq = (c.eport (portKey p (1 - q))).txq ++ e.txq)) ∧
      (c.erd F.ETH_STATUS_VERIFY p q = 1 →
        exec (.verifyAttemptEnd p q true) s = s.leaves ((c.ewr F.ETH_STATUS_VERIFY 2 p q).setPreempt p q true) ∧
        (3 ≤ e.attempts → exec (.verifyAttemptEnd p q false) s = s.leaves (c.ewr F.ETH_STATUS_VERIFY 3 p q)) ∧
        (e.attempts < 3 → exec (.verifyAttemptEnd p q false) s = s.leaves ((c.advanceTo (e.attemptAt + 9000000)).onPort (portKey p q) (fun x =>
          { x with attempts := x.attempts + 1, attemptAt := max c.beat (e.attemptAt + 9000000) })))) ∧
      (c.erd F.ETH_STATUS_VERIFY p q ≠ 1 → exec (.verifyAttemptEnd p q ok) s = s.leaves c) ∧
      (c.reaches src F.ETH_PREEMPT_VERIFY_RESTART p q = true →
        (c.ethUp p q = true → c.erd F.ETH_PREEMPT_EN p q ≠ 0 → exec (.verifyRestart src p q) s = s.leaves (c.verifyStart p q)) ∧
        (c.ethUp p q = false ∨ c.erd F.ETH_PREEMPT_EN p q = 0 → exec (.verifyRestart src p q) s = s.leaves c)))) ∧
  (∀ (s : State) (src p pin : Nat),
    let c := s.chip
    (c.reaches src F.ETH_TMAP_CTRL_COMMIT p 0 = true → c.ethPresent p = true →
      exec (.tmapCommit src p) s = s.leaves (((c.advanceTo (c.beat + 1)).wr F.ETH_TMAP_CTRL_VALID 1 p).onPort (portKey p 0) (fun e => { e with
        map := (c.rd F.ETH_TMAP_BEAT_BEAT p, c.rd F.ETH_TMAP_TIME_TIME p, c.rd F.ETH_TMAP_RATE_RATE p), mapAt := c.beat + 1 }))) ∧
    (c.hasPort p 0 = true →
      (c.rd F.ETH_TMAP_CTRL_VALID p = 0 → exec (.tmapValidTimeout p) s = s.leaves c) ∧
      (c.rd F.ETH_TMAP_CTRL_VALID p ≠ 0 → exec (.tmapValidTimeout p) s = s.leaves
        (((c.advanceTo ((c.eport (portKey p 0)).mapAt + 900000000)).wr F.ETH_TMAP_CTRL_VALID 0 p).event (Flt.eth p)))) ∧
    (c.hasPort p 0 = false → exec (.tmapValidTimeout p) s = s.leaves c) ∧
    (c.ethPresent 0 = false ∨ c.rd F.ETH_PPS_CTRL_OUT_EN = 0 → exec .ppsOutSecond s = s.leaves c) ∧
    (c.ethPresent 0 = true → c.rd F.ETH_PPS_CTRL_OUT_EN = 1 →
      (c.rd F.ETH_PPS_CTRL_TIMEBASE = 1 →
        exec .ppsOutSecond s = s.leaves { c with
          beat := (c.beat / 900000000 + 1) * 900000000, ppsUntil := some ((c.beat / 900000000 + 1) * 900000000 + 9000000) }) ∧
      (c.rd F.ETH_PPS_CTRL_TIMEBASE = 0 →
        let m := (c.eport (portKey (c.rd F.ETH_PPS_CTRL_PORT) 0)).map
        let t := (beatToAs m c.beat / 1000000000 + 1) * 1000000000
        let b := (asToBeat m t.toNat).toNat
        c.beat < b → exec .ppsOutSecond s = s.leaves { c with beat := b, ppsUntil := some (b + 9000000) })) ∧
    (let first := (List.range 16).find? (fun q => c.pinsSet && c.gpFunc q == 1)
     (c.mst ≠ .off → c.ethPresent 0 = true → first = some pin → c.pinHeld pin = false →
       exec (.ppsInEdge pin) s = s.leaves ((c.wr F.ETH_PPS_IN_BEAT c.beat).wr F.ETH_PPS_CTRL_IN_NEW 1)) ∧
     (c.mst = .off ∨ c.ethPresent 0 = false ∨ first ≠ some pin ∨ c.pinHeld pin = true → exec (.ppsInEdge pin) s = s.leaves c)))

/-- Gates (R321, R323, R324): CHANGE begins the admission of the list as its registers stand and cancels a pending change; a list that fails is
refused with its reason and index, one that passes is pending, its change no sooner than 4,096 beats on; at its change time it replaces the running
one, its entries readable; entries follow each other by their intervals; with none admitted, pending or running nothing happens. Transmission and
shapers (R322, R326–R328). With the link down, or with nothing that may start, nothing starts. The frame in transmission ends first, counted; then a
MAC control frame that waits starts before any other, else the eligible frame of the highest priority; a frame that starts leaves its queue, its bytes
go out and an instance's shaper pays for them. A preemptable frame in transmission that can be cut gives way to a MAC control frame. A shaper's
pending rate and depth are refused above 800,000 Mb/s or below 9,216 bytes and else take effect, its level bounded by the new depth. The model's
choices: timed commands move BEAT (log entry 9); an impossible event does nothing (2); what is sent stands in a list (7). -/
def Obligations.GatesAndTransmission : Prop :=
  (∀ (s : State) (src p q : Nat), s.chip.hasPort p q = true →
    let c := s.chip
    let e := c.eport (portKey p q)
    (c.reaches src F.ETH_GATE_CTRL_CHANGE p q = true →
      ∃ d : Chip, exec (.gateChange src p q) s = s.leaves d ∧ (d.eport (portKey p q)).pendingList = none ∧ d.erd F.ETH_GATE_STATUS_BUSY p q = 1 ∧
        (d.eport (portKey p q)).admitting = some (c.gateBad p q (c.erd F.ETH_GATE_LEN_LEN p q) (c.adminList p q), c.adminList p q) ∧
        (d.eport (portKey p q)).oper = e.oper) ∧
    (e.admitting = none → exec (.gateAdmissionComplete p q) s = s.leaves c) ∧
    (∀ r j g, e.admitting = some (some (r, j), g) →
      ∃ d : Chip, exec (.gateAdmissionComplete p q) s = s.leaves d ∧ d.erd F.ETH_GATE_STATUS_RESULT p q = 1 ∧
        d.erd F.ETH_GATE_STATUS_REASON p q = r % 2 ^ F.ETH_GATE_STATUS_REASON.width ∧ d.erd F.ETH_GATE_STATUS_INDEX p q = j % 2 ^ F.ETH_GATE_STATUS_INDEX.width ∧
        (d.eport (portKey p q)).pendingList = e.pendingList ∧ (d.eport (portKey p q)).oper = e.oper) ∧
    (∀ g, e.admitting = some (none, g) →
      ∃ d : Chip, exec (.gateAdmissionComplete p q) s = s.leaves d ∧ d.erd F.ETH_GATE_STATUS_PENDING p q = 1 ∧ d.erd F.ETH_GATE_STATUS_RESULT p q = 0 ∧
        ∃ b t, (d.eport (portKey p q)).pendingList = some (g, b, t) ∧ c.beat + 4096 ≤ b) ∧
    (e.pendingList = none → exec (.gateListSwap p q) s = s.leaves c) ∧
    (∀ g b t, e.pendingList = some (g, b, t) → g.ents.length ≤ 1024 →
      ∃ d : Chip, exec (.gateListSwap p q) s = s.leaves (d.enterGate p q) ∧ (d.eport (portKey p q)).oper = g ∧ (d.eport (portKey p q)).pendingList = none ∧
        (d.eport (portKey p q)).gateIdx = 0 ∧ d.erd F.ETH_GATE_STATUS_PENDING p q = 0 ∧ d.beat = max c.beat b ∧
        (∀ j, j < g.ents.length → d.erd F.ETH_GATE_OPER_ENTRY p q j = g.ents.getD j 0 % 2 ^ F.ETH_GATE_OPER_ENTRY.width)) ∧
    (e.oper.enable = true → e.oper.ents ≠ [] →
      let t := e.gateT + gateIv (e.oper.ents.getD e.gateIdx 0)
      exec (.gateEntryAdvance p q) s = s.leaves (((c.advanceTo (c.listBeat p e.oper t)).setPort (portKey p q)
        { e with gateIdx := (e.gateIdx + 1) % e.oper.ents.length, gateT := t }).enterGate p q)) ∧
    (e.oper.enable = false ∨ e.oper.ents = [] → exec (.gateEntryAdvance p q) s = s.leaves c)) ∧
  (∀ (s : State) (src p q : Nat),
    let c := s.chip
    let k := portKey p q
    let e := c.eport k
    let goes (d : Chip) : Prop := exec (.ethTransmitSelect p q) s = s.leaves d
    let start (d : Chip) (f : EFrame) (rest : List EFrame) : Chip :=
      (d.setPort k { d.eport k with mac := rest, cur := some (⟨8, 0, 512, f⟩, f.len, d.beat + d.txBeats p (f.len + 20)) }).ethEmit p q f
    (c.hasPort p q = true → c.ethUp p q = false → goes c) ∧
    (c.hasPort p q = true → c.ethUp p q = true →
      (∀ f rest, e.mac = f :: rest → e.cur = none → goes (start c f rest)) ∧
      (∀ f rest x left stop, e.mac = f :: rest → e.cur = some (x, left, stop) → c.preempts p q = true → c.express p q x.prio = false → x.frame.dmac ≠ macDest → e.cut = none →
        let sent := max 64 (c.sentBytes p left stop)
        sent + 64 ≤ left → goes (start (c.setPort k { e with cur := none, cut := some (x, left - sent) }) f rest)) ∧
      (∀ x left stop, e.mac = [] → e.txq = [] → e.cut = none → e.cur = some (x, left, stop) →
        let d := (((c.advanceTo stop).setPort k { e with cur := none }).ecount F.ETH_TX_FRAMES_COUNT p q).ecount F.ETH_TX_OCTETS_COUNT p q x.frame.len
        let pfc : Bool := match x.frame.body with | .pfc _ => true | _ => false
        goes (if pfc then d.ecount F.ETH_TX_PFC_COUNT p q else d)) ∧
      (e.mac = [] → e.cur = none → e.cut = none →
        (e.txq = [] → goes c) ∧
        (∀ x, e.txq = [x] → x.prio < 8 →
          (c.eligible p q x x.frame.len true = true → goes (c.txStart p q x)) ∧ (c.eligible p q x x.frame.len true = false → goes c)) ∧
        (∀ x y, e.txq = [x, y] → x.prio < y.prio → y.prio < 8 → c.preempts p q = false →
          c.eligible p q x x.frame.len true = true → c.eligible p q y y.frame.len true = true → goes (c.txStart p q y)))) ∧
    (∀ x : ETx, let d := c.txStart p q x
      (d.eport k).txq = e.txq.erase x ∧ (d.eport k).cur = some (x, x.frame.len, c.beat + c.txBeats p (x.frame.len + 20)) ∧
      d.out = .eth p q (x.frame.bytes c.freeCtr) (x.frame.stampAt (c.beat * 64)) :: c.out ∧
      (x.owner < 512 → (d.shaper p x.owner).level = ((c.shaper p x.owner).upTo c.beat).level - (x.frame.len * 65536 : Nat)) ∧
      (x.owner = 512 → d.shapers = c.shapers)) ∧
    (c.reaches src F.ETH_SHP_CMD_APPLY p 0 = true → c.ethPresent p = true →
      let i := c.rd F.ETH_SHP_SEL_INSTANCE p
      let rate := c.rd F.ETH_SHP_RATE_MBPS p i
      let depth := c.rd F.ETH_SHP_DEPTH_BYTES p i
      (800000 < rate ∨ depth < 9216 → exec (.shaperApply src p) s = s.leaves (c.wr F.ETH_SHP_CMD_RESULT 1 p)) ∧
      (rate ≤ 800000 → 9216 ≤ depth →
        let x := (c.shaper p i).upTo c.beat
        exec (.shaperApply src p) s = s.leaves ((c.wr F.ETH_SHP_CMD_RESULT 0 p).setShaper p i
          { x with rate := rate, depth := depth, level := min x.level (depth * 65536 : Nat) }))))

/-- Key staging and slots (R334–R336, R348): selecting a slot, of XTS at most the last, empties the requester's staging buffer; words and halves of
TWEAK_BASE are staged; COMMIT of a whole key to the requester's unbound slot makes it VALID with the staged words and tweak and clears the buffer, a
refused one leaves the slots as they were and clears the buffer too; ZEROISE leaves the slot EMPTY, its owner's and without words, a refused one every
slot as it was; each posts its result. R335, R336, R348: which COMMITs are refused: of a FREE slot with 5, of another owner's with 1, of a bound one
with 3, with a word missing with 2, of an XTS slot with half of TWEAK_BASE missing with 6 and of equal XTS halves with 4, in this order; and which
ZEROISEs: of a FREE slot with 5, of another owner's but for the manager with 1, of a bound one with 3. The known-answer test (R347): RUN starts it;
its result is posted when it ends, and a failure is an event of the cipher source. The order of the refusals of COMMIT is log entry 82. The model's
choices: an impossible event does nothing (log entry 2). -/
def Obligations.KeysAreStagedAndCommitted : Prop :=
  (∀ (s : State) (src kind slot word v : Nat) (high : Bool), kind < 2 → slot < 4096 → word < 16 → v < 2 ^ 32 →
    let c := s.chip
    let o := keyOwner src
    let b := keyBank o
    let k := c.rd F.KEY_SEL_KIND 0 b
    let z := c.rd F.KEY_SEL_SLOT 0 b
    let g := c.stage o
    (c.reachesKey src F.KEY_SEL_KIND = true → exec (.keySelWrite src kind slot) s = s.leaves
      (((c.wr F.KEY_SEL_KIND kind 0 b).wr F.KEY_SEL_SLOT (if kind = 1 then min slot 63 else slot) 0 b).setStage o {})) ∧
    (c.reachesKey src F.KEY_DATA_DATA (4 * word) = true → ∃ d : Chip, exec (.keyDataWrite src word v) s = s.leaves d ∧
      Table.find? word (d.stage o).words = some v ∧ (∀ j, j ≠ word → Table.find? j (d.stage o).words = Table.find? j g.words) ∧ d.keys = c.keys ∧
      d.regs = c.regs) ∧
    (c.reachesKey src F.KEY_TWEAK_TWEAK_BASE (4 * b2n high) = true → exec (.keyTweakWrite src high v) s = s.leaves
      (c.setStage o (if high then { g with hi := some v } else { g with lo := some v }))) ∧
    (c.reachesKey src F.KEY_CMD_CMD = true →
      (let d := (c.wr F.KEY_STATUS_RESULT (c.commitResult o) 0 b).setStage o {}
       (c.commitResult o ≠ 0 → exec (.keyCommit src) s = s.leaves d) ∧
       (c.commitResult o = 0 → exec (.keyCommit src) s = s.leaves (d.setKey k z
         { st := .valid, owner := o, words := (List.range (if k = 1 then 16 else 9)).map (fun i => (Table.find? i g.words).getD 0),
           tweak := if k = 1 then g.lo.getD 0 + g.hi.getD 0 * 2 ^ 32 else 0, sector := if k = 1 then g.sector else 0 }))) ∧
      (let d := c.wr F.KEY_STATUS_RESULT (c.zeroiseResult o) 0 b
       (c.zeroiseResult o ≠ 0 → exec (.zeroise src) s = s.leaves d) ∧
       (c.zeroiseResult o = 0 → exec (.zeroise src) s = s.leaves (d.setKey k z { st := .empty, owner := (c.keySlot k z).owner }))))) ∧
  (∀ (c : Chip) (o : Nat),
    let k := c.rd F.KEY_SEL_KIND 0 (keyBank o)
    let z := c.rd F.KEY_SEL_SLOT 0 (keyBank o)
    let x := c.keySlot k z
    let g := c.stage o
    let word (i : Nat) : Option Nat := Table.find? i g.words
    (x.st = .free → c.commitResult o = 5 ∧ c.zeroiseResult o = 5) ∧
    (x.st ≠ .free → x.owner ≠ o → c.commitResult o = 1 ∧ (o ≠ mgrOwner → c.zeroiseResult o = 1)) ∧
    (x.st ≠ .free → x.owner = o → c.keyBound k z = true → c.commitResult o = 3) ∧
    (x.st ≠ .free → x.owner = o ∨ o = mgrOwner → c.zeroiseResult o = if c.keyBound k z then 3 else 0) ∧
    (x.st ≠ .free → x.owner = o → c.keyBound k z = false →
      ((List.range (if k = 1 then 16 else 9)).any (fun i => (word i).isNone) = true → c.commitResult o = 2) ∧
      ((List.range (if k = 1 then 16 else 9)).any (fun i => (word i).isNone) = false →
        (k = 0 → c.commitResult o = 0) ∧
        (k = 1 → g.lo = none ∨ g.hi = none → c.commitResult o = 6) ∧
        (k = 1 → g.lo ≠ none → g.hi ≠ none → c.commitResult o = if (List.range 8).all (fun i => word i == word (i + 8)) then 4 else 0)))) ∧
  (∀ (s : State) (src r : Nat),
    let c := s.chip
    (c.reaches src F.CPH_TEST_RUN 0 0 = true → exec (.cipherTest src) s = s.leaves (c.wr F.CPH_TEST_RUN 1)) ∧
    (c.rd F.CPH_TEST_RUN = 0 → exec (.cipherTestResult r) s = s.leaves c) ∧
    (c.rd F.CPH_TEST_RUN = 1 →
      (r % 4 = 0 → exec (.cipherTestResult r) s = s.leaves ((c.wr F.CPH_TEST_RUN 0).wr F.CPH_TEST_RESULT r)) ∧
      (r % 4 ≠ 0 → exec (.cipherTestResult r) s = s.leaves (((c.wr F.CPH_TEST_RUN 0).wr F.CPH_TEST_RESULT r).event Flt.cipher))))

/-- Device memory through BAR4, CXL.mem and the apertures (R44, R137, R139, R352–R354, R369, R371, R415). With the host link down, of no bytes, beyond
the BAR, or with the module off or in KEEP-ALIVE, nothing happens; CXL.mem also needs its decoder, and reaches nothing but one tier of crib or
granary. BAR4, through the window while it is 256 MiB: an access within one tier is performed after the errors it meets, in the safe state, or of the
loft while an almanac runs, it is a STATE violation, and any other is UNMAPPED. A performed read is answered with its bytes; a write stores its
enabled bytes, each run of them as one write, counting once in the units that are out. An aperture of a VF that does not exist answers a read
Unsupported Request, of a resetting one Completer Abort, and drops a write; outside service it is a STATE violation; else its pages translate in order
in the instance's space, the first that fails is the violation, and without one the access is performed there. The host port (R349, R350, R352, R357,
R358, R373, R382, R383): WIN_BASE takes a base of 256 MiB; with the link up an AtomicOp is Unsupported and a configuration request is answered and
sets what it names, with it down neither does anything; the link comes up with its speed and width once it may train, out of PERST#; going down it
clears them; PERST# resets the functions as a PF FLR does and brings the link down, the control set's own state beside it, and released it changes
nothing more. The model's choices: an impossible event does nothing (log entry 2); what is sent stands in a list (7). -/
def Obligations.DeviceMemoryAndHostPort : Prop :=
  (∀ (s : State) (off len i path x : Nat) (t : Tier) (data : Option (List (Option Byte))) (errs : List MemErr),
    let c := s.chip
    let n := accLen len data
    let w := data.isSome
    let bar (d : Chip) : Prop := exec (.bar4Access off len data errs) s = s.leaves d
    let cxl (d : Chip) : Prop := exec (.cxlMemAccess off len data errs) s = s.leaves d
    let apt (d : Chip) : Prop := exec (.apertureAccess i off len data errs) s = s.leaves d
    let dead : Prop := c.hostUp = false ∨ n = 0
    let off_ : Prop := c.mst = .off ∨ c.mst = .keepalive
    let full : Bool := c.on F.HST_STATUS_BAR4_FULL
    let top := if full then 2 ^ 42 else 2 ^ 28
    let a := if full then off else c.rd F.HST_WIN_BASE_BASE * 2 ^ 28 + off
    let tier (x : Nat) : Option Tier := (c.dpa x).map (·.1)
    (dead ∨ off_ ∨ top < off + n → bar c) ∧
    (¬ dead → ¬ off_ → off + n ≤ top →
      (c.dpa a = none ∨ c.dpa (a + n - 1) = none ∨ tier a ≠ tier (a + n - 1) → bar (c.memViol 0x78 0x3FF off w .unmapped)) ∧
      (∀ y, c.dpa a = some y → tier (a + n - 1) = some y.1 →
        (c.mst = .safe ∨ (y.1 = .loft ∧ c.anyRun = true) → bar (c.memViol 0x78 0x3FF off w .state)) ∧
        (c.mst ≠ .safe → y.1 ≠ .loft ∨ c.anyRun = false → bar (c.dpaAccess 0 off y.1 y.2 n data errs)))) ∧
    (dead ∨ c.on F.HST_STATUS_CXL_MEM = false → cxl c) ∧
    (¬ dead → c.on F.HST_STATUS_CXL_MEM = true →
      (c.dpa off = none ∨ tier off = some .loft ∨ tier off ≠ tier (off + n - 1) → cxl c) ∧
      (∀ y, c.dpa off = some y → tier (off + n - 1) = some y.1 → y.1 ≠ .loft → cxl (c.dpaAccess 0x400 off y.1 y.2 n data errs))) ∧
    (let e := errs.foldl Chip.memError c
     (data = none → c.dpaAccess path off t x n data errs = (e.dpaRead t x n).2.emit (.memData path off (e.dpaRead t x n).1)) ∧
     (∀ l, data = some l → c.dpaAccess path off t x n data errs =
       (enabledRuns 0 l).foldl (fun c r => c.dpaPut t (x + r.1) (clean r.2)) (if t = .loft then e else e.touch t x l.length))) ∧
    (dead ∨ off_ ∨ 2 ^ 36 < off + n ∨ 512 ≤ i → apt c) ∧
    (¬ dead → ¬ off_ → off + n ≤ 2 ^ 36 → i < 512 →
      (c.on F.INS_STATUS_VF_PRESENT i = false → apt (if w then c else c.emit (.unsupported i off))) ∧
      (c.on F.INS_STATUS_VF_PRESENT i = true →
        (c.insResetting i = true → apt (if w then c else c.emit (.completerAbort i off))) ∧
        (c.insResetting i = false → c.dataState = false ∨ c.ownerServed i = false → apt (c.memViol (0x100 + i) i off w .state)) ∧
        (c.insResetting i = false → c.dataState = true → c.ownerServed i = true →
          let va := c.rd F.INS_APT_VA i * 2 ^ 36 + off
          let x := c.apertureRuns i w (runs va n)
          let e := errs.foldl Chip.memError x.2
          (∀ v, x.1 = some v → apt (x.2.memViol (0x100 + i) i off w v)) ∧
          (x.1 = none →
            (data = none → apt ((e.vaRead i va n).2.emit (.memData (i + 1) off (e.vaRead i va n).1))) ∧
            (∀ l, data = some l → apt ((enabledRuns 0 l).foldl (fun c r => c.vaPut i (va + r.1) (clean r.2)) (e.vaTouch i va n)))))))) ∧
  (∀ (s : State) (src v fn addr sp w : Nat) (g : CfgWrite),
    let c := s.chip
    let p (b : Bool) : Chip := { c with inputs := { c.inputs with perst := b } }
    (c.reaches src F.HST_WIN_BASE_BASE 0 0 = true → exec (.windowBaseWrite src v) s = s.leaves (c.wr F.HST_WIN_BASE_BASE (v / 2 ^ 28))) ∧
    (c.hostUp = true → exec (.atomicopRequest fn addr) s = s.leaves (c.emit (.unsupported fn addr)) ∧
      exec (.configRequest .none) s = s.leaves (c.emit .configDone) ∧
      (∀ b, exec (.configRequest (.bar4Full b)) s = s.leaves ((c.wr F.HST_STATUS_BAR4_FULL (b2n b)).emit .configDone) ∧
        exec (.configRequest (.cxlMem b)) s = s.leaves ((c.wr F.HST_STATUS_CXL_MEM (b2n b)).emit .configDone) ∧
        exec (.configRequest (.relaxed fn b)) s = s.leaves (({ c with
          plainWrites := if b then c.plainWrites.filter (· ≠ fn) else fn :: c.plainWrites.filter (· ≠ fn) } : Chip).emit .configDone)) ∧
      exec (.configRequest (.timeout v)) s = s.leaves (({ c with cplTimeout := v } : Chip).emit .configDone)) ∧
    (c.hostUp = false → exec (.atomicopRequest fn addr) s = s.leaves c ∧ exec (.configRequest g) s = s.leaves c) ∧
    (c.hostUp = true ∨ c.inputs.perst = true ∨ c.hostReady = false → exec (.hostLinkUp sp w) s = s.leaves c) ∧
    (c.hostUp = false → c.inputs.perst = false → c.hostReady = true → exec (.hostLinkUp sp w) s = s.leaves
      (((((c.wr F.HST_STATUS_LINK_UP 1).wr F.HST_STATUS_SPEED sp).wr F.HST_STATUS_WIDTH w).wr F.HST_STATUS_FLIT (b2n (sp == 6))).emit .readiness)) ∧
    (∃ d : Chip, exec .hostLinkDown s = s.leaves d ∧ d.hostUp = false ∧ d.rd F.HST_STATUS_SPEED = 0 ∧ d.rd F.HST_STATUS_WIDTH = 0 ∧
      d.rd F.HST_STATUS_FLIT = 0 ∧ d.rd F.HST_STATUS_CXL_MEM = c.rd F.HST_STATUS_CXL_MEM) ∧
    exec .perstDeassert s = s.leaves (p false) ∧
    (c.mst = .off → exec .perstAssert s = s.leaves (p true)) ∧
    (c.mst ≠ .off → exec .perstAssert s = s.leaves { ((p true).pfReset.linkDownHost).wr F.HST_STATUS_CXL_MEM 0 with plainWrites := [], cplTimeout := 0 }))

/-- Host reads and peer windows (R357, R363): an error of a read raises its source, blocks a DIRECT window that covers it where the peer answered with
it, and a range that it covers then reads poisoned; a probe of a valid window reads its base once, and of any other, or while one is under way,
nothing; its result makes the window DIRECT or, counted as its error, BLOCKED, a missing one after 10 ms, and with no probe under way changes nothing.
Mailboxes (R365, R367, R392, R393): the manager's and an instance's producer or consumer index within its ring is taken, a consumer index letting
messages that wait be written, and any other sets MB_ERR and moves nothing. The core performs the message at the head of a ring that it serves: HELLO
answers whether the revision is served, and the manager's is recorded and decides between READY and REFUSED; PING answers OK; INFO answers what the
owner may know; a malformed one is answered FORMAT, one denied LOCAL_PROTECTION. With none at the head, or one of another type, nothing happens. RELAY
(R368): a message goes to its module on VC5 and is outstanding; a relay frame is handed to the manager once for each source and SEQ and acknowledged,
one that is known is acknowledged again, and one for which the manager has no room, or no core, is dropped; an acknowledgement ends the RELAY it names
with OK, and any other goes without effect; 100 µs without one sends the RELAY again, eight times in all, then RETRY_EXCEEDED. With no message, frame
or RELAY of the kind nothing happens. The model's choices: timed commands move BEAT (log entry 9); an impossible event does nothing (2); what is sent
stands in a list (7). -/
def Obligations.WindowsMailboxesRelays : Prop :=
  (∀ (s : State) (src a n kind w cpl : Nat), cpl < 4 →
    let c := s.chip
    let e := (c.hostReadBad kind).p2pBlock a kind
    (0 < n → exec (.hostReadError a n kind) s = s.leaves { e with hostBad := e.hostBad ++ [(a, n)] }) ∧
    (exec (.hostReadError a 0 kind) s = s.leaves e) ∧
    (∀ x, c.p2pWindow a = some x →
      (c.p2pState x = 2 → kind = 1 ∨ kind = 2 → c.p2pBlock a kind = (c.wr F.HST_P2P_STATUS_STATE 3 0 x).wr F.HST_P2P_STATUS_LAST_CPL kind 0 x) ∧
      (c.p2pState x ≠ 2 ∨ (kind ≠ 1 ∧ kind ≠ 2) → c.p2pBlock a kind = c)) ∧
    (c.reaches src F.HST_P2P_CTRL_PROBE 0 0 = true →
      let k := c.rd F.HST_P2P_SEL_WINDOW
      (16 ≤ k ∨ c.on F.HST_P2P_CTRL_VALID 0 k = false ∨ c.on F.HST_P2P_CTRL_PROBE 0 k = true → exec (.p2pProbe src) s = s.leaves c) ∧
      (k < 16 → c.on F.HST_P2P_CTRL_VALID 0 k = true → c.on F.HST_P2P_CTRL_PROBE 0 k = false →
        ∃ d : Chip, exec (.p2pProbe src) s = s.leaves d ∧ d.rd F.HST_P2P_CTRL_PROBE 0 k = 1 ∧ d.rd F.HST_P2P_STATUS_STATE 0 k = 1 ∧
          Out.hostRead 0 (c.rd F.HST_P2P_BASE_BASE 0 k * 4096) 4 ∈ d.out)) ∧
    (c.on F.HST_P2P_CTRL_PROBE 0 w = false → exec (.p2pProbeResult w cpl) s = s.leaves c) ∧
    (c.on F.HST_P2P_CTRL_PROBE 0 w = true →
      let b := if cpl = 3 then c.advanceTo (Table.getD c.probes w c.beat + 9000000) else c
      let d := if cpl = 0 then b else b.hostReadBad cpl
      exec (.p2pProbeResult w cpl) s = s.leaves { ((d.wr F.HST_P2P_CTRL_PROBE 0 0 w).wr F.HST_P2P_STATUS_STATE (if cpl = 0 then 2 else 3) 0 w).wr
        F.HST_P2P_STATUS_LAST_CPL cpl 0 w with probes := Table.erase w d.probes })) ∧
  (∀ (s : State) (src o v : Nat) (m : List Nat), v < 65536 →
    let c := s.chip
    let who := if src < 512 then src else 512
    let err := c.mbWr who F.HST_MB_CTRL_MB_ERR F.INS_MB_CTRL_MB_ERR 1
    ((if src < 512 then c.reaches src F.INS_MB_H2R_PROD src 0 = true else c.reaches src F.HST_MB_H2R_PROD 0 0 = true) ∧
      subMod 16 (c.h2rProd who) (c.h2rCons who) ≤ subMod 16 v (c.h2rCons who) ∧ subMod 16 v (c.h2rCons who) ≤ 16 →
        exec (.mbH2rProdWrite src v) s = s.leaves (c.mbWr who F.HST_MB_H2R_PROD F.INS_MB_H2R_PROD v)) ∧
    ((if src < 512 then c.reaches src F.INS_MB_H2R_PROD src 0 = true else c.reaches src F.HST_MB_H2R_PROD 0 0 = true) ∧
      (subMod 16 v (c.h2rCons who) < subMod 16 (c.h2rProd who) (c.h2rCons who) ∨ 16 < subMod 16 v (c.h2rCons who)) →
        exec (.mbH2rProdWrite src v) s = s.leaves err) ∧
    ((if src < 512 then c.reaches src F.INS_MB_R2H_CONS src 0 = true else c.reaches src F.HST_MB_R2H_CONS 0 0 = true) →
      (subMod 16 (c.r2hProd who) v ≤ subMod 16 (c.r2hProd who) (c.r2hCons who) →
        exec (.mbHostConsWrite src v) s = s.leaves ((c.mbWr who F.HST_MB_R2H_CONS F.INS_MB_R2H_CONS v).mbDrain who 17)) ∧
      (subMod 16 (c.r2hProd who) (c.r2hCons who) < subMod 16 (c.r2hProd who) v → exec (.mbHostConsWrite src v) s = s.leaves err)) ∧
    (c.mbHead o = none → exec (.ping o) s = s.leaves c ∧ exec (.info o) s = s.leaves c ∧ exec (.hello o) s = s.leaves c ∧ exec (.mailboxMalformed o) s = s.leaves c) ∧
    (c.mbHead o = some m →
      let d := c.mbTake o
      let seq := c.h2rCons o
      (c.msgBad o m = true → exec (.mailboxMalformed o) s = s.leaves (d.mbSend o (msgType m) false seq 12 [])) ∧
      (c.msgBad o m = false → c.msgDenied o m = true → exec (.mailboxMalformed o) s = s.leaves (d.mbSend o (msgType m) false seq 4 [])) ∧
      (c.msgBad o m = true ∨ c.msgDenied o m = true ∨ msgType m = 8 →
        exec (.ping o) s = s.leaves c ∧ exec (.info o) s = s.leaves c ∧ exec (.hello o) s = s.leaves c) ∧
      (c.msgBad o m = false → c.msgDenied o m = false →
        exec (.mailboxMalformed o) s = s.leaves c ∧
        (msgType m = 2 → exec (.ping o) s = s.leaves (d.mbSend o 2 false seq 0 [])) ∧
        (msgType m = 3 → exec (.info o) s = s.leaves (d.mbSend o 3 false seq 0 [sourceOf o, d.fwVer, d.positionWord,
          if o = 512 then 0 else d.rd F.INS_QUOTA_Q_QUEUES o, if o = 512 then 0 else d.rd F.INS_QUOTA_QP_QPS o])) ∧
        (msgType m = 1 →
          let rev := m.getD 2 0 % 65536
          let ok := d.revOk rev
          let e := d.mbSend o 1 false seq (if ok then 0 else 12) [d.fwIf, d.fwVer]
          let f : Chip := { e with hello := some rev }
          (o ≠ 512 → exec (.hello o) s = s.leaves e) ∧
          (o = 512 →
            ((c.mst = .booting ∧ c.phase = 6) ∨ (c.mst = .refused ∧ ok = true) → ok = true → exec (.hello o) s = s.leaves f.toReady) ∧
            ((c.mst = .booting ∧ c.phase = 6) ∨ c.mst = .ready → ok = false → exec (.hello o) s = s.leaves f.toRefused) ∧
            ((c.mst ≠ .booting ∨ c.phase ≠ 6) → (c.mst = .refused → ok = false) → (c.mst = .ready → ok = true) → exec (.hello o) s = s.leaves f)))))) ∧
  (∀ (s : State) (k : Nat) (m : List Nat) (f : LFrame),
    let c := s.chip
    (c.mbHead 512 = some m →
      (msgType m = 8 → c.msgBad 512 m = false → c.msgDenied 512 m = false →
        let dest := m.getD 2 0 % 256
        let d := c.mbTake 512
        exec .relaySend s = s.leaves (({ d with relay := some ⟨c.h2rCons 512, dest, bytesOf (m.drop 3), 1, c.beat⟩ } : Chip).relaySend 1 dest (c.h2rCons 512)
          (bytesOf (m.drop 3)))) ∧
      (msgType m ≠ 8 ∨ c.msgBad 512 m = true ∨ c.msgDenied 512 m = true → exec .relaySend s = s.leaves c)) ∧
    (c.mbHead 512 = none → exec .relaySend s = s.leaves c) ∧
    (c.hasLink k = false ∨ c.mgmtHead k = none → exec (.relayFrameReceive k) s = s.leaves c ∧ exec (.relayAckReceive k) s = s.leaves c) ∧
    (c.hasLink k = true → c.mgmtHead k = some f →
      let d := c.takeRx k 5
      let seen := Table.getD d.relaySeen f.src []
      (f.typ ≠ 1 → exec (.relayFrameReceive k) s = s.leaves c) ∧
      (f.typ ≠ 2 → exec (.relayAckReceive k) s = s.leaves c) ∧
      (f.typ = 1 →
        let full : Prop := d.mbServed 512 = false ∨ d.r2hFree 512 = 0 ∨ d.mbOut.any (fun x => x.1 == 512) = true
        (seen.contains f.ctx = true → exec (.relayFrameReceive k) s = s.leaves (d.relaySend 2 f.src f.ctx [])) ∧
        (seen.contains f.ctx = false → full → exec (.relayFrameReceive k) s = s.leaves d) ∧
        (seen.contains f.ctx = false → ¬ full → exec (.relayFrameReceive k) s = s.leaves
          ((({ d with relaySeen := Table.insert f.src ((f.ctx :: seen).take 16) (Table.erase f.src d.relaySeen) } : Chip).mbSend 512 9 true 0 0
            ((f.src + f.ctx % 65536 * 65536) :: wordsOf 13 f.payload)).relaySend 2 f.src f.ctx []))) ∧
      (f.typ = 2 →
        (d.relay.all (fun r => r.seq != f.ctx || r.dest != f.src) = true → exec (.relayAckReceive k) s = s.leaves d) ∧
        (∀ r, d.relay = some r → r.seq = f.ctx → r.dest = f.src →
          exec (.relayAckReceive k) s = s.leaves (({ d with relay := none } : Chip).mbSend 512 8 false r.seq 0 [])))) ∧
    (∀ r, c.relay = some r →
      let d := c.advanceTo (r.at_ + 90000)
      (r.sends < 8 → exec .relayResendTimer s = s.leaves (({ d with relay := some { r with sends := r.sends + 1, at_ := d.beat } } : Chip).relaySend 1 r.dest r.seq r.payload)) ∧
      (8 ≤ r.sends → exec .relayResendTimer s = s.leaves (({ d with relay := none } : Chip).mbSend 512 8 false r.seq 5 []))) ∧
    (c.relay = none → exec .relayResendTimer s = s.leaves c))

/-- Instances (R369–R373): ENABLE puts an existing instance in service, but not in REFUSED or while it resets; clearing it, RESET, a VF FLR and the
removal of the VF begin an instance reset, which a reset in progress takes up; of a VF that does not exist ENABLE is kept and nothing else happens. A
change of the VFs brings those up to the new number and removes the others, each in turn; a PF FLR resets every instance and then the manager's own. A
drained queue pair tells its peer; while it still drains, or does not, nothing happens, nor does a squash without a reset. A quota that is out of
range, below what is in use, or more than the module has beside the others, sets CFG_ERR and is not taken; any other is. R303, R371: what an instance
reset begins with and what it leaves. With no queue pair, prefetch, shift, tenant combine or fault request of the instance left, at its start the
instance is RESETTING, its admission is gone and its mailbox silent, and every other context is as it was. Its squash with no queue pair left gives
the context back EMPTY and reports its cause, that nothing was squashed, the notices sent and the time taken, in INS_RESET_STAT and to the manager,
and STATE is as ENABLE says; a drain still under way when 2 ms are over is squashed, which the report says. The model's choices: an impossible event
does nothing (log entry 2). -/
def Obligations.InstancesAndTheirResets : Prop :=
  (∀ (s : State) (src i n v : Nat), i < 512 →
    let c := s.chip
    let here : Bool := c.on F.INS_STATUS_VF_PRESENT i
    let err := s.leaves (c.wr F.INS_STATUS_CFG_ERR 1 i)
    (c.reaches src F.INS_CTRL_ENABLE i 0 = true →
      let d (b : Nat) := c.wr F.INS_CTRL_ENABLE b i
      (here = false → exec (.insEnable src i true) s = s.leaves (d 1) ∧ exec (.insEnable src i false) s = s.leaves (d 0)) ∧
      (here = true →
        (c.insResetting i = true → exec (.insEnable src i true) s = s.leaves (d 1)) ∧
        (c.insResetting i = false → exec (.insEnable src i true) s = s.leaves ((d 1).wr F.INS_STATUS_STATE (if c.mst = .refused then 0 else 1) i)) ∧
        (c.on F.INS_CTRL_ENABLE i = true → exec (.insEnable src i false) s = s.leaves ((d 0).insReset i 3)) ∧
        (c.on F.INS_CTRL_ENABLE i = false → exec (.insEnable src i false) s = s.leaves (d 0)))) ∧
    (c.reaches src F.INS_CTRL_RESET i 0 = true →
      (here = true → c.insResetting i = false → exec (.insReset src i) s = s.leaves (c.insClose i 2)) ∧
      (here = false ∨ c.insResetting i = true → exec (.insReset src i) s = s.leaves c)) ∧
    (here = true → exec (.vfFlr i) s = s.leaves ((c.count F.HST_FLR_VF).insReset i 1)) ∧
    (here = false → exec (.vfFlr i) s = s.leaves c) ∧
    exec .pfFlr s = s.leaves (((c.instances.foldl (fun c i => c.insClose i 1) (c.count F.HST_FLR_PF))).resetManager) ∧
    (let change (c : Chip) (j : Nat) : Chip :=
       let d := c.wr F.INS_STATUS_VF_PRESENT 1 j
       if c.on F.INS_STATUS_VF_PRESENT j then (if n ≤ j then (c.wr F.INS_STATUS_VF_PRESENT 0 j).insReset j 4 else c)
       else if n ≤ j then c else if d.insResetting j then d else d.wr F.INS_STATUS_STATE (d.insHome j) j
     exec (.vfEnableChange n) s = s.leaves ((List.range 512).foldl change c)) ∧
    (∀ q, c.qpair n = some q →
      (q.draining = true → c.hasDrain q = false → exec (.qpDrainEnd n) s = s.leaves (c.noticeQp q.owner n)) ∧
      (q.draining = false ∨ c.hasDrain q = true → exec (.qpDrainEnd n) s = s.leaves c)) ∧
    (c.qpair n = none → exec (.qpDrainEnd n) s = s.leaves c) ∧
    (Table.find? i c.insResets = none → exec (.resetSquash i) s = s.leaves c) ∧
    (c.reaches src F.INS_QUOTA_Q_QUEUES i 0 = true → v < 2 ^ 13 →
      (c.queuesUsed i ≤ v → v ≤ 8190 → exec (.instanceQuotaWrite src i 0 v) s = s.leaves (c.wr F.INS_QUOTA_Q_QUEUES v i)) ∧
      (v < c.queuesUsed i ∨ 8190 < v → exec (.instanceQuotaWrite src i 0 v) s = err)) ∧
    (c.reaches src F.INS_QUOTA_QP_QPS i 0 = true → v < 2 ^ 19 →
      let bad : Prop := 262144 < v ∨ v < c.qpsUsed i ∨ 262144 < c.quotaOthers F.INS_QUOTA_QP_QPS i + v + c.qpsUsed 512
      (¬ bad → exec (.instanceQuotaWrite src i 1 v) s = s.leaves (c.wr F.INS_QUOTA_QP_QPS v i)) ∧
      (bad → exec (.instanceQuotaWrite src i 1 v) s = err)) ∧
    (c.reaches src F.INS_QUOTA_KEY_GCM i 0 = true →
      let g := field v 0 13
      let x := field v 16 7
      let bad (f : Fld) (k y top : Nat) : Prop := top < y ∨ y < c.keysHeld k i ∨ top < c.quotaOthers f i + y + c.keysHeld k mgrOwner
      (bad F.INS_QUOTA_KEY_GCM 0 g 4096 ∨ bad F.INS_QUOTA_KEY_XTS 1 x 64 → exec (.instanceQuotaWrite src i 2 v) s = err) ∧
      (¬ bad F.INS_QUOTA_KEY_GCM 0 g 4096 → ¬ bad F.INS_QUOTA_KEY_XTS 1 x 64 →
        exec (.instanceQuotaWrite src i 2 v) s = s.leaves ((c.wr F.INS_QUOTA_KEY_GCM g i).wr F.INS_QUOTA_KEY_XTS x i)))) ∧
  (∀ (s : State) (i : Nat) (r : InsReset), i < 512 →
    let c := s.chip
    (c.ownQps i = [] → (c.space i).opened = [] → (c.space i).queue = [] → (c.space i).waiting = [] → c.prefetches = [] → c.thr.shift = none → c.comb 1 = none →
      let d := c.insClose i 2
      d.rd F.INS_STATUS_STATE i = 2 ∧ (d.ctx (i + 2)).adm = none ∧ Table.find? i d.insResets = some { start := c.beat, cause := 2 } ∧
      d.mbOut.any (fun m => m.1 == i) = false ∧ (∀ n, n ≠ i + 2 → d.ctx n = c.ctx n)) ∧
    (Table.find? i c.insResets = some r → c.ownQps i = [] → c.again.all (fun e => e.2.2.owner != i) = true →
      let d := (c.resetShapers i).sendAgain
      let e : Chip := { d.insRelease i with insResets := Table.erase i (d.insRelease i).insResets }
      let took := min 65535 ((e.beat - r.start) / 9000)
      let f := (((((e.wr F.INS_RESET_STAT_CAUSE r.cause i).wr F.INS_RESET_STAT_SQUASHED 0 i).wr F.INS_RESET_STAT_QPS_NOTICED (min 4095 r.noticed) i).wr
        F.INS_RESET_STAT_DURATION took i))
      exec (.resetSquash i) s = s.leaves (((f.wr F.INS_STATUS_STATE (f.insHome i) i).wr F.INS_CTRL_RESET 0 i).mbNotice 512 0x01
        [i, r.cause * 2 ^ 29 + min 4095 r.noticed * 2 ^ 16 + took])) ∧
    (Table.find? i c.insResets = some r → (∃ n q, n ∈ c.ownQps i ∧ c.qpair n = some q ∧ q.draining = true ∧ c.hasDrain q = true) →
      ∃ (d : Chip) (k took : Nat), exec (.resetSquash i) s = s.leaves (d.mbNotice 512 0x01 [i, r.cause * 2 ^ 29 + 2 ^ 28 + k * 2 ^ 16 + took]) ∧
        r.start + 1800000 ≤ d.beat ∧ d.rd F.INS_RESET_STAT_SQUASHED i = 1 ∧ d.rd F.INS_CTRL_RESET i = 0 ∧ d.rd F.INS_STATUS_STATE i = d.insHome i))

/-- Cores (R378, R379, R403). In OFF, of a core that does not run, or of one beyond 15, an expiry and RST_CORE.RESET do nothing. A running core whose
watchdog expires counts it, at most 63 (then PAGE_STATUS.CNT_SAT is set), keeps the bells of its last three restarts, and is reset. RST_CORE.RESET
does the same for the core that RST_CORE.SEL names without the count and the bell, and does nothing for core 0. A core that has restarted resumes and
the waiting messages go out, but one of 4–15 whose last three restarts are within 64 bells is retired; of a core that does not restart the command
does nothing. A reset core restarts with DUTY_LOST set and its source counted; one of 4–15 first ends, with INTERNAL, the admin commands in progress
of the instances it serves. Boot (R380, R381, R386–R390, R392). A command that ends a phase does nothing in another. Phase 0: with TRIAL set, ATTEMPTS
counts, at most 3, and at 3 the ROM turns to the other bank; phase 1 begins. Phase 1: the ACTIVE bank is tested and, valid, boots; else ACTIVE names
the other, TRIAL is clear and FALLBACK set, and that bank boots if valid, else phase 8. Phase 2: GLB_SETTINGS reads the cause: a flash error (an
event, and both check words free values), an erased record, a bad check, or none; with no cause the record gives its version, position, tags, BAR4,
pins and the SMBus address, with one the pins and that address are the defaults; AGL_EXPECT follows; phase 3 begins, or phase 9 with KEEP-ALIVE while
an unacknowledged alarm is latched. Phase 3 waits for main power, then the senses show and are events. Phase 4: the host port is ready and memory
trains. Phase 5 waits until no memory unit trains, then TRIAL and ATTEMPTS are 0, and the module is SAFE, READY or REFUSED by the revision recorded,
or waits in phase 6. That an image tests valid needs the vendor's key, whose digest is open (log entry 18), so each outcome of the test is one branch.
The model's choices: an impossible event does nothing (log entry 2). -/
def Obligations.CoresAndBoot : Prop :=
  (∀ (s : State) (src k : Nat),
    let c := s.chip
    let expire (d : Chip) : Prop := exec .watchdogCore0Expiry s = s.leaves d
    let expires (d : Chip) : Prop := exec (.watchdogExpiry k) s = s.leaves d
    let done (d : Chip) : Prop := exec (.coreRestartComplete k) s = s.leaves d
    let counted (k : Nat) : Chip :=
      let n := c.rd F.FWC_CORE_EXPIRIES 0 k
      let d := if n < 63 then c.wr F.FWC_CORE_EXPIRIES (n + 1) 0 k else c.wr F.PAGE_STATUS_CNT_SAT 1 4
      { d with restarts := Table.insert k ((c.bell :: Table.getD c.restarts k []).take 3) (Table.erase k c.restarts) }
    (c.mst = .off ∨ c.coreState 0 ≠ 0 → expire c) ∧
    (c.mst ≠ .off → c.coreState 0 = 0 → expire ((counted 0).resetCore 0)) ∧
    (c.mst = .off ∨ c.coreState k ≠ 0 ∨ k = 0 ∨ 16 ≤ k → expires c) ∧
    (c.mst ≠ .off → c.coreState k = 0 → k ≠ 0 → k < 16 → expires ((counted k).resetCore k)) ∧
    (c.reaches src F.RST_CORE_RESET 0 0 = true → c.rd F.RST_CORE_SEL_CORE = k →
      (c.mst = .off ∨ c.coreState k ≠ 0 ∨ k = 0 → exec (.coreReset src) s = s.leaves c) ∧
      (c.mst ≠ .off → c.coreState k = 0 → k ≠ 0 → k < 16 → exec (.coreReset src) s = s.leaves (c.resetCore k))) ∧
    (c.coreState k ≠ 1 → done c) ∧
    (c.coreState k = 1 →
      let out := decide (4 ≤ k) && (match Table.getD c.restarts k [] with | [a, _, b] => decide (a < b + 64) | _ => false)
      done (c.wr F.FWC_CORE_STATE (if out then 2 else 0) 0 k).mbFlush) ∧
    (∀ d : Chip, d.resetCore k = (((d.dropAdmin k).wr F.FWC_CORE_STATE 1 0 k).wr F.FWC_CORE_DUTY_LOST 1 0 k).event (Flt.wdCore k)) ∧
    (k < 4 → ∀ d : Chip, d.dropAdmin k = d)) ∧
  (∀ (s : State) (bad : Bool),
    let c := s.chip
    let rom (d : Chip) : Prop := exec .bootRomChecksDone s = s.leaves d
    let record (d : Chip) : Prop := exec (.settingsRecordRead bad) s = s.leaves d
    let boots (d : Chip) : Prop := exec .bootComplete s = s.leaves d
    let tried := c.wr F.FWC_BOOT_ATTEMPTS (min 3 (c.rd F.FWC_BOOT_ATTEMPTS + 1))
    (c.inPhase 0 = false → rom c) ∧
    (c.inPhase 0 = true →
      (c.on F.FWC_BOOT_TRIAL = false → rom (c.setPhase 1)) ∧
      (c.on F.FWC_BOOT_TRIAL = true → c.rd F.FWC_BOOT_ATTEMPTS < 2 → rom (tried.setPhase 1)) ∧
      (c.on F.FWC_BOOT_TRIAL = true → 2 ≤ c.rd F.FWC_BOOT_ATTEMPTS →
        rom ((((tried.wr F.FWC_BOOT_ACTIVE (1 - tried.rd F.FWC_BOOT_ACTIVE)).wr F.FWC_BOOT_TRIAL 0).wr F.FWC_STATUS_FALLBACK 1).setPhase 1))) ∧
    (c.inPhase 1 = false → exec .imageVerifyDone s = s.leaves c) ∧
    (c.inPhase 1 = true →
      let a := c.rd F.FWC_BOOT_ACTIVE
      let d := (c.testBank a).2.fallBack.testBank (1 - a)
      exec .imageVerifyDone s = s.leaves (if (c.testBank a).1 = 0 then (c.testBank a).2.bootBank a else if d.1 = 0 then d.2.bootBank (1 - a) else d.2.setPhase 8)) ∧
    (c.inPhase 2 = false → record c) ∧
    (c.inPhase 2 = true →
      let bytes := c.flashRead 0x4002000 256
      let w (k : Nat) : Nat := (wordsOf 64 bytes).getD k 0
      let sum := crc32 (bytes.take 252)
      let cause := if bad then 3 else if bytes.all (· == 0xFF) then 2 else if w 63 ≠ sum then 1 else 0
      let e := c.event Flt.flash
      let d := if bad then ((e.free.2.free.2).wr F.GLB_SET_CHECK_STORED e.free.1).wr F.GLB_SET_CALC_COMPUTED e.free.2.free.1
        else (c.wr F.GLB_SET_CHECK_STORED (w 63)).wr F.GLB_SET_CALC_COMPUTED sum
      let d := (d.wr F.GLB_SETTINGS_CAUSE cause).wr F.GLB_SETTINGS_DEFAULTS_USED (b2n (cause != 0))
      let good := (List.range 4).foldl (fun c k => c.wr F.GLB_SET_TAG_TAG (w (5 + k)) 0 0 k)
        (((d.wr F.GLB_SETTINGS_RECORD_VER (w 0)).recordPosition w).wr F.HST_STATUS_BAR4_FULL (b2n (!bit (w 2) 0)))
      let d := if cause = 0 then { good.recordPins (fun p => field (w (3 + p / 8)) (4 * (p % 8)) 4) with smbAddr := field (w 2) 8 7 }
        else { d.recordPins gpReset with smbAddr := 0x5A }
      let d := d.expectLinks
      record (if d.on F.MGT_KA_ALARM_LATCHED && !d.on F.MGT_KA_ALARM_ACKED then { d.setPhase 9 with mst := .keepalive } else d.setPhase 3)) ∧
    (c.inPhase 3 = false ∨ c.inputs.mainGood = false → exec .mainRailsSequenced s = s.leaves c) ∧
    (c.inPhase 3 = true → c.inputs.mainGood = true →
      let d := (c.setPhase 4).showSenses
      let d := if d.inputs.leak then d.onset Flt.leak else d
      exec .mainRailsSequenced s = s.leaves (if d.inputs.lid then d.onset Flt.lid else d)) ∧
    (c.inPhase 4 = false → exec .dieResetsReleased s = s.leaves c) ∧
    (c.inPhase 4 = true → exec .dieResetsReleased s = s.leaves ({ c.setPhase 5 with hostReady := true } : Chip).bootTraining) ∧
    (c.inPhase 5 = false ∨ c.anyTraining = true → boots c) ∧
    (c.inPhase 5 = true → c.anyTraining = false →
      let d := (c.wr F.FWC_BOOT_TRIAL 0).wr F.FWC_BOOT_ATTEMPTS 0
      (c.bootSafe = true → boots { d.setPhase 7 with mst := .safe, bootSafe := false }) ∧
      (c.bootSafe = false → c.hello = none → boots (d.setPhase 6)) ∧
      (∀ r, c.bootSafe = false → c.hello = some r → c.revOk r = true → boots d.toReady) ∧
      (∀ r, c.bootSafe = false → c.hello = some r → c.revOk r = false → boots d.toRefused)))

/-- FWC commands (R386–R388, R391, R394, R395, R398, R402). In OFF and KEEP-ALIVE none does anything. ABANDON while a live update has loaded or named
its bell discards it with ABANDONED. Else a command while another is in progress only sets RESULT to BUSY, and in phase 8 one that is not VERIFY,
ACTIVATE_NEXT or PROGRAM_PAGE to STATE. STAGE from the sideband ends with PRIVILEGE, else it starts and the bank is no longer verified. VERIFY ends
with the result of the image's test, which UPDATE and FWC_BANK_VER show. ACTIVATE_NEXT ends with STATE where the bank is not verified, the module
boots outside phase 8, or a core restarts; else the bank is ACTIVE on trial, and in phase 8 phase 0 begins. ABANDON otherwise ends with STATE.
SET_WRITE ends with PRIVILEGE from a requester that is neither manager nor sideband, with STATE in RUNNING, and else starts. PROGRAM_PAGE writes its 4
KiB. RAISE_SVN of the manager raises SVN_MIN to the running image's, of any other ends with PRIVILEGE. STAGE_COMPLETE and SET_WRITE_COMPLETE of a
command not in progress do nothing. An image whose host read failed or met a poisoned byte ends with HOST_READ, one the flash refused with FLASH_ERR
and an event, and either leaves its bank spoiled: FW_VER 0 and bytes with no valid header; else its bytes stand in the bank that does not run. A
record is written with its check, or ends with FLASH_ERR and an event. Live update (R394, R395, R397, R398). ACTIVATE_LIVE, taken, ends with STATE
where the bank is not verified; with HREC_UNKNOWN where the running image's record version is outside the new image's range; with IF_MISMATCH where
the revision HELLO recorded is outside the new image's; with STATE while the module boots or a core restarts; else it loads. Once loaded, HANDOFF_BELL
names a bell at least 4,096 beats ahead. At the bell every watchdog has 20 ms, GLB_FW_VER and GLB_FW_IF read the new image's values and the gap
begins. A core's first report in the gap counts; when every core that is not retired has reported, the new bank is ACTIVE and runs, no longer on
trial, and the gap ends with OK. 15 ms after the bell without that the old image's values return and the gap ends with RESUME_FAIL. Each of these
commands does nothing at another step of an update, or with none; so does a report repeated or of a core beyond 15. The model's choices: timed
commands move BEAT (log entry 9); an impossible event does nothing (2). -/
def Obligations.FirmwareAndLiveUpdate : Prop :=
  (∀ (s : State) (src : Nat), s.chip.reaches src F.FWC_CMD_CMD 0 0 = true →
    let c := s.chip
    let dead : Prop := c.mst = .off ∨ c.mst = .keepalive
    let idle : Prop := ¬ dead ∧ c.fwcBusy = 0
    let side : Bool := src == 0x3FD || src == 0x3FE
    let loaded : Prop := c.rd F.FWC_STATUS_UPDATE = 4 ∨ c.rd F.FWC_STATUS_UPDATE = 5
    let ends (i : Instr) (code : Nat) : Prop := exec i s = s.leaves (c.fwcEnd code)
    let result (i : Instr) (code : Nat) : Prop := exec i s = s.leaves (c.wr F.FWC_RESULT_CODE code)
    let b := c.otherBank
    (∀ i ∈ [Instr.stage src, .verify src, .activateLive src, .activateNext src, .abandon src, .setWrite src, .programPage src, .raiseSvn src],
      (dead → exec i s = s.leaves c) ∧
      (¬ dead → i ≠ .abandon src ∨ ¬ loaded → c.fwcBusy ≠ 0 → result i 1) ∧
      (idle → c.phase = 8 → i ≠ .verify src → i ≠ .activateNext src → i ≠ .programPage src → i ≠ .abandon src ∨ ¬ loaded → result i 2)) ∧
    (¬ dead → loaded → exec (.abandon src) s = s.leaves { (c.wr F.FWC_STATUS_UPDATE 0).fwcEnd 9 with update := none }) ∧
    (idle →
      (let t := c.testBank b
       exec (.verify src) s = s.leaves { (t.2.wr F.FWC_STATUS_UPDATE (if t.1 = 0 then 3 else 0)).fwcEnd t.1 with verified := decide (t.1 = 0) }) ∧
      (c.verified = false ∨ (c.mst = .booting ∧ c.phase ≠ 8) ∨ c.anyRestarting = true → ends (.activateNext src) 2) ∧
      (c.verified = true → c.mst ≠ .booting ∨ c.phase = 8 → c.anyRestarting = false →
        let d := ((c.wr F.FWC_BOOT_ACTIVE b).wr F.FWC_BOOT_TRIAL 1).fwcEnd 0
        exec (.activateNext src) s = s.leaves (if d.phase = 8 then d.setPhase 0 else d)) ∧
      exec (.programPage src) s = s.leaves ({ ((c.flashWrite (b * 2 ^ 25 + c.rd F.FWC_FLASH_ADDR_PAGE * 4096)
        (bytesOf ((List.range 1024).map (fun k => c.rd F.FWC_PAGE_DATA 0 0 k)))).wr F.FWC_STATUS_UPDATE 0).fwcEnd 0 with verified := false } : Chip)) ∧
    (idle → c.phase ≠ 8 →
      (side = true → ends (.stage src) 12) ∧
      (side = false → exec (.stage src) s = s.leaves { c.fwcStart 1 1 with verified := false }) ∧
      (¬ loaded → ends (.abandon src) 2) ∧
      (src ≠ 0x3FF → side = false → ends (.setWrite src) 12) ∧
      (src = 0x3FF ∨ side = true → c.mst = .running → ends (.setWrite src) 2) ∧
      (src = 0x3FF ∨ side = true → c.mst ≠ .running → exec (.setWrite src) s = s.leaves (c.fwcStart 6 (c.rd F.FWC_STATUS_UPDATE))) ∧
      (src ≠ 0x3FF → ends (.raiseSvn src) 12) ∧
      (src = 0x3FF → exec (.raiseSvn src) s = s.leaves ((c.wr F.FWC_BOOT_SVN_MIN (c.imgSvn c.runBank)).fwcEnd 0))) ∧
    (∀ f, c.fwcBusy ≠ 1 → exec (.stageComplete f) s = s.leaves c) ∧
    (c.fwcBusy = 1 →
      let e := c.wr F.FWC_STATUS_UPDATE 0
      let d := e.tierRead .host 0 (e.rd F.FWC_SRC_ADDR * 4096) (min (2 ^ 25) (e.rd F.FWC_LEN_BYTES))
      exec (.stageComplete 1) s = s.leaves ((e.spoilBank b).fwcEnd 11) ∧
      (∀ f, f ≠ 1 → d.1.any (·.2) = true → exec (.stageComplete f) s = s.leaves ((d.2.spoilBank b).fwcEnd 11)) ∧
      (∀ f, f ≠ 1 → f ≠ 0 → d.1.any (·.2) = false → exec (.stageComplete f) s = s.leaves (((d.2.spoilBank b).event Flt.flash).fwcEnd 10)) ∧
      (d.1.any (·.2) = false → exec (.stageComplete 0) s = s.leaves ((d.2.flashWrite (b * 2 ^ 25) (d.1.map (·.1))).fwcEnd 0))) ∧
    (∀ (x : Chip) (k : Nat), k < 2 → (x.spoilBank k).imageTest k = 5 ∧ (x.spoilBank k).rd (if k = 0 then F.FWC_BANK_A_VER_FW_VER else F.FWC_BANK_B_VER_FW_VER) = 0) ∧
    (∀ x, c.fwcBusy ≠ 6 → exec (.setWriteComplete x) s = s.leaves c) ∧
    (c.fwcBusy = 6 → exec (.setWriteComplete true) s = s.leaves ((c.event Flt.flash).fwcEnd 10) ∧
      (let body := (bytesOf ((List.range 64).map (fun k => c.rd F.FWC_SET_BUF_WORD 0 0 k))).take 252
       exec (.setWriteComplete false) s = s.leaves ((c.flashWrite 0x4002000 (body ++ toLE 4 (crc32 body))).fwcEnd 0)))) ∧
  (∀ (s : State) (src k : Nat),
    let c := s.chip
    let live (d : Chip) : Prop := exec (.activateLive src) s = s.leaves d
    let step_ := c.rd F.FWC_STATUS_UPDATE
    let b := c.otherBank
    let range := c.header b 0x014
    let hrec := c.rd F.FWC_GAP_HREC
    let known : Prop := range % 65536 ≤ hrec ∧ hrec ≤ range / 65536
    let spoken : Bool := match c.hello with | none => true | some r => decide (c.imgIf b % 65536 ≤ r) && decide (r ≤ c.imgIf b / 65536)
    (c.reaches src F.FWC_CMD_CMD 0 0 = true → c.mst ≠ .off → c.mst ≠ .keepalive → c.fwcBusy = 0 → c.phase ≠ 8 →
      (c.verified = false → live (c.fwcEnd 2)) ∧
      (c.verified = true → ¬ known → live (c.fwcEnd 7)) ∧
      (c.verified = true → known → spoken = false → live (c.fwcEnd 6)) ∧
      (c.verified = true → known → spoken = true → c.mst = .booting ∨ c.anyRestarting = true → live (c.fwcEnd 2)) ∧
      (c.verified = true → known → spoken = true → c.mst ≠ .booting → c.anyRestarting = false →
        live { c.fwcStart 3 4 with update := some { bank := b, ver := c.fwVer, iface := c.fwIf, hrec := hrec } })) ∧
    (c.update = none ∨ step_ ≠ 4 → exec .liveLoadComplete s = s.leaves c) ∧
    (c.update.isSome = true → step_ = 4 → exec .liveLoadComplete s = s.leaves ((c.wr F.FWC_HANDOFF_BELL_BELL (c.bellAhead 4096)).wr F.FWC_STATUS_UPDATE 5)) ∧
    (c.update = none ∨ step_ ≠ 5 → exec .handoffBell s = s.leaves c) ∧
    (∀ u, c.update = some u → step_ = 5 →
      let e := c.advanceTo (c.rd F.FWC_HANDOFF_BELL_BELL * bellBeats)
      let d := ((List.range 16).foldl (fun c k => c.wr F.FWC_CORE_WD_MS 20 0 k) e)
      exec .handoffBell s = s.leaves { (d.setFw (d.imgVer u.bank) (d.imgIf u.bank) u.hrec).wr F.FWC_STATUS_UPDATE 6 with
        gap := true, update := some { u with wd := (List.range 16).map (fun k => e.rd F.FWC_CORE_WD_MS 0 k), at_ := d.beat } }) ∧
    (c.update = none ∨ step_ ≠ 6 ∨ 16 ≤ k → exec (.coreResumeReport k) s = s.leaves c) ∧
    (∀ u, c.update = some u → step_ = 6 → k < 16 →
      (u.reported.contains k = true → exec (.coreResumeReport k) s = s.leaves c) ∧
      (u.reported.contains k = false →
        let all := (List.range 16).all (fun j => decide (j = k) || u.reported.contains j || c.coreState j == 2)
        (all = false → exec (.coreResumeReport k) s = s.leaves { c with update := some { u with reported := k :: u.reported } }) ∧
        (all = true →
          let d := ((c.wr F.FWC_BOOT_ACTIVE u.bank).wr F.FWC_BOOT_TRIAL 0).wr F.FWC_STATUS_RUN_BANK u.bank
          exec (.coreResumeReport k) s = s.leaves ({ (d.wr F.FWC_GAP_HREC (d.imgHrec u.bank)).gapEnd u 0 with verified := false } : Chip)))) ∧
    (c.update = none ∨ step_ ≠ 6 → exec .handoffTimeout s = s.leaves c) ∧
    (∀ u, c.update = some u → step_ = 6 → exec .handoffTimeout s = s.leaves (((c.advanceTo (u.at_ + 13500000)).setFw u.ver u.iface u.hrec).gapEnd u 8)) ∧
    (∀ (d : Chip) (u : Update) (code : Nat),
      let e := (List.range 16).foldl (fun c k => c.wr F.FWC_CORE_WD_MS (u.wd.getD k 0) 0 k) d
      let e := ((e.wr F.FWC_GAP_DURATION (min 65535 ((e.beat - u.at_) / 9000))).wr F.FWC_STATUS_UPDATE 0).fwcEnd code
      d.gapEnd u code = ({ e with gap := false, update := none } : Chip).mbFlush))

/-- Power and reset (R403, R404, R414, R436). MODULE_RESET does nothing in OFF; else it drives the safe-state outputs, puts QUIET, HOLD and the
Ethernet pauses on the wires, leaves a flash write in progress without a good check, makes the module blank and BOOTING, counts itself, at most
65,535, and names its requester. Auxiliary power good does nothing while it is good already; else phase 0 begins with CAUSE 0 and COUNT 0. A loss of
neither supply does nothing; a loss clears the inputs that fell, in OFF nothing more, and else takes the snapshot where MAIN was present, leaves a
flash write without a good check and the module blank and OFF. Main power back shows, and where it was away, the module OFF and auxiliary power good,
phase 0 begins with CAUSE 0. A blank module is in phase 0 with no almanac, no queue and no key, keeps its variant, host memory, flash, training cache
and the registers that last, its clock reads on, and every other register but the coolant's senses has its reset value. The governor (R399, R400).
With the rails down no limit acts. With them up the power limit sets POWER and skips cycles; overcurrent sets CURRENT and its source; 105 °C sets
THERMAL and its source, 95 °C that, its source and skipping; the crib's limit sets THERMAL and its source; a rail sets RAIL and its source. The end of
power skipping counts the skipped cycles and ends it, while skipping for 95 °C goes on; with no power skipping it does nothing. SKIPPING reads 1 while
either skips, and its rise is an event of POWER_SKIP. The model's choices: an impossible event does nothing (log entry 2). -/
def Obligations.PowerResetAndGovernor : Prop :=
  (∀ (s : State) (src : Nat) (main aux : Bool),
    let c := s.chip
    let reset_ (d : Chip) : Prop := exec (.moduleReset src) s = s.leaves d
    let loss (d : Chip) : Prop := exec (.mainPowerLoss main aux) s = s.leaves d
    let back : Chip := { c with inputs := { c.inputs with mainGood := true } }
    (c.reaches src F.RST_CMD_CMD 0 0 = true →
      (c.mst = .off → reset_ c) ∧
      (c.mst ≠ .off →
        let d := (c.safeOutputs.flushSafe.cutFlash).blank .booting
        reset_ ((d.wr F.RST_CAUSE_COUNT (min 65535 (d.rd F.RST_CAUSE_COUNT + 1))).wr F.RST_CAUSE_CAUSE (if src = 0x3FF then 1 else if src = 0x3FC then 3 else 2)))) ∧
    (c.inputs.auxGood = true → exec .auxPowerGood s = s.leaves c) ∧
    (c.inputs.auxGood = false → exec .auxPowerGood s = s.leaves
      ((((({ c with inputs := { c.inputs with auxGood := true, kaSeen := (0, 0) } } : Chip).blank .booting).wr F.RST_CAUSE_CAUSE 0).wr F.RST_CAUSE_COUNT 0))) ∧
    (main = false → aux = false → loss c) ∧
    (main = true ∨ aux = true →
      let d : Chip := { c with inputs := { c.inputs with mainGood := c.inputs.mainGood && !main, auxGood := c.inputs.auxGood && !aux } }
      (c.mst = .off → loss d) ∧
      (c.mst ≠ .off → c.inputs.mainGood = true → loss (d.snapshot.cutFlash.blank .off)) ∧
      (c.mst ≠ .off → c.inputs.mainGood = false → loss (d.cutFlash.blank .off))) ∧
    (c.inputs.mainGood = true ∨ c.mst ≠ .off ∨ c.inputs.auxGood = false → exec .mainPowerReturn s = s.leaves back) ∧
    (c.inputs.mainGood = false → c.mst = .off → c.inputs.auxGood = true → exec .mainPowerReturn s = s.leaves ((back.blank .booting).wr F.RST_CAUSE_CAUSE 0)) ∧
    (∀ (x : Chip) (m : ModState), let d := x.blank m
      d.mst = m ∧ d.phase = 0 ∧ d.ctxs = [] ∧ d.queues = [] ∧ d.qps = [] ∧ d.keys = [] ∧ d.variant = x.variant ∧ d.host = x.host ∧ d.flash = x.flash ∧
      d.trainCache = x.trainCache ∧
      (∀ (f : Fld) (i j e : Nat), regLasts (f.key i j e) = false → f.key i j e ≠ F.MGT_COOLANT_F_LEAK.key 0 0 0 → f.key i j e ≠ F.MGT_COOLANT_F_LID.key 0 0 0 →
        d.rd f i j e = f.reset j e) ∧
      (∀ (f : Fld) (i j e : Nat), regLasts (f.key i j e) = true → f.key i j e ≠ F.MGT_RTC_SECONDS.key 0 0 0 → d.rd f i j e = x.rd f i j e) ∧
      d.rd F.MGT_RTC_SECONDS = x.rtc) ∧
    (c.fwcBusy ≠ 1 → c.fwcBusy ≠ 6 → c.cutFlash = c) ∧ (c.fwcBusy = 1 → c.cutFlash = c.spoilBank c.otherBank) ∧ (c.fwcBusy = 6 → c.cutFlash = c.spoilRecord)) ∧
  (∀ (s : State) (n : Nat),
    let c := s.chip
    (c.railsUp = true →
      exec .governorPowerLimit s = s.leaves ({ c.wr F.FWC_GOV_POWER 1 with skipPower := true } : Chip).skipNow ∧
      exec .overcurrent s = s.leaves ((c.wr F.FWC_GOV_CURRENT 1).onset Flt.current) ∧
      exec (.junctionTempLimit true) s = s.leaves ((c.wr F.FWC_GOV_THERMAL 1).onset Flt.tjMax) ∧
      exec (.junctionTempLimit false) s = s.leaves ({ (c.wr F.FWC_GOV_THERMAL 1).onset Flt.tjHigh with skipTemp := true } : Chip).skipNow ∧
      exec .cribTempLimit s = s.leaves ((c.wr F.FWC_GOV_THERMAL 1).onset Flt.cribTemp) ∧
      exec .railOutOfLimit s = s.leaves ((c.wr F.FWC_GOV_RAIL 1).onset Flt.rail)) ∧
    (c.railsUp = false →
      ∀ i ∈ [Instr.governorPowerLimit, .overcurrent, .junctionTempLimit true, .junctionTempLimit false, .cribTempLimit, .railOutOfLimit], exec i s = s.leaves c) ∧
    (c.skipPower = false → exec (.governorSkipEnd n) s = s.leaves c) ∧
    (c.skipPower = true → exec (.governorSkipEnd n) s = s.leaves ({ c.count F.FWC_GOV_SKIP_CYCLES n with skipPower := false } : Chip).skipNow) ∧
    (∀ x : Chip,
      let v := x.skipPower || x.skipTemp
      x.skipNow = (if v = true ∧ x.on F.FWC_GOV_SKIPPING = false then x.event Flt.powerSkip else x).wr F.FWC_GOV_SKIPPING (b2n v)))

/-- Events (R408–R411, R413): an event of a source that no rule names, or of one disabled and not fixed, does nothing. Of any other it is counted in
the current bucket, at most 255, and in the count, which at its top sets PAGE_STATUS.CNT_SAT; STATUS is set, and SEVERE where it brings the window sum
to N; there a SAFE-class source asks for the safe state and a CONTAIN-class one for the reset of its instance. With interrupts enabled, a rise of
STATUS or such a transition makes the message due. No other source changes. Fault source commands (R405, R408, R409, R412, R413, R429, R441, R450).
The message of an interrupt that is due goes 10 µs after the last or later, and until then nothing happens. A write of FORCE stores it, and its rise
is one event whatever ENABLE holds; of a source no rule names it does nothing. FLT_SRC_CFG of the selected source takes N and W, 0 as 1, and the class
its kind allows (3 as SAFE, CONTAIN of an instance alone, a fixed class stays), and a change of N or W clears its window; with a reserved source
selected it does nothing. A cause that ends leaves its source asserted no longer: the leak sense and the LEAK_IN pins with LEAK, the lid with LID, the
skipping with 95 °C; and phase 9 then ends where its alarm is acknowledged and neither sense is asserted. The model's choices: an impossible event
does nothing (log entry 2); what is sent stands in a list (7). -/
def Obligations.FaultSourcesAndEvents : Prop :=
  (∀ (c : Chip) (n : Nat),
    let x := c.src n
    let d := c.event n
    let y := d.src n
    let hit : Bool := decide (x.sum < x.n) && decide (x.n ≤ y.sum)
    (srcNamed n = false ∨ (x.enable = false ∧ srcFixed n = false) → d = c) ∧
    (srcNamed n = true → x.enable = true ∨ srcFixed n = true →
      y.status = true ∧ y.count = min (2 ^ 32 - 1) (x.count + 1) ∧ y.buckets.head? = some (if x.buckets = [] then 1 else min 255 (x.buckets.headD 0 + 1)) ∧
      y.buckets.tail = x.buckets.tail ∧ y.severe = (x.severe || hit) ∧
      (y.cls = x.cls ∧ y.n = x.n ∧ y.w = x.w ∧ y.enable = x.enable ∧ y.force = x.force ∧ y.persist = x.persist) ∧
      (x.count = 2 ^ 32 - 1 → d.rd F.PAGE_STATUS_CNT_SAT 3 = 1) ∧
      d.safeReq = (c.safeReq || (hit && x.cls == .safe)) ∧
      d.containReq = (if hit = true ∧ x.cls = .contain then c.containReq ++ [n - 512] else c.containReq) ∧
      d.irqDue = (c.irqDue || (c.on F.FLT_CTRL_IRQ_EN && (!x.status || hit))) ∧
      ∀ m, m ≠ n → d.src m = c.src m)) ∧
  (∀ (s : State) (src n cls k w : Nat) (v : Bool),
    let c := s.chip
    let waits : Bool := match c.irqLast with | some b => decide (c.beat < b + 9000) | none => false
    (c.irqDue = true → waits = false → exec .faultInterrupt s = s.leaves { c.emit (.msix 0 2) with irqDue := false, irqLast := some c.beat }) ∧
    (c.irqDue = false ∨ waits = true → exec .faultInterrupt s = s.leaves c) ∧
    (c.reachesElem src F.FLT_FORCE_FORCE (n / 32) = true →
      (srcNamed n = false → exec (.forceWrite src n v) s = s.leaves c) ∧
      (srcNamed n = true →
        let d := c.setSrc n { c.src n with force := v }
        (v = false ∨ (c.src n).force = true → exec (.forceWrite src n v) s = s.leaves d) ∧
        (v = true → (c.src n).force = false → exec (.forceWrite src n v) s = s.leaves (d.takeEvent n) ∧ (d.takeEvent n).src n = { (d.src n).addEvent with
          status := true, severe := (d.src n).severe || (decide ((d.src n).sum < (d.src n).n) && decide ((d.src n).n ≤ (d.src n).addEvent.sum)),
          count := min (2 ^ 32 - 1) ((d.src n).count + 1) }))) ∧
    (c.reaches src F.FLT_SRC_CFG_CLASS 0 0 = true →
      let m := c.rd F.FLT_SRC_SEL_SOURCE
      let x := c.src m
      let k' : FltClass := if srcFixed m then x.cls else if cls = 0 then .note else if cls = 1 then (if 512 ≤ m then .contain else .note) else .safe
      (srcNamed m = false → exec (.srcCfgWrite src cls k w) s = s.leaves c) ∧
      (srcNamed m = true → exec (.srcCfgWrite src cls k w) s = s.leaves (c.setSrc m { x with
        cls := k', n := max k 1, w := max w 1, buckets := if max k 1 = x.n ∧ max w 1 = x.w then x.buckets else [] }))) ∧
    (let d := if n = Flt.leak then ({ c with inputs := { c.inputs with leak := false, low := [] } } : Chip).showSenses
       else if n = Flt.lid then ({ c with inputs := { c.inputs with lid := false } } : Chip).showSenses
       else if n = Flt.tjHigh then ({ c with skipTemp := false } : Chip).skipNow else c
     let e := if srcNamed n then d.setSrc n { d.src n with persist := false } else d
     exec (.faultCauseGone n) s = s.leaves (if e.mst = .keepalive ∧ e.on F.MGT_KA_ALARM_ACKED ∧ e.inputs.leak = false ∧ e.inputs.lid = false then
       { e.setPhase 3 with mst := .booting } else e)))

/-- Heartbeats (R418–R423, R425, R426). A heartbeat on a link out of service only counts its flit; on a link other than 30 and 31, with a position
limit, or with no twin, it counts and acknowledges alone. Else it is recorded, shows FALLOW_PEER, and holds TWIN_LINK asserted while the mirror modes
differ. One that arrives by the bell's limit (64 beats after its expected arrival, and before the bell was judged) is kept as heard; the first of a
bell judges it where the twin is expected: failed where the twin is SAFE or names another twin, else good, and then this module follows the twin's
state: from NONE or PAIRED to PAIRED; RECEIVING for its LIFTING; a carrier ATTACHING for its ATTACHING, sending its copy; with no switch bell pending
a procedure the twin gave up ends with CANCELLED, RESYNC ends, and an attach given up ends with NO_WAIT. HEARTBEAT_MISSING, where the twin is
expected, the bell not judged and not both heartbeats heard, comes at the later limit and counts the links without one: with none heard and no mark of
the twin on the row link this bell, the bell failed; else it is an event of TWIN_LINK, and good where none was heard. A failed bell counts to three
and a good one clears the count; the third, with no switch bell pending, declares the twin lost: TWIN_LOST; a procedure in progress ends with LOST;
with the fallow almanac ADMITTED, and unless a copy was incomplete, the survivor names a LOSS, else it is BEREFT. With the twin not expected nothing
is judged. The model's choices: timed commands move BEAT (log entry 9); an impossible event does nothing (2). -/
def Obligations.HeartbeatsDecideTheBell : Prop :=
  ∀ (s : State) (k ack : Nat) (h : Heartbeat),
    let c := s.chip
    let hb (d : Chip) : Prop := exec (.heartbeat ⟨k, ack⟩ h) s = s.leaves d
    let e := (c.gotFlits k 1).linkAck k ack
    let twin : Prop := e.twinValid = true ∧ (k = 30 ∨ k = 31) ∧ e.inService k = true ∧ e.posLimited k = false
    (c.hasLink k = false → hb c) ∧
    (c.hasLink k = true → c.inService k = false → hb (c.gotFlits k 1)) ∧
    (c.hasLink k = true → c.inService k = true → ¬ twin → hb e) ∧
    (c.hasLink k = true → c.inService k = true → twin →
      let inTime : Prop := e.twin.checked ≠ some e.bell ∧ e.beat ≤ e.heartbeatBy k
      let first : Prop := e.twin.heard.any (fun x => x.2 == e.bell) = false
      let marked (d : Chip) : Chip := if h.mirror = d.on F.FLT_TWIN_CTRL_MIRROR then d.causeGone Flt.twinLink else d.onset Flt.twinLink
      let x : Chip := { e with twinHb := some h }
      let late := marked (x.wr F.FLT_TWIN_STATUS_FALLOW_PEER (b2n h.fallow))
      let d := marked ((x.onTwin (fun t => { t with heard := (k, e.bell) :: t.heard.filter (fun y => y.2 == e.bell) })).wr F.FLT_TWIN_STATUS_FALLOW_PEER (b2n h.fallow))
      (¬ inTime → hb late) ∧
      (inTime → ¬ first → hb d) ∧
      (inTime → first → h.state = 6 ∨ h.twin ≠ d.modId → hb (if d.expectsTwin then d.judgeBell true else d)) ∧
      (inTime → first → h.state ≠ 6 → h.twin = d.modId → hb ((if d.expectsTwin then d.judgeBell false else d).followTwin e.twinHb h))) ∧
    (let was : Nat := match c.twinHb with | some p => p.twinState | none => 0
     let f := c.followTwin c.twinHb h
     let ts := h.twinState
     (c.tw = Tw.none_ → ts = Tw.none_ ∨ ts = Tw.paired → f = c.setTw Tw.paired) ∧
     (c.tw = Tw.paired → ts = Tw.lifting → f = (c.setTw Tw.receiving).onTwin (fun t => { t with copying := true, copied := false })) ∧
     (c.tw = Tw.carrying → ts = Tw.attaching → f = (c.steadRanges (fun _ => true)).foldl
       (fun c r => c.mirrorSend r.1 ((c.vaRead steadSpace (r.1 + c.mirrorOfs) r.2).1.map (·.1)))
       ((c.setTw Tw.attaching).onTwin (fun t => { t with copying := true, copied := false }))) ∧
     (c.twin.subst.isSome = true → c.tw = Tw.lifting ∨ c.tw = Tw.receiving ∨ c.tw = Tw.attaching ∨ c.tw = Tw.resync → f = c) ∧
     (c.twin.subst = none →
       (c.inProcedure = true → ts = Tw.paired → was = Tw.lifting ∨ was = Tw.receiving ∨ was = Tw.attaching → f = (c.endProcedure 6).setTw Tw.paired) ∧
       (c.tw = Tw.resync → ts = Tw.paired → was = Tw.resync → f = (c.onTwin (fun t => { t with copying := false })).setTw Tw.paired) ∧
       (c.tw = Tw.attaching → ts = Tw.carrying → was = Tw.attaching → f = (c.endProcedure 5).setTw Tw.none_))) ∧
    (let got := [30, 31].filter (fun k => c.twin.heard.contains (k, c.bell))
     let d := ((c.advanceTo (max (c.heartbeatBy 30) (c.heartbeatBy 31))).onTwin (fun t => { t with checked := some c.bell })).count F.FLT_HB_MISSED_COUNT (2 - got.length)
     let row := rowLink (seatOf d.modId) (seatOf d.twinId)
     let rowGood : Bool := d.inService row && decide (Table.getD d.clk.markBell row 0 = d.bell) && (Table.find? row d.clk.markBell).isSome
     (c.expectsTwin = false ∨ c.twin.checked = some c.bell ∨ got = [30, 31] → exec .heartbeatMissing s = s.leaves c) ∧
     (c.expectsTwin = true → c.twin.checked ≠ some c.bell →
       (got = [30] ∨ got = [31] → exec .heartbeatMissing s = s.leaves (d.event Flt.twinLink)) ∧
       (got = [] → rowGood = true → exec .heartbeatMissing s = s.leaves ((d.event Flt.twinLink).judgeBell false)) ∧
       (got = [] → rowGood = false → exec .heartbeatMissing s = s.leaves (d.judgeBell true)))) ∧
    (let n := c.rd F.FLT_TWIN_STATUS_FAILED
     c.judgeBell false = c.wr F.FLT_TWIN_STATUS_FAILED 0 ∧
     (n < 2 ∨ c.twin.subst.isSome = true → c.judgeBell true = c.wr F.FLT_TWIN_STATUS_FAILED (min 3 (n + 1))) ∧
     (2 ≤ n → c.twin.subst = none → c.judgeBell true = (c.wr F.FLT_TWIN_STATUS_FAILED 3).declareLost)) ∧
    (let d := c.event Flt.twinLost
     let x : Chip := ({ (if d.inProcedure then d.endProcedure 7 else d) with lossCarried := true } : Chip).setTw Tw.paired
     let whole : Prop := d.inProcedure = false ∨ d.twin.copied = true ∨ d.tw = Tw.resync
     (whole → (x.ctx 1).st = .admitted → c.declareLost = x.announce ⟨0, x.twinId, x.modId, x.bellAhead 4096, 0, 0⟩) ∧
     (¬ whole ∨ (x.ctx 1).st ≠ .admitted → c.declareLost = x.toBereft.onTwin (fun t => { t with bereftDue := true })))

/-- Substitutions (R122, R421, R423, R425). With no link, and with no announcement on it, SUBSTITUTION_ANNOUNCE does nothing. The first copy of one is
taken from the link, kept, forwarded on every other link in service and taken: unless a LOSS pending or in force that names its carrier has the lower
carrier, it waits for its bell, one already past for the next with an event of SUBST_LATE; of a LOSS the slots of the lost position are held, and one
that names this module raises TWIN_DECLARED. A further copy is only taken from the link. SWITCH_BELL with none pending does nothing. Else, at that
bell, CMB_SUBST takes it, with what the lost module has not acknowledged redirected, or for ATTACH clears, and TWIN_BELL and PARTNER follow. In SAFE
nothing more happens. The carrier of a LOSS or LIFT zeroes the partner's chaff (LOSS), moves a running almanac into its ADMITTED fallow context,
re-issues the lost module's entries (LOSS) and is CARRYING; a lifted module's almanac ends with STOPPED and it goes mute; the carrier of an ATTACH
joins its almanac, ends its fallow context and sends its copy in RESYNC; the module that attaches joins its almanac in RESYNC. Then the running test
is made for both contexts. An ADMITTED context 0 that joins resumes from the entry after the BELL_WAIT, another is left. Mirroring (R420, R425). With
no link, or with no mirror frame on it, MIRROR_WRITE_RECEIVE does nothing; on a link other than 30 and 31, or with no twin, the frame is only taken
from the link. Else it is written in space 512 at VA + MIRROR_OFS, and at VA while this module attaches; where that range does not translate it is an
event of XLT_STEAD first. TWIN_CTRL_WRITE clears MIRROR_ERR where it writes 1 to it and stores RECOVER_HOLD. MIRROR stays where it does not change,
and while context 0 or 1 is ADMITTED, RUNNING or HELD, where a change sets MIRROR_ERR; else it is stored, and TWIN_LINK is asserted while it differs
from the mode of the twin's last heartbeat, and not while it agrees. The layout of an announcement is log entry 90. The model's choices: timed
commands move BEAT (log entry 9); an impossible event does nothing (2). -/
def Obligations.SubstitutionsAndMirrors : Prop :=
  (∀ (s : State) (k : Nat) (re : List Nat),
    let c := s.chip
    let announced (d : Chip) : Prop := exec (.substitutionAnnounce k) s = s.leaves d
    let isAnn (r : RxFrame) : Bool := !r.placed && !r.forward && r.frame.vc == 5 && r.frame.typ == 0x10
    (c.hasLink k = false ∨ (c.link k).rx.find? isAnn = none → announced c) ∧
    (∀ r, c.hasLink k = true → (c.link k).rx.find? isAnn = some r →
      let e := c.clientTakes k (fun f => f.vc == 5 && f.typ == 0x10)
      let y := Subst.parse r.frame.payload
      (c.twin.seen.contains y = true → announced e) ∧
      (c.twin.seen.contains y = false → announced (((e.onTwin (fun t => { t with seen := y :: t.seen })).floodSubst y (some k)).takeSubst y))) ∧
    (∀ y : Subst,
      let beaten (t : Subst) : Bool := t.kind == 0 && y.kind == 0 && t.lost == y.carrier && t.carrier == y.lost && decide (t.carrier < y.carrier)
      let lost : Bool := (match c.twin.subst with | some t => beaten t | none => false) ||
        (c.on F.CMB_SUBST_ACTIVE && beaten ⟨0, c.rd F.CMB_SUBST_LOST, c.rd F.CMB_SUBST_CARRIER, 0, 0, 0⟩)
      (lost = true → c.takeSubst y = c) ∧
      (lost = false →
        let d := if y.bell * bellBeats ≤ c.beat then (c.event Flt.substLate).onTwin (fun t => { t with subst := some { y with bell := (c.event Flt.substLate).bell + 1 } })
          else c.onTwin (fun t => { t with subst := some y })
        let d := if y.kind = 0 then d.holdSlots y.lost else d
        c.takeSubst y = (if y.kind = 0 ∧ y.lost = d.modId then d.event Flt.twinDeclared else d))) ∧
    (c.twin.subst = none → exec (.switchBell re) s = s.leaves c) ∧
    (∀ x, c.twin.subst = some x →
      let a := ((c.advanceTo (x.bell * bellBeats)).onTwin (fun t => { t with subst := none })).wr F.FLT_TWIN_BELL_BELL x.bell
      let b := if x.kind = 2 then ((a.wr F.CMB_SUBST_ACTIVE 0).wr F.CMB_SUBST_CARRIER 0).wr F.CMB_SUBST_LOST 0
        else (((a.wr F.CMB_SUBST_ACTIVE 1).wr F.CMB_SUBST_CARRIER x.carrier).wr F.CMB_SUBST_LOST x.lost).redirect x.lost
      let d := b.wr F.FLT_TWIN_STATUS_PARTNER (if x.kind = 2 then 0 else if x.carrier = b.modId then x.lost else if x.lost = b.modId then x.carrier else x.lost)
      let at_ (e : Chip) : Prop := exec (.switchBell re) s = s.leaves ([0, 1].foldl Chip.switchTest e)
      let copy (t : Twin) : Twin := { t with copying := true, copied := false }
      let runs (e : Chip) (n : Nat) : Bool := (e.ctx n).st == .running || (e.ctx n).st == .held
      (d.mst = .safe → exec (.switchBell re) s = s.leaves d) ∧
      (d.mst ≠ .safe → x.kind ≠ 2 → x.carrier = d.modId →
        let e := if x.kind = 0 then d.partnerChaff else d
        let e := if runs e 0 = true ∧ (e.ctx 1).st = .admitted then (if x.kind = 0 then re.foldl Chip.reissueLost (e.moveAlmanac 0 1) else e.moveAlmanac 0 1) else e
        at_ ((((e.setTw Tw.carrying).onTwin (fun t => { t with copying := false, copied := false })).passCauses (· == .lost)).reportReady)) ∧
      (d.mst ≠ .safe → x.kind = 1 → x.lost = d.modId → x.carrier ≠ d.modId →
        at_ { (if runs d 0 then d.almDone 0 Why.stopped else d) with mute := true, mirrorAll := false }) ∧
      (d.mst ≠ .safe → x.kind = 2 → x.carrier = d.modId →
        let e := d.joinAlmanac x
        let e := if runs e 1 then e.almDone 1 0 else e
        at_ ((e.steadRanges (·.mirrored)).foldl (fun c r => c.mirrorSend r.1 ((c.vaRead steadSpace r.1 r.2).1.map (·.1))) ((e.setTw Tw.resync).onTwin copy))) ∧
      (d.mst ≠ .safe → x.kind = 2 → x.lost = d.modId → x.carrier ≠ d.modId → at_ (((d.joinAlmanac x).setTw Tw.resync).onTwin copy)) ∧
      (d.mst ≠ .safe → x.carrier ≠ d.modId → x.lost ≠ d.modId ∨ (x.kind ≠ 1 ∧ x.kind ≠ 2) → at_ d)) ∧
    (∀ (d : Chip) (x : Subst),
      ((d.ctx 0).st ≠ .admitted → d.joinAlmanac x = d) ∧
      ((d.ctx 0).st = .admitted →
        let y := (d.joinAlmanac x).ctx 0
        y.st = (if d.hold.held then .held else .running) ∧ y.frames = [{ origin := x.bell * bellBeats, loopIdx := x.idx }] ∧ y.lastIssued = x.idx ∧ y.inFlight = []))) ∧
  (∀ (s : State) (k src v : Nat),
    let c := s.chip
    let mirror (d : Chip) : Prop := exec (.mirrorWriteReceive k) s = s.leaves d
    let ctrl (d : Chip) : Prop := exec (.twinCtrlWrite src v) s = s.leaves d
    let isMir (r : RxFrame) : Bool := !r.placed && !r.forward && r.frame.vc == 2 && r.frame.typ == 1
    let taken (d : Chip) : Chip := d.clientTakes k (fun f => f.vc == 2 && f.typ == 1)
    (c.hasLink k = false ∨ (c.link k).rx.find? isMir = none → mirror c) ∧
    (∀ r, c.hasLink k = true → (c.link k).rx.find? isMir = some r →
      let dst := leAt r.frame.payload 0 16 % 2 ^ 57 + (if c.tw = Tw.attaching then 0 else c.mirrorOfs)
      let data := r.frame.payload.drop 16
      (c.twinValid = false ∨ (k ≠ 30 ∧ k ≠ 31) → mirror (taken c)) ∧
      (c.twinValid = true → k = 30 ∨ k = 31 →
        (c.rangeOk steadSpace dst data.length .write = true → mirror (taken (c.vaWrite steadSpace dst (clean data)))) ∧
        (c.rangeOk steadSpace dst data.length .write = false → mirror (taken ((c.event Flt.xltStead).vaWrite steadSpace dst (clean data)))))) ∧
    (c.reaches src F.FLT_TWIN_CTRL_MIRROR 0 0 = true →
      let d := (if bit v 2 then c.wr F.FLT_TWIN_CTRL_MIRROR_ERR 0 else c).wr F.FLT_TWIN_CTRL_RECOVER_HOLD (b2n (bit v 1))
      (bit v 0 = d.on F.FLT_TWIN_CTRL_MIRROR → ctrl d) ∧
      (bit v 0 ≠ d.on F.FLT_TWIN_CTRL_MIRROR →
        (d.mirrorHeld = true → ctrl (d.wr F.FLT_TWIN_CTRL_MIRROR_ERR 1)) ∧
        (d.mirrorHeld = false →
          let e := d.wr F.FLT_TWIN_CTRL_MIRROR (b2n (bit v 0))
          (d.twinHb = none → ctrl e) ∧
          (∀ h, d.twinHb = some h → ctrl (if h.mirror = e.on F.FLT_TWIN_CTRL_MIRROR then e.causeGone Flt.twinLink else e.onset Flt.twinLink))))))

/-- Lift and attach (R422, R423, R425, R426, R432). LIFT ends with STATE (1) from another than the manager, outside PAIRED or with a switch bell
pending; with 4 while an instance is in service; with 2 without a heartbeat that shows the fallow almanac ADMITTED; with 3 where the two almanacs
differ; else with 0 it is LIFTING and sends its copy. ATTACH of the manager, while the twin's heartbeat shows it CARRYING for this module and no
procedure is in progress, makes it ATTACHING, and else ends with 1. CANCEL of the manager before a switch bell is announced ends the lift or attach
with 6 in PAIRED, and else gives 1. RECOVERED consents in CARRYING and BEREFT, and else gives 1. TWIN_COPY_COMPLETE: a lift's receiver announces LIFT,
once; a lift's sender, an attach and a resync whose copy is all acknowledged have it complete, an attach's carrier then announcing where it can and a
resync leaving the twins PAIRED; with some of it unacknowledged, or in another state, nothing happens. LIFT_DRAIN_COMPLETE leaves a mute LIFTING
module with every frame acknowledged LIFTED, and does nothing else. The order of the refusals of LIFT is log entry 125. The model's choices: an
impossible event does nothing (log entry 2). -/
def Obligations.LiftAndAttach : Prop :=
  ∀ (s : State) (src : Nat),
    let c := s.chip
    let lift (d : Chip) : Prop := exec (.lift src) s = s.leaves d
    let copied (d : Chip) : Prop := exec .twinCopyComplete s = s.leaves d
    let begins (t : Twin) : Twin := { t with copying := true, copied := false }
    let done (t : Twin) : Twin := { t with copying := false, copied := true }
    let serving : Bool := c.instances.any (fun i => c.insHome i == 1)
    (c.reaches src F.FLT_TWIN_CMD_CMD 0 0 = true →
      (src ≠ 0x3FF ∨ c.tw ≠ Tw.paired ∨ c.twin.subst.isSome = true → lift (c.twResult 1)) ∧
      (src = 0x3FF → c.tw = Tw.paired → c.twin.subst = none →
        (serving = true → lift (c.twResult 4)) ∧
        (serving = false → c.twinHb = none → lift (c.twResult 2)) ∧
        (∀ h, serving = false → c.twinHb = some h →
          (h.fallow = false → lift (c.twResult 2)) ∧
          (h.fallow = true → h.alm0 ≠ c.almanacId 0 → lift (c.twResult 3)) ∧
          (h.fallow = true → h.alm0 = c.almanacId 0 →
            let d : Chip := { ((c.twResult 0).setTw Tw.lifting).onTwin begins with mirrorAll := true }
            lift ((d.steadRanges (fun _ => true)).foldl (fun c r => c.mirrorSend r.1 ((c.vaRead steadSpace r.1 r.2).1.map (·.1))) d)))) ∧
      (let carried : Bool := match c.twinHb with | some h => h.twinState == Tw.carrying && h.twin == c.modId | none => false
       (src = 0x3FF → carried = true → c.inProcedure = false → exec (.attach src) s = s.leaves (((c.twResult 0).setTw Tw.attaching).onTwin begins)) ∧
       (src ≠ 0x3FF ∨ carried = false ∨ c.inProcedure = true → exec (.attach src) s = s.leaves (c.twResult 1))) ∧
      (let may : Prop := src = 0x3FF ∧ (c.tw = Tw.lifting ∨ c.tw = Tw.receiving ∨ c.tw = Tw.attaching) ∧ c.twin.subst = none
       (may → exec (.cancel src) s = s.leaves ((c.endProcedure 6).setTw Tw.paired)) ∧ (¬ may → exec (.cancel src) s = s.leaves (c.twResult 1))) ∧
      (c.tw = Tw.carrying ∨ c.tw = Tw.bereft → exec (.recovered src) s = s.leaves ({ c.twResult 0 with consent := true } : Chip).reportReady) ∧
      (c.tw ≠ Tw.carrying → c.tw ≠ Tw.bereft → exec (.recovered src) s = s.leaves (c.twResult 1))) ∧
    (c.tw = Tw.receiving →
      (c.twin.copied = true → copied c) ∧
      (c.twin.copied = false →
        let d := c.onTwin (fun t => { t with copied := true })
        copied (d.announce ⟨1, d.twinId, d.modId, d.bellAhead 4096, 0, 0⟩))) ∧
    (c.tw = Tw.lifting ∨ c.tw = Tw.attaching ∨ c.tw = Tw.resync → c.copyLeft ≠ 0 → copied c) ∧
    (c.copyLeft = 0 →
      (c.tw = Tw.lifting → copied (c.onTwin done)) ∧
      (c.tw = Tw.attaching → copied (c.onTwin done).twinPoll) ∧
      (c.tw = Tw.resync → copied ((c.onTwin (fun t => { t with copying := false })).setTw Tw.paired))) ∧
    (c.tw ≠ Tw.receiving → c.tw ≠ Tw.lifting → c.tw ≠ Tw.attaching → c.tw ≠ Tw.resync → copied c) ∧
    (let clear : Bool := (List.range 32).all (fun k => (c.link k).replay == [] && (c.link k).cur == [])
     (c.tw = Tw.lifting → c.mute = true → clear = true → exec .liftDrainComplete s = s.leaves (c.setTw Tw.lifted)) ∧
     (c.tw ≠ Tw.lifting ∨ c.mute = false ∨ clear = false → exec .liftDrainComplete s = s.leaves c))

/-- Senses and the keep-alive domain (R406, R429, R430, R441, R450). A sense that asserts shows in MGT_COOLANT_F and, with the main rails up, is an
event of its source, held. KA_SENSE_SAMPLE acts in OFF without auxiliary power alone: each input counts its asserted samples in a row, at most 3, and
one that reaches its second latches an alarm with the inputs as CAUSE and the time, or counts it, at most 255, where one is latched. KA_CAPACITOR_LOST
leaves the snapshot's words and time free values, VALID 0 and KA_LOST 1, no alarm and the clock at 0. KA_ACK acts in phase 9, from a sideband target
and with its key and bit alone: the first is an event of KA_ALARM, and phase 9 ends where no sense is asserted. LEAK_IN_SAMPLE does nothing in OFF or
of a pin that does not act as LEAK_IN; a low sample counts, to 10, shows in LEAK at the tenth and is then an event of LEAK with the rails up; a high
one forgets the pin, and ends LEAK with the last input that asserted it. General pins (R442, R443). GP_FUNC_WRITE of a pin beyond 15 does nothing. A
code that the variant has not is stored as 0 with GP_CFG_ERR. A function that the pin has already changes nothing more; another is stored, a pin that
was LEAK_IN asserting no longer, and the pin begins its hold of 40 ns (36 beats), in which CHG reads 1. GP_HOLD_END of a pin in its hold ends it at
its beat and clears CHG; of another pin it does nothing. The model's choices: timed commands move BEAT (log entry 9); an impossible event does nothing
(2). -/
def Obligations.SensesAndPins : Prop :=
  (∀ (s : State) (src v p : Nat) (leak lid : Bool),
    let c := s.chip
    let shown (i : Inputs) : Chip :=
      let d : Chip := { c with inputs := i }
      (d.wr F.MGT_COOLANT_F_LEAK (b2n (i.leak || i.low.any (fun x => decide (10 ≤ x.2))))).wr F.MGT_COOLANT_F_LID (b2n i.lid)
    let sample (d : Chip) : Prop := exec (.kaSenseSample leak lid) s = s.leaves d
    let ack (d : Chip) : Prop := exec (.kaAck src v) s = s.leaves d
    (let d := shown { c.inputs with leak := true }
     exec .leakSense s = s.leaves (if d.railsUp then d.onset Flt.leak else d)) ∧
    (let d := shown { c.inputs with lid := true }
     exec .lidOpen s = s.leaves (if d.railsUp then d.onset Flt.lid else d)) ∧
    (c.mst ≠ .off ∨ c.inputs.auxGood = true → sample c) ∧
    (c.mst = .off → c.inputs.auxGood = false →
      let a := if leak then min 3 (c.inputs.kaSeen.1 + 1) else 0
      let b := if lid then min 3 (c.inputs.kaSeen.2 + 1) else 0
      let d : Chip := { c with inputs := { c.inputs with kaSeen := (a, b), leak := leak, lid := lid } }
      (a ≠ 2 → b ≠ 2 → sample d) ∧
      (a = 2 ∨ b = 2 → d.on F.MGT_KA_ALARM_LATCHED = true → sample (d.wr F.MGT_KA_ALARM_COUNT (min 255 (d.rd F.MGT_KA_ALARM_COUNT + 1)))) ∧
      (a = 2 ∨ b = 2 → d.on F.MGT_KA_ALARM_LATCHED = false →
        sample (((d.wr F.MGT_KA_ALARM_LATCHED 1).wr F.MGT_KA_ALARM_CAUSE (b2n (a == 2) + 2 * b2n (b == 2))).wr F.MGT_KA_TIME_SECONDS d.rtc))) ∧
    (let d := (List.range 32).foldl (fun (c : Chip) g => c.free.2.wr F.FLT_SNAP_STATUS c.free.1 0 0 g) c
     let d := ((d.free.2.wr F.FLT_SNAP_TIME_SECONDS d.free.1).wr F.FLT_SNAP_INFO_VALID 0).wr F.FLT_SNAP_INFO_KA_LOST 1
     let d := ((((d.wr F.MGT_KA_ALARM_LATCHED 0).wr F.MGT_KA_ALARM_ACKED 0).wr F.MGT_KA_ALARM_CAUSE 0).wr F.MGT_KA_ALARM_COUNT 0).wr F.MGT_KA_TIME_SECONDS 0
     exec .kaCapacitorLost s = s.leaves { d.setRtc 0 with inputs := { c.inputs with kaSeen := (0, 0) } }) ∧
    (c.reaches src F.MGT_KA_ACK_KEY 0 0 = true →
      let taken : Prop := c.mst = .keepalive ∧ (src = 0x3FD ∨ src = 0x3FE) ∧ v / 65536 = 0x5AFE ∧ bit v 0 = true
      (¬ taken → ack c) ∧
      (taken →
        let d := if c.on F.MGT_KA_ALARM_ACKED then c else (c.wr F.MGT_KA_ALARM_ACKED 1).event Flt.kaAlarm
        ack (if d.mst = .keepalive ∧ d.on F.MGT_KA_ALARM_ACKED ∧ d.inputs.leak = false ∧ d.inputs.lid = false then { d.setPhase 3 with mst := .booting } else d))) ∧
    (c.pinActs p 5 = false ∨ c.mst = .off → exec (.leakInSample p true) s = s.leaves c ∧ exec (.leakInSample p false) s = s.leaves c) ∧
    (c.pinActs p 5 = true → c.mst ≠ .off →
      let others := c.inputs.low.filter (fun x => x.1 ≠ p)
      let n := min 10 (Table.getD c.inputs.low p 0 + 1)
      let d := shown { c.inputs with low := (p, n) :: others }
      let e := shown { c.inputs with low := others }
      exec (.leakInSample p true) s = s.leaves (if n = 10 ∧ d.railsUp then d.onset Flt.leak else d) ∧
      exec (.leakInSample p false) s = s.leaves (if c.inputs.leak = true ∨ others.any (fun x => decide (10 ≤ x.2)) = true then e else e.causeGone Flt.leak))) ∧
  (∀ (s : State) (src p f : Nat),
    let c := s.chip
    let func (d : Chip) : Prop := exec (.gpFuncWrite src p f) s = s.leaves d
    (16 ≤ p → func c) ∧
    (p < 16 → c.reaches src (gpReg p) 0 0 = true →
      let g := f % 16
      let bad : Prop := 7 ≤ g ∨ ((g = 1 ∨ g = 2) ∧ c.variant = .r)
      let changes (d : Chip) (g : Nat) : Prop :=
        (g = d.gpFunc p → func d) ∧
        (g ≠ d.gpFunc p →
          let e := (if d.gpFunc p = 5 then d.leakInEnd p else d).wr (gpFld p) g
          func (({ e with holds := ⟨p, g, e.beat + 36⟩ :: e.holds.filter (fun h => h.pin ≠ p) } : Chip).wr F.MGT_GP_IN_CHG (setBit (e.rd F.MGT_GP_IN_CHG) p true)))
      (¬ bad → changes c g) ∧ (bad → changes (c.wr F.MGT_STATUS_GP_CFG_ERR 1) 0)) ∧
    (c.pinHeld p = false → exec (.gpHoldEnd p) s = s.leaves c) ∧
    (∀ h, c.holds.find? (fun h => h.pin == p) = some h →
      let d := c.advanceTo h.until_
      exec (.gpHoldEnd p) s = s.leaves { d.wr F.MGT_GP_IN_CHG (setBit (d.rd F.MGT_GP_IN_CHG) p false) with holds := d.holds.filter (fun h => h.pin ≠ p) }))

/-- The SPI target (R42–R44, R444–R446): while nothing answers there, no transaction does anything. Else a word written or read acts as requester
0x3FE, at each address in turn; one that breaks a rule is recorded, sets SPI_VIOL and reads zero; a transaction's end judges its clock edges. The
SMBus target (R43, R447, R448): while nothing answers there, no transaction does anything. Else commands 0x01 and 0x02 write and read one word as
requester 0x3FD; a wrong byte count sets SMB_FORMAT, a wrong PEC SMB_PEC, a word that breaks a rule SMB_VIOL, and none of these is performed; command
0x03 reads READY and the flags; a time-out discards the transaction. The model's choices: an impossible event does nothing (log entry 2); what is sent
stands in a list (7). -/
def Obligations.SidebandTransactions : Prop :=
  (∀ (s : State) (addr n v cmd edges : Nat) (ws : List Nat),
    let c := s.chip
    (c.busDead 0x3FE = true → ∀ i ∈ [Instr.spiWrite addr ws, .spiRead addr n, .spiStatus, .spiCsRelease cmd edges], exec i s = s.leaves c) ∧
    (c.busDead 0x3FE = false →
    (exec (.spiWrite addr []) s = s.leaves c ∧
      (addr % 4 = 0 → c.busBad 0x3FE addr true false = none →
        exec (.spiWrite addr (v :: ws)) s = s.leaves ((c.writeWord 0x3FE addr v).spiPuts (addr + 4) ws)) ∧
      (∀ w, c.busBad 0x3FE addr true (addr % 4 != 0) = some w →
        exec (.spiWrite addr (v :: ws)) s = s.leaves (((c.busViol 0x3FE addr true w).wr F.MGT_STATUS_SPI_VIOL 1).spiPuts (addr + 4) ws))) ∧
    (exec (.spiRead addr 0) s = s.leaves c ∧
      (addr % 4 = 0 → c.busBad 0x3FE addr false false = none → exec (.spiRead addr (n + 1)) s =
        s.leaves (((c.readWord 0x3FE addr).2.emit (.sideband 0x3FE (c.readWord 0x3FE addr).1)).spiGets (addr + 4) n)) ∧
      (∀ w, c.busBad 0x3FE addr false (addr % 4 != 0) = some w → exec (.spiRead addr (n + 1)) s =
        s.leaves ((((c.busViol 0x3FE addr false w).wr F.MGT_STATUS_SPI_VIOL 1).emit (.sideband 0x3FE 0)).spiGets (addr + 4) n))) ∧
    (exec .spiStatus s = s.leaves (c.emit (.sideband 0x3FE (0x80 + c.rd F.MGT_STATUS_SPI_VIOL + 2 * c.rd F.MGT_STATUS_SPI_PARTIAL +
      4 * c.rd F.MGT_STATUS_SPI_SHORT + 8 * c.rd F.MGT_STATUS_SPI_BADCMD)))) ∧
    ((edges < 8 → exec (.spiCsRelease cmd edges) s = s.leaves (c.wr F.MGT_STATUS_SPI_SHORT 1)) ∧
      (8 ≤ edges → cmd = 5 → exec (.spiCsRelease cmd edges) s = s.leaves c) ∧
      (8 ≤ edges → cmd ≠ 2 → cmd ≠ 5 → cmd ≠ 11 → exec (.spiCsRelease cmd edges) s = s.leaves (c.wr F.MGT_STATUS_SPI_BADCMD 1)) ∧
      (8 ≤ edges → edges < 40 → cmd = 2 ∨ cmd = 11 → exec (.spiCsRelease cmd edges) s = s.leaves (c.wr F.MGT_STATUS_SPI_SHORT 1)) ∧
      (40 ≤ edges → cmd = 2 → exec (.spiCsRelease cmd edges) s = s.leaves (if (edges - 40) % 32 = 0 then c else c.wr F.MGT_STATUS_SPI_PARTIAL 1)) ∧
      (40 ≤ edges → cmd = 11 →
        exec (.spiCsRelease cmd edges) s = s.leaves (if 72 ≤ edges ∧ (edges - 40) % 32 = 0 then c else c.wr F.MGT_STATUS_SPI_PARTIAL 1))))) ∧
  (∀ (s : State) (count addr v : Nat) (pec : Bool),
    let c := s.chip
    (c.busDead 0x3FD = true → ∀ i ∈ [Instr.smbBlockWrite count addr v pec, .smbProcessCall count addr pec, .smbReadByte], exec i s = s.leaves c) ∧
    (c.busDead 0x3FD = false →
    (count ≠ 8 → exec (.smbBlockWrite count addr v pec) s = s.leaves (c.wr F.MGT_STATUS_SMB_FORMAT 1)) ∧
    (exec (.smbBlockWrite 8 addr v true) s = s.leaves (c.wr F.MGT_STATUS_SMB_PEC 1)) ∧
    (addr % 4 = 0 → c.busBad 0x3FD addr true false = none → exec (.smbBlockWrite 8 addr v false) s = s.leaves (c.writeWord 0x3FD addr v)) ∧
    (∀ w, c.busBad 0x3FD addr true (addr % 4 != 0) = some w →
      exec (.smbBlockWrite 8 addr v false) s = s.leaves ((c.busViol 0x3FD addr true w).wr F.MGT_STATUS_SMB_VIOL 1)) ∧
    (count ≠ 4 → exec (.smbProcessCall count addr pec) s = s.leaves (c.wr F.MGT_STATUS_SMB_FORMAT 1)) ∧
    (exec (.smbProcessCall 4 addr true) s = s.leaves (c.wr F.MGT_STATUS_SMB_PEC 1)) ∧
    (addr % 4 = 0 → c.busBad 0x3FD addr false false = none →
      exec (.smbProcessCall 4 addr false) s = s.leaves ((c.readWord 0x3FD addr).2.emit (.sideband 0x3FD (c.readWord 0x3FD addr).1))) ∧
    (∀ w, c.busBad 0x3FD addr false (addr % 4 != 0) = some w → exec (.smbProcessCall 4 addr false) s =
      s.leaves (((c.busViol 0x3FD addr false w).wr F.MGT_STATUS_SMB_VIOL 1).emit (.sideband 0x3FD 0))) ∧
    (exec .smbReadByte s = s.leaves (c.emit (.sideband 0x3FD
      (0x80 + 4 * c.rd F.MGT_STATUS_SMB_PEC + 2 * c.rd F.MGT_STATUS_SMB_FORMAT + c.rd F.MGT_STATUS_SMB_VIOL))))) ∧
    exec .smbTimeout s = s.leaves c)
end

