-- ==== Sys2Proof/Laws/Table.lean ====
section
/-! SUPPORT. Laws/Table.lean: what reading and writing sparse tables and register fields do to each other. -/
namespace Sys2Proof.Machine

variable {α : Type}

@[simp] theorem Table.find?_nil (k : Nat) : Table.find? k ([] : Table α) = none := rfl

theorem Table.find?_insert_self (k : Nat) (v : α) (t : Table α) : Table.find? k (Table.insert k v t) = some v := by
  induction t with
  | nil => simp [Table.insert, Table.find?]
  | cons e t ih =>
    obtain ⟨j, u⟩ := e
    simp only [Table.insert]
    split
    · simp [Table.find?]
    · split
      · simp [Table.find?]
      · next h => simp [Table.find?, ih]; omega

theorem Table.find?_insert_ne {k j : Nat} (h : j ≠ k) (v : α) (t : Table α) : Table.find? j (Table.insert k v t) = Table.find? j t := by
  induction t with
  | nil => simp [Table.insert, Table.find?]; omega
  | cons e t ih =>
    obtain ⟨i, u⟩ := e
    simp only [Table.insert]
    split
    · simp only [Table.find?]; split <;> first | omega | rfl
    · split
      · next h2 => subst h2; simp only [Table.find?]; split <;> first | omega | rfl
      · simp only [Table.find?, ih]

theorem Table.find?_erase_self (k : Nat) (t : Table α) : Table.find? k (Table.erase k t) = none := by
  induction t with
  | nil => rfl
  | cons e t ih =>
    obtain ⟨j, u⟩ := e
    simp only [Table.erase, List.filter_cons] at ih ⊢
    split
    · next h => simp only [decide_eq_true_eq] at h; simpa [Table.find?, h] using ih
    · exact ih

theorem Table.find?_erase_ne {k j : Nat} (h : j ≠ k) (t : Table α) : Table.find? j (Table.erase k t) = Table.find? j t := by
  induction t with
  | nil => rfl
  | cons e t ih =>
    obtain ⟨i, u⟩ := e
    simp only [Table.erase, List.filter_cons] at ih ⊢
    split
    · simp only [Table.find?]; split
      · rfl
      · exact ih
    · next h2 =>
      simp only [decide_eq_true_eq] at h2
      have : i ≠ j := by omega
      simpa [Table.find?, this] using ih

/-- A table reads back what `setD` stored. -/
theorem Table.getD_setD_self [DecidableEq α] (t : Table α) (k : Nat) (d v : α) : Table.getD (Table.setD t k d v) k d = v := by
  simp only [Table.getD, Table.setD]
  split
  · next h => simp [Table.find?_erase_self, h]
  · simp [Table.find?_insert_self]

/-- `setD` leaves every other key as it was. -/
theorem Table.getD_setD_ne [DecidableEq α] {k j : Nat} (h : j ≠ k) (t : Table α) (d v e : α) :
    Table.getD (Table.setD t k d v) j e = Table.getD t j e := by
  simp only [Table.getD, Table.setD]
  split
  · rw [Table.find?_erase_ne h]
  · rw [Table.find?_insert_ne h, Table.find?_erase_ne h]

/-- A field holds the low bits of what was written to it. -/
@[simp] theorem Chip.rd_wr_self (c : Chip) (f : Fld) (v i b a : Nat) : (c.wr f v i b a).rd f i b a = v % 2 ^ f.width := by
  simp [Chip.rd, Chip.wr, Table.getD_setD_self]

/-- A write to one field's copy leaves every other copy and field as it was. -/
theorem Chip.rd_wr_ne (c : Chip) {f g : Fld} {i j b d a e : Nat} (v : Nat) (h : f.key i b a ≠ g.key j d e) :
    (c.wr g v j d e).rd f i b a = c.rd f i b a := by
  simp only [Chip.rd, Chip.wr]; exact Table.getD_setD_ne h _ _ _ _

/-- Fields of different registers, or of different bits of one register, have different keys in the same copy. -/
theorem Fld.key_ne_of_off (f g : Fld) (i j b d : Nat) (h : f.page + i = g.page + j) (hb : b = d) (hl : f.lo < 256) (hm : g.lo < 256)
    (hn : f.off ≠ g.off ∨ f.lo ≠ g.lo) : f.key i b 0 ≠ g.key j d 0 := by
  subst hb
  simp only [Fld.key, h]
  omega

end Sys2Proof.Machine
end

