-- ==== Sys2Proof/Laws/Memory.lean ====
section
/-! SUPPORT. Laws/Memory.lean: every operation over a byte memory keeps its canonical form, and what a stored byte reads. -/
namespace Sys2Proof.Machine

theorem rising_iff (l : List Nat) : rising l = true ↔ l.Pairwise (· < ·) := by
  induction l with
  | nil => simp [rising]
  | cons a t ih =>
    cases t with
    | nil => simp [rising]
    | cons b t =>
      simp only [rising, Bool.and_eq_true, decide_eq_true_eq, ih]
      constructor
      · rintro ⟨h, hp⟩
        refine List.pairwise_cons.2 ⟨fun x hx => ?_, hp⟩
        rcases List.mem_cons.1 hx with rfl | hx
        · exact h
        · exact Nat.lt_trans h ((List.pairwise_cons.1 hp).1 x hx)
      · intro h
        exact ⟨(List.pairwise_cons.1 h).1 b (by simp), (List.pairwise_cons.1 h).2⟩

theorem apart_iff (l : List URange) : apart l = true ↔ (∀ r ∈ l, r.lo < r.hi) ∧ l.Pairwise (fun r q => r.hi ≤ q.lo) := by
  induction l with
  | nil => simp [apart]
  | cons a t ih =>
    cases t with
    | nil => simp [apart]
    | cons b t =>
      simp only [apart, Bool.and_eq_true, decide_eq_true_eq, ih]
      constructor
      · rintro ⟨⟨h1, h2⟩, hl, hp⟩
        refine ⟨fun r hr => ?_, List.pairwise_cons.2 ⟨fun x hx => ?_, hp⟩⟩
        · rcases List.mem_cons.1 hr with rfl | hr
          · exact h1
          · exact hl r hr
        · rcases List.mem_cons.1 hx with rfl | hx
          · exact h2
          · have := (List.pairwise_cons.1 hp).1 x hx
            have := hl b (by simp)
            omega
      · rintro ⟨hl, hp⟩
        exact ⟨⟨hl a (by simp), (List.pairwise_cons.1 hp).1 b (by simp)⟩, fun r hr => hl r (List.mem_cons_of_mem _ hr), (List.pairwise_cons.1 hp).2⟩

theorem Mem.wf_iff (m : Mem) : m.wf = true ↔ (m.cells.map (·.1)).Pairwise (· < ·) ∧ (∀ e ∈ m.cells, e.2 ≠ 0 ∨ (undefTag e.1 m.undef).isSome = true) ∧
    ((∀ r ∈ m.undef, r.lo < r.hi) ∧ m.undef.Pairwise (fun r q => r.hi ≤ q.lo)) ∧ m.poison.Pairwise (· < ·) ∧ ∀ w ∈ m.poison, w % 64 = 0 := by
  simp [Mem.wf, rising_iff, apart_iff, and_assoc]

theorem Table.mem_insert {α : Type} {k : Nat} {v : α} {t : Table α} {e : Nat × α} (h : e ∈ Table.insert k v t) : e = (k, v) ∨ e ∈ t := by
  induction t with
  | nil => simpa [Table.insert] using h
  | cons f t ih =>
    obtain ⟨j, u⟩ := f
    simp only [Table.insert] at h
    split at h
    · simpa using h
    · split at h
      · rcases List.mem_cons.1 h with rfl | h
        · exact .inl rfl
        · exact .inr (List.mem_cons_of_mem _ h)
      · rcases List.mem_cons.1 h with rfl | h
        · exact .inr (by simp)
        · rcases ih h with h | h
          · exact .inl h
          · exact .inr (List.mem_cons_of_mem _ h)

theorem Table.rising_insert {α : Type} {k : Nat} {v : α} {t : Table α} (h : (t.map (·.1)).Pairwise (· < ·)) :
    ((Table.insert k v t).map (·.1)).Pairwise (· < ·) := by
  induction t with
  | nil => simp [Table.insert]
  | cons f t ih =>
    obtain ⟨j, u⟩ := f
    simp only [List.map_cons, List.pairwise_cons] at h
    simp only [Table.insert]
    split
    · next hk =>
      simp only [List.map_cons, List.pairwise_cons]
      refine ⟨fun x hx => ?_, h⟩
      rcases List.mem_cons.1 hx with rfl | hx
      · exact hk
      · exact Nat.lt_trans hk (h.1 x hx)
    · split
      · next hk => subst hk; simpa using h
      · next h1 h2 =>
        simp only [List.map_cons, List.pairwise_cons]
        refine ⟨fun x hx => ?_, ih h.2⟩
        obtain ⟨e, he, rfl⟩ := List.mem_map.1 hx
        rcases Table.mem_insert he with rfl | he
        · simp only; omega
        · exact h.1 _ (List.mem_map_of_mem he)

theorem Table.rising_erase {α : Type} (k : Nat) {t : Table α} (h : (t.map (·.1)).Pairwise (· < ·)) :
    ((Table.erase k t).map (·.1)).Pairwise (· < ·) := h.sublist ((List.filter_sublist).map _)

/-- Cutting [lo, hi) out of the undefined ranges leaves every address outside it as it was. -/
theorem undefTag_cut {a lo hi : Nat} (ha : a < lo ∨ hi ≤ a) (l : List URange) : undefTag a (l.flatMap (URange.cut lo hi)) = undefTag a l := by
  induction l with
  | nil => rfl
  | cons r t ih =>
    simp only [List.flatMap_cons, URange.cut]
    split <;> split <;> simp only [List.nil_append, List.cons_append, undefTag, ih] <;>
      (repeat' split) <;> first | rfl | omega

theorem undefTag_isSome {a : Nat} {l : List URange} : (undefTag a l).isSome = true ↔ ∃ r ∈ l, r.lo ≤ a ∧ a < r.hi := by
  induction l with
  | nil => simp [undefTag]
  | cons r t ih =>
    simp only [undefTag]
    split
    · next h => simp [h]
    · next h => simp [ih, h]

theorem cut_mem {lo hi : Nat} {r q : URange} (h : q ∈ URange.cut lo hi r) : r.lo ≤ q.lo ∧ q.hi ≤ r.hi ∧ q.lo < q.hi ∧ (q.hi ≤ lo ∨ hi ≤ q.lo) := by
  simp only [URange.cut, List.mem_append] at h
  rcases h with h | h <;> split at h <;> simp only [List.mem_singleton, List.not_mem_nil] at h <;> subst h <;> simp only <;> omega

theorem cut_apart {lo hi : Nat} (h : lo ≤ hi) (r : URange) : (URange.cut lo hi r).Pairwise (fun r q => r.hi ≤ q.lo) := by
  simp only [URange.cut]
  split <;> split <;> simp <;> omega

/-- Zeroing a range keeps the form. -/
theorem Mem.zero_wf {m : Mem} (lo n : Nat) (h : m.wf = true) : (m.zero lo n).wf = true := by
  rw [Mem.wf_iff] at h ⊢
  obtain ⟨h1, h2, ⟨h3, h4⟩, h5, h6⟩ := h
  refine ⟨h1.sublist (List.filter_sublist.map _), fun e he => ?_, ⟨fun r hr => ?_, ?_⟩, h5.sublist List.filter_sublist, fun w hw => h6 w (List.mem_filter.1 hw).1⟩
  · obtain ⟨he, hn⟩ := List.mem_filter.1 he
    simp only [decide_eq_true_eq] at hn
    rw [show (m.zero lo n).undef = m.undef.flatMap (URange.cut lo (lo + n)) from rfl, undefTag_cut (by omega)]
    exact h2 e he
  · obtain ⟨q, hq, hr⟩ := List.mem_flatMap.1 hr
    exact (cut_mem hr).2.2.1
  · refine List.pairwise_flatMap.2 ⟨fun r _ => cut_apart (by omega) r, h4.imp (fun {r q} hrq x hx y hy => ?_)⟩
    have := cut_mem hx
    have := cut_mem hy
    omega

/-- Storing one byte keeps the form. -/
theorem Mem.put_wf {m : Mem} (a : Nat) (b : Byte) (h : m.wf = true) : (m.put a b).wf = true := by
  rw [Mem.wf_iff] at h
  obtain ⟨h1, h2, h3, h5⟩ := h
  simp only [Mem.put]
  split
  · rw [Mem.wf_iff]
    exact ⟨Table.rising_erase a h1, fun e he => h2 e (List.mem_filter.1 he).1, h3, h5⟩
  · next hb =>
    rw [Mem.wf_iff]
    refine ⟨Table.rising_insert (Table.rising_erase a h1), fun e he => ?_, h3, h5⟩
    rcases Table.mem_insert he with rfl | he
    · by_cases hz : b = 0
      · exact .inr (Option.isSome_iff_ne_none.2 (fun hn => hb ⟨hz, hn⟩))
      · exact .inl hz
    · exact h2 e (List.mem_filter.1 he).1

/-- Storing a byte string keeps the form. -/
theorem Mem.write_wf {m : Mem} (a : Nat) (l : List Byte) (h : m.wf = true) : (m.write a l).wf = true := by
  induction l generalizing m a with
  | nil => exact h
  | cons b t ih => exact ih _ (Mem.put_wf a b h)

/-- Making a range undefined keeps the form. -/
theorem Mem.undefine_wf {m : Mem} (tag lo n : Nat) (h : m.wf = true) : (m.undefine tag lo n).wf = true := by
  simp only [Mem.undefine]
  split
  · exact h
  next hn =>
  have hz := Mem.zero_wf lo n h
  have hcut : ∀ r ∈ (m.zero lo n).undef, r.hi ≤ lo ∨ lo + n ≤ r.lo := fun r hr => by
    obtain ⟨q, _, hr⟩ := List.mem_flatMap.1 hr
    exact (cut_mem hr).2.2.2
  rw [Mem.wf_iff] at hz ⊢
  obtain ⟨h1, h2, ⟨h3, h4⟩, h5, h6⟩ := hz
  refine ⟨h1, fun e he => ?_, ⟨fun r hr => ?_, ?_⟩, h5, h6⟩
  · rcases h2 e he with h | h
    · exact .inl h
    · refine .inr ?_
      obtain ⟨r, hr, hx⟩ := undefTag_isSome.1 h
      refine undefTag_isSome.2 ⟨r, ?_, hx⟩
      rcases Nat.lt_or_ge lo r.hi with hl | hl
      · exact List.mem_append_right _ (List.mem_cons_of_mem _ (List.mem_filter.2 ⟨hr, by simpa using hl⟩))
      · exact List.mem_append_left _ (List.mem_filter.2 ⟨hr, by simpa using hl⟩)
  · rcases List.mem_append.1 hr with hr | hr
    · exact h3 r (List.mem_filter.1 hr).1
    · rcases List.mem_cons.1 hr with rfl | hr
      · simp only; omega
      · exact h3 r (List.mem_filter.1 hr).1
  · refine List.pairwise_append.2 ⟨h4.sublist List.filter_sublist, List.pairwise_cons.2 ⟨fun q hq => ?_, h4.sublist List.filter_sublist⟩, fun r hr q hq => ?_⟩
    · obtain ⟨hq, hh⟩ := List.mem_filter.1 hq
      have := hcut q hq
      have := h3 q hq
      simp only [decide_eq_true_eq] at hh
      simp only; omega
    · obtain ⟨hr, hh⟩ := List.mem_filter.1 hr
      simp only [decide_eq_true_eq] at hh
      rcases List.mem_cons.1 hq with rfl | hq
      · exact hh
      · obtain ⟨hq, hg⟩ := List.mem_filter.1 hq
        have := hcut q hq
        have := h3 q hq
        simp only [decide_eq_true_eq] at hg
        omega

theorem wordsTouched_spec (a n : Nat) : (wordsTouched a n).Pairwise (· < ·) ∧
    ∀ w ∈ wordsTouched a n, w % 64 = 0 ∧ a / 64 * 64 ≤ w ∧ w < a / 64 * 64 + 64 * (wordsTouched a n).length := by
  simp only [wordsTouched]
  split
  · simp
  · refine ⟨List.pairwise_map.2 (List.pairwise_lt_range.imp (by omega)), fun w hw => ?_⟩
    obtain ⟨k, hk, rfl⟩ := List.mem_map.1 hw
    simp only [List.length_map, List.length_range, List.mem_range] at hk ⊢
    omega

/-- Poisoning words keeps the form. -/
theorem Mem.setPoison_wf {m : Mem} (a n : Nat) (h : m.wf = true) : (m.setPoison a n).wf = true := by
  rw [Mem.wf_iff] at h ⊢
  obtain ⟨h1, h2, h3, h5, h6⟩ := h
  have hw := wordsTouched_spec a n
  refine ⟨h1, h2, h3, List.pairwise_append.2 ⟨List.pairwise_append.2 ⟨h5.sublist List.filter_sublist, hw.1, fun x hx y hy => ?_⟩,
    h5.sublist List.filter_sublist, fun x hx y hy => ?_⟩, fun w hx => ?_⟩
  · have := (hw.2 y hy).2.1
    have := (List.mem_filter.1 hx).2
    simp only [decide_eq_true_eq] at this
    omega
  · have hy := (List.mem_filter.1 hy).2
    simp only [decide_eq_true_eq] at hy
    rcases List.mem_append.1 hx with hx | hx
    · have hx := (List.mem_filter.1 hx).2
      simp only [decide_eq_true_eq] at hx
      omega
    · have := (hw.2 x hx).2.2
      omega
  · rcases List.mem_append.1 hx with hx | hx
    · rcases List.mem_append.1 hx with hx | hx
      · exact h6 w (List.mem_filter.1 hx).1
      · exact (hw.2 w hx).1
    · exact h6 w (List.mem_filter.1 hx).1

/-- Cleaning words keeps the form. -/
theorem Mem.clearPoison_wf {m : Mem} (a n : Nat) (h : m.wf = true) : (m.clearPoison a n).wf = true := by
  rw [Mem.wf_iff] at h ⊢
  obtain ⟨h1, h2, h3, h5, h6⟩ := h
  exact ⟨h1, h2, h3, h5.sublist List.filter_sublist, fun w hw => h6 w (List.mem_filter.1 hw).1⟩

theorem Mem.foldl_wf {α : Type} (f : Mem → α → Mem) (hf : ∀ m x, m.wf = true → (f m x).wf = true) (l : List α) {m : Mem} (h : m.wf = true) :
    (l.foldl f m).wf = true := by
  induction l generalizing m with
  | nil => exact h
  | cons x t ih => exact ih (hf m x h)

/-- The poison of a store keeps the form. -/
theorem Mem.poisonAfter_wf {m : Mem} (a : Nat) (data : List MByte) (h : m.wf = true) : (m.poisonAfter a data).wf = true := by
  refine Mem.foldl_wf _ (fun m w h => ?_) _ h
  dsimp only
  generalize List.take _ _ = part
  split
  · exact Mem.setPoison_wf _ _ h
  · split
    · exact Mem.clearPoison_wf _ _ h
    · exact h

/-- A store keeps the form. -/
theorem Mem.store_wf {m : Mem} (a : Nat) (data : List MByte) (h : m.wf = true) : (m.store a data).wf = true :=
  Mem.poisonAfter_wf _ _ (Mem.write_wf _ _ h)

/-- A copy of a range keeps the form of the memory it lands in, whatever the other holds. -/
theorem Mem.copyFrom_wf {dst : Mem} (d : Nat) (src : Mem) (s n : Nat) (h : dst.wf = true) : (dst.copyFrom d src s n).wf = true :=
  Mem.foldl_wf _ (fun _ _ h => Mem.setPoison_wf _ _ h) _ (Mem.foldl_wf _ (fun _ _ h => Mem.put_wf _ _ h) _
    (Mem.foldl_wf _ (fun _ _ h => Mem.put_wf _ _ h) _ (Mem.zero_wf _ _ h)))

/-- The memories after reset are in the form. -/
theorem reset_memOk : State.reset.chip.MemOk := by unfold Chip.MemOk; decide

/-- A stored byte reads back. -/
theorem Mem.get_put_self (m : Mem) (a : Nat) (b : Byte) : (m.put a b).get a = b := by
  simp only [Mem.put]
  split
  · next h => simp [Mem.get, Table.find?_erase_self, h.1, h.2]
  · simp [Mem.get, Table.find?_insert_self]

/-- A stored byte leaves every other address as it was. -/
theorem Mem.get_put_ne {m : Mem} {a x : Nat} (h : x ≠ a) (b : Byte) : (m.put a b).get x = m.get x := by
  simp only [Mem.put]
  split
  · simp [Mem.get, Table.find?_erase_ne h]
  · simp [Mem.get, Table.find?_insert_ne h, Table.find?_erase_ne h]

/-- A byte string stored elsewhere leaves an address as it was. -/
theorem Mem.get_write_ne {m : Mem} {a x : Nat} {l : List Byte} (h : x < a ∨ a + l.length ≤ x) : (m.write a l).get x = m.get x := by
  induction l generalizing m a with
  | nil => rfl
  | cons b t ih =>
    simp only [List.length_cons] at h
    simp only [Mem.write]
    rw [ih (by omega), Mem.get_put_ne (by omega)]

end Sys2Proof.Machine
end

