-- ==== Sys2Proof/Laws/Rows.lean ====
section
/-! SUPPORT. Laws/Rows.lean: a register command that reaches its register has its operation's effect; a link or port command that has its link or port
likewise. -/
namespace Sys2Proof.Machine

theorem Chip.asWriteAt_reaches {c : Chip} {src base page off : Nat} (h : c.reachesAt src base page off = true) (f : Chip → Chip) :
    c.asWriteAt src base page off f = f c := by
  simp only [Chip.reachesAt, Bool.and_eq_true, Bool.not_eq_true', Bool.and_eq_false_iff, decide_eq_false_iff_not, bne_eq_false_iff_eq, beq_iff_eq,
    Option.isNone_iff_eq_none] at h
  obtain ⟨⟨⟨⟨h1, h2⟩, h3⟩, h4⟩, h5⟩ := h
  have : ¬ (src < 512 ∧ page ≠ 0x100 + src) := by rintro ⟨a, b⟩; rcases h1 with h1 | h1 <;> contradiction
  simp [Chip.asWriteAt, this, h2, h3, h4, h5]

theorem Chip.asWrite_reaches {c : Chip} {src : Nat} {r : Fld} {idx sub : Nat} (h : c.reaches src r idx sub = true) (f : Chip → Chip) :
    c.asWrite src r idx sub f = f c := Chip.asWriteAt_reaches h f

theorem Chip.asWriteElem_reaches {c : Chip} {src a : Nat} {r : Fld} (h : c.reachesElem src r a = true) (f : Chip → Chip) :
    c.asWriteElem src r a f = f c := Chip.asWriteAt_reaches h f

theorem Chip.keyWrite_reaches {c : Chip} {src o : Nat} {r : Fld} (h : c.reachesKey src r o = true) (f : Chip → Nat → Chip) :
    c.keyWrite src r f o = f c (keyOwner src) := by
  simp only [Chip.reachesKey, Chip.keyWrite, keyOwner] at h ⊢
  split <;> next hs => simp only [hs, if_true, if_false] at h; rw [Chip.asWriteAt_reaches h]

theorem Chip.linkRow_has {c : Chip} {k : Nat} (h : c.hasLink k = true) (f : Chip → Chip) : c.linkRow k f = f c := by
  simp only [Chip.hasLink] at h; simp [Chip.linkRow, h]

theorem Chip.ethRow_has {c : Chip} {p q : Nat} (h : c.hasPort p q = true) (f : Chip → Chip) : c.ethRow p q f = f c := by
  simp only [Chip.hasPort] at h; simp [Chip.ethRow, h]

/-- `State.run` answers what its operation leaves. -/
theorem State.run_leaves (f : Chip → Chip) (s : State) : s.run f = s.leaves (f s.chip) := rfl

/-- The slots of a list are those that its kinds, its lost marks and its bytes name. -/
@[simp] theorem slotList_map (l : List Slot) : slotList (l.map (·.kind)) (l.map (·.lost)) (l.map (·.bytes)) = l := by
  induction l with
  | nil => rfl
  | cons x l ih => simpa [slotList] using ih

end Sys2Proof.Machine
end

