-- ==== Sys2Proof/Laws/State.lean ====
section
/-! SUPPORT. Laws/State.lean: what each named update of the module leaves as it was, field by field. -/
namespace Sys2Proof.Machine

variable (c : Chip)

/-! ### wr -/

@[simp] theorem Chip.wr_variant (f : Fld) (v i b a : Nat) : (c.wr f v i b a).variant = c.variant := rfl
@[simp] theorem Chip.wr_mst (f : Fld) (v i b a : Nat) : (c.wr f v i b a).mst = c.mst := rfl
@[simp] theorem Chip.wr_mode (f : Fld) (v i b a : Nat) : (c.wr f v i b a).mode = c.mode := rfl
@[simp] theorem Chip.wr_beat (f : Fld) (v i b a : Nat) : (c.wr f v i b a).beat = c.beat := rfl
@[simp] theorem Chip.wr_rdLatch (f : Fld) (v i b a : Nat) : (c.wr f v i b a).rdLatch = c.rdLatch := rfl
@[simp] theorem Chip.wr_wrLatch (f : Fld) (v i b a : Nat) : (c.wr f v i b a).wrLatch = c.wrLatch := rfl
@[simp] theorem Chip.wr_srcs (f : Fld) (v i b a : Nat) : (c.wr f v i b a).srcs = c.srcs := rfl
@[simp] theorem Chip.wr_irqDue (f : Fld) (v i b a : Nat) : (c.wr f v i b a).irqDue = c.irqDue := rfl
@[simp] theorem Chip.wr_irqLast (f : Fld) (v i b a : Nat) : (c.wr f v i b a).irqLast = c.irqLast := rfl
@[simp] theorem Chip.wr_safeReq (f : Fld) (v i b a : Nat) : (c.wr f v i b a).safeReq = c.safeReq := rfl
@[simp] theorem Chip.wr_containReq (f : Fld) (v i b a : Nat) : (c.wr f v i b a).containReq = c.containReq := rfl
@[simp] theorem Chip.wr_crib (f : Fld) (v i b a : Nat) : (c.wr f v i b a).crib = c.crib := rfl
@[simp] theorem Chip.wr_grn (f : Fld) (v i b a : Nat) : (c.wr f v i b a).grn = c.grn := rfl
@[simp] theorem Chip.wr_loft (f : Fld) (v i b a : Nat) : (c.wr f v i b a).loft = c.loft := rfl
@[simp] theorem Chip.wr_host (f : Fld) (v i b a : Nat) : (c.wr f v i b a).host = c.host := rfl
@[simp] theorem Chip.wr_allot (f : Fld) (v i b a : Nat) : (c.wr f v i b a).allot = c.allot := rfl
@[simp] theorem Chip.wr_xcache (f : Fld) (v i b a : Nat) : (c.wr f v i b a).xcache = c.xcache := rfl
@[simp] theorem Chip.wr_engCache (f : Fld) (v i b a : Nat) : (c.wr f v i b a).engCache = c.engCache := rfl
@[simp] theorem Chip.wr_walks (f : Fld) (v i b a : Nat) : (c.wr f v i b a).walks = c.walks := rfl
@[simp] theorem Chip.wr_spaces (f : Fld) (v i b a : Nat) : (c.wr f v i b a).spaces = c.spaces := rfl
@[simp] theorem Chip.wr_invals (f : Fld) (v i b a : Nat) : (c.wr f v i b a).invals = c.invals := rfl
@[simp] theorem Chip.wr_prefetches (f : Fld) (v i b a : Nat) : (c.wr f v i b a).prefetches = c.prefetches := rfl
@[simp] theorem Chip.wr_ctxs (f : Fld) (v i b a : Nat) : (c.wr f v i b a).ctxs = c.ctxs := rfl
@[simp] theorem Chip.wr_readmitReq (f : Fld) (v i b a : Nat) : (c.wr f v i b a).readmitReq = c.readmitReq := rfl
@[simp] theorem Chip.wr_trainCache (f : Fld) (v i b a : Nat) : (c.wr f v i b a).trainCache = c.trainCache := rfl
@[simp] theorem Chip.wr_trainWhy (f : Fld) (v i b a : Nat) : (c.wr f v i b a).trainWhy = c.trainWhy := rfl
@[simp] theorem Chip.wr_trainRev (f : Fld) (v i b a : Nat) : (c.wr f v i b a).trainRev = c.trainRev := rfl
@[simp] theorem Chip.wr_links (f : Fld) (v i b a : Nat) : (c.wr f v i b a).links = c.links := rfl
@[simp] theorem Chip.wr_clk (f : Fld) (v i b a : Nat) : (c.wr f v i b a).clk = c.clk := rfl
@[simp] theorem Chip.wr_epochTag (f : Fld) (v i b a : Nat) : (c.wr f v i b a).epochTag = c.epochTag := rfl
@[simp] theorem Chip.wr_wireTick (f : Fld) (v i b a : Nat) : (c.wr f v i b a).wireTick = c.wireTick := rfl
@[simp] theorem Chip.wr_wireBytes (f : Fld) (v i b a : Nat) : (c.wr f v i b a).wireBytes = c.wireBytes := rfl
@[simp] theorem Chip.wr_mute (f : Fld) (v i b a : Nat) : (c.wr f v i b a).mute = c.mute := rfl
@[simp] theorem Chip.wr_consent (f : Fld) (v i b a : Nat) : (c.wr f v i b a).consent = c.consent := rfl
@[simp] theorem Chip.wr_lossCarried (f : Fld) (v i b a : Nat) : (c.wr f v i b a).lossCarried = c.lossCarried := rfl
@[simp] theorem Chip.wr_thr (f : Fld) (v i b a : Nat) : (c.wr f v i b a).thr = c.thr := rfl
@[simp] theorem Chip.wr_chaffClear (f : Fld) (v i b a : Nat) : (c.wr f v i b a).chaffClear = c.chaffClear := rfl
@[simp] theorem Chip.wr_cmb (f : Fld) (v i b a : Nat) : (c.wr f v i b a).cmb = c.cmb := rfl
@[simp] theorem Chip.wr_xsOut (f : Fld) (v i b a : Nat) : (c.wr f v i b a).xsOut = c.xsOut := rfl
@[simp] theorem Chip.wr_tgrpDue (f : Fld) (v i b a : Nat) : (c.wr f v i b a).tgrpDue = c.tgrpDue := rfl
@[simp] theorem Chip.wr_twinHb (f : Fld) (v i b a : Nat) : (c.wr f v i b a).twinHb = c.twinHb := rfl
@[simp] theorem Chip.wr_mirrorAll (f : Fld) (v i b a : Nat) : (c.wr f v i b a).mirrorAll = c.mirrorAll := rfl
@[simp] theorem Chip.wr_keys (f : Fld) (v i b a : Nat) : (c.wr f v i b a).keys = c.keys := rfl
@[simp] theorem Chip.wr_keyStage (f : Fld) (v i b a : Nat) : (c.wr f v i b a).keyStage = c.keyStage := rfl
@[simp] theorem Chip.wr_queues (f : Fld) (v i b a : Nat) : (c.wr f v i b a).queues = c.queues := rfl
@[simp] theorem Chip.wr_qps (f : Fld) (v i b a : Nat) : (c.wr f v i b a).qps = c.qps := rfl
@[simp] theorem Chip.wr_lastQpns (f : Fld) (v i b a : Nat) : (c.wr f v i b a).lastQpns = c.lastQpns := rfl
@[simp] theorem Chip.wr_ctxCache (f : Fld) (v i b a : Nat) : (c.wr f v i b a).ctxCache = c.ctxCache := rfl
@[simp] theorem Chip.wr_ctxMiss (f : Fld) (v i b a : Nat) : (c.wr f v i b a).ctxMiss = c.ctxMiss := rfl
@[simp] theorem Chip.wr_ctxOps (f : Fld) (v i b a : Nat) : (c.wr f v i b a).ctxOps = c.ctxOps := rfl
@[simp] theorem Chip.wr_notices (f : Fld) (v i b a : Nat) : (c.wr f v i b a).notices = c.notices := rfl
@[simp] theorem Chip.wr_ringFail (f : Fld) (v i b a : Nat) : (c.wr f v i b a).ringFail = c.ringFail := rfl
@[simp] theorem Chip.wr_loopRx (f : Fld) (v i b a : Nat) : (c.wr f v i b a).loopRx = c.loopRx := rfl
@[simp] theorem Chip.wr_admWait (f : Fld) (v i b a : Nat) : (c.wr f v i b a).admWait = c.admWait := rfl
@[simp] theorem Chip.wr_gap (f : Fld) (v i b a : Nat) : (c.wr f v i b a).gap = c.gap := rfl
@[simp] theorem Chip.wr_ports (f : Fld) (v i b a : Nat) : (c.wr f v i b a).ports = c.ports := rfl
@[simp] theorem Chip.wr_shapers (f : Fld) (v i b a : Nat) : (c.wr f v i b a).shapers = c.shapers := rfl
@[simp] theorem Chip.wr_ppsUntil (f : Fld) (v i b a : Nat) : (c.wr f v i b a).ppsUntil = c.ppsUntil := rfl
@[simp] theorem Chip.wr_insResets (f : Fld) (v i b a : Nat) : (c.wr f v i b a).insResets = c.insResets := rfl
@[simp] theorem Chip.wr_again (f : Fld) (v i b a : Nat) : (c.wr f v i b a).again = c.again := rfl
@[simp] theorem Chip.wr_mbOut (f : Fld) (v i b a : Nat) : (c.wr f v i b a).mbOut = c.mbOut := rfl
@[simp] theorem Chip.wr_relay (f : Fld) (v i b a : Nat) : (c.wr f v i b a).relay = c.relay := rfl
@[simp] theorem Chip.wr_relaySeen (f : Fld) (v i b a : Nat) : (c.wr f v i b a).relaySeen = c.relaySeen := rfl
@[simp] theorem Chip.wr_hello (f : Fld) (v i b a : Nat) : (c.wr f v i b a).hello = c.hello := rfl
@[simp] theorem Chip.wr_hostReady (f : Fld) (v i b a : Nat) : (c.wr f v i b a).hostReady = c.hostReady := rfl
@[simp] theorem Chip.wr_plainWrites (f : Fld) (v i b a : Nat) : (c.wr f v i b a).plainWrites = c.plainWrites := rfl
@[simp] theorem Chip.wr_cplTimeout (f : Fld) (v i b a : Nat) : (c.wr f v i b a).cplTimeout = c.cplTimeout := rfl
@[simp] theorem Chip.wr_hostBad (f : Fld) (v i b a : Nat) : (c.wr f v i b a).hostBad = c.hostBad := rfl
@[simp] theorem Chip.wr_probes (f : Fld) (v i b a : Nat) : (c.wr f v i b a).probes = c.probes := rfl
@[simp] theorem Chip.wr_restarts (f : Fld) (v i b a : Nat) : (c.wr f v i b a).restarts = c.restarts := rfl
@[simp] theorem Chip.wr_flash (f : Fld) (v i b a : Nat) : (c.wr f v i b a).flash = c.flash := rfl
@[simp] theorem Chip.wr_verified (f : Fld) (v i b a : Nat) : (c.wr f v i b a).verified = c.verified := rfl
@[simp] theorem Chip.wr_fwcBusy (f : Fld) (v i b a : Nat) : (c.wr f v i b a).fwcBusy = c.fwcBusy := rfl
@[simp] theorem Chip.wr_update (f : Fld) (v i b a : Nat) : (c.wr f v i b a).update = c.update := rfl
@[simp] theorem Chip.wr_smbAddr (f : Fld) (v i b a : Nat) : (c.wr f v i b a).smbAddr = c.smbAddr := rfl
@[simp] theorem Chip.wr_bootSafe (f : Fld) (v i b a : Nat) : (c.wr f v i b a).bootSafe = c.bootSafe := rfl
@[simp] theorem Chip.wr_safeOut (f : Fld) (v i b a : Nat) : (c.wr f v i b a).safeOut = c.safeOut := rfl
@[simp] theorem Chip.wr_skipPower (f : Fld) (v i b a : Nat) : (c.wr f v i b a).skipPower = c.skipPower := rfl
@[simp] theorem Chip.wr_skipTemp (f : Fld) (v i b a : Nat) : (c.wr f v i b a).skipTemp = c.skipTemp := rfl
@[simp] theorem Chip.wr_bellDone (f : Fld) (v i b a : Nat) : (c.wr f v i b a).bellDone = c.bellDone := rfl
@[simp] theorem Chip.wr_modeBell (f : Fld) (v i b a : Nat) : (c.wr f v i b a).modeBell = c.modeBell := rfl
@[simp] theorem Chip.wr_hotBell (f : Fld) (v i b a : Nat) : (c.wr f v i b a).hotBell = c.hotBell := rfl
@[simp] theorem Chip.wr_forceBell (f : Fld) (v i b a : Nat) : (c.wr f v i b a).forceBell = c.forceBell := rfl
@[simp] theorem Chip.wr_rtcAt (f : Fld) (v i b a : Nat) : (c.wr f v i b a).rtcAt = c.rtcAt := rfl
@[simp] theorem Chip.wr_inputs (f : Fld) (v i b a : Nat) : (c.wr f v i b a).inputs = c.inputs := rfl
@[simp] theorem Chip.wr_holds (f : Fld) (v i b a : Nat) : (c.wr f v i b a).holds = c.holds := rfl
@[simp] theorem Chip.wr_twin (f : Fld) (v i b a : Nat) : (c.wr f v i b a).twin = c.twin := rfl
@[simp] theorem Chip.wr_out (f : Fld) (v i b a : Nat) : (c.wr f v i b a).out = c.out := rfl
@[simp] theorem Chip.wr_freeCtr (f : Fld) (v i b a : Nat) : (c.wr f v i b a).freeCtr = c.freeCtr := rfl

/-! ### clr -/

@[simp] theorem Chip.clr_variant (f : Fld) (i b a : Nat) : (c.clr f i b a).variant = c.variant := rfl
@[simp] theorem Chip.clr_mst (f : Fld) (i b a : Nat) : (c.clr f i b a).mst = c.mst := rfl
@[simp] theorem Chip.clr_mode (f : Fld) (i b a : Nat) : (c.clr f i b a).mode = c.mode := rfl
@[simp] theorem Chip.clr_beat (f : Fld) (i b a : Nat) : (c.clr f i b a).beat = c.beat := rfl
@[simp] theorem Chip.clr_rdLatch (f : Fld) (i b a : Nat) : (c.clr f i b a).rdLatch = c.rdLatch := rfl
@[simp] theorem Chip.clr_wrLatch (f : Fld) (i b a : Nat) : (c.clr f i b a).wrLatch = c.wrLatch := rfl
@[simp] theorem Chip.clr_srcs (f : Fld) (i b a : Nat) : (c.clr f i b a).srcs = c.srcs := rfl
@[simp] theorem Chip.clr_irqDue (f : Fld) (i b a : Nat) : (c.clr f i b a).irqDue = c.irqDue := rfl
@[simp] theorem Chip.clr_irqLast (f : Fld) (i b a : Nat) : (c.clr f i b a).irqLast = c.irqLast := rfl
@[simp] theorem Chip.clr_safeReq (f : Fld) (i b a : Nat) : (c.clr f i b a).safeReq = c.safeReq := rfl
@[simp] theorem Chip.clr_containReq (f : Fld) (i b a : Nat) : (c.clr f i b a).containReq = c.containReq := rfl
@[simp] theorem Chip.clr_crib (f : Fld) (i b a : Nat) : (c.clr f i b a).crib = c.crib := rfl
@[simp] theorem Chip.clr_grn (f : Fld) (i b a : Nat) : (c.clr f i b a).grn = c.grn := rfl
@[simp] theorem Chip.clr_loft (f : Fld) (i b a : Nat) : (c.clr f i b a).loft = c.loft := rfl
@[simp] theorem Chip.clr_host (f : Fld) (i b a : Nat) : (c.clr f i b a).host = c.host := rfl
@[simp] theorem Chip.clr_allot (f : Fld) (i b a : Nat) : (c.clr f i b a).allot = c.allot := rfl
@[simp] theorem Chip.clr_xcache (f : Fld) (i b a : Nat) : (c.clr f i b a).xcache = c.xcache := rfl
@[simp] theorem Chip.clr_engCache (f : Fld) (i b a : Nat) : (c.clr f i b a).engCache = c.engCache := rfl
@[simp] theorem Chip.clr_walks (f : Fld) (i b a : Nat) : (c.clr f i b a).walks = c.walks := rfl
@[simp] theorem Chip.clr_spaces (f : Fld) (i b a : Nat) : (c.clr f i b a).spaces = c.spaces := rfl
@[simp] theorem Chip.clr_invals (f : Fld) (i b a : Nat) : (c.clr f i b a).invals = c.invals := rfl
@[simp] theorem Chip.clr_prefetches (f : Fld) (i b a : Nat) : (c.clr f i b a).prefetches = c.prefetches := rfl
@[simp] theorem Chip.clr_ctxs (f : Fld) (i b a : Nat) : (c.clr f i b a).ctxs = c.ctxs := rfl
@[simp] theorem Chip.clr_readmitReq (f : Fld) (i b a : Nat) : (c.clr f i b a).readmitReq = c.readmitReq := rfl
@[simp] theorem Chip.clr_trainCache (f : Fld) (i b a : Nat) : (c.clr f i b a).trainCache = c.trainCache := rfl
@[simp] theorem Chip.clr_trainWhy (f : Fld) (i b a : Nat) : (c.clr f i b a).trainWhy = c.trainWhy := rfl
@[simp] theorem Chip.clr_trainRev (f : Fld) (i b a : Nat) : (c.clr f i b a).trainRev = c.trainRev := rfl
@[simp] theorem Chip.clr_links (f : Fld) (i b a : Nat) : (c.clr f i b a).links = c.links := rfl
@[simp] theorem Chip.clr_clk (f : Fld) (i b a : Nat) : (c.clr f i b a).clk = c.clk := rfl
@[simp] theorem Chip.clr_epochTag (f : Fld) (i b a : Nat) : (c.clr f i b a).epochTag = c.epochTag := rfl
@[simp] theorem Chip.clr_wireTick (f : Fld) (i b a : Nat) : (c.clr f i b a).wireTick = c.wireTick := rfl
@[simp] theorem Chip.clr_wireBytes (f : Fld) (i b a : Nat) : (c.clr f i b a).wireBytes = c.wireBytes := rfl
@[simp] theorem Chip.clr_mute (f : Fld) (i b a : Nat) : (c.clr f i b a).mute = c.mute := rfl
@[simp] theorem Chip.clr_consent (f : Fld) (i b a : Nat) : (c.clr f i b a).consent = c.consent := rfl
@[simp] theorem Chip.clr_lossCarried (f : Fld) (i b a : Nat) : (c.clr f i b a).lossCarried = c.lossCarried := rfl
@[simp] theorem Chip.clr_thr (f : Fld) (i b a : Nat) : (c.clr f i b a).thr = c.thr := rfl
@[simp] theorem Chip.clr_chaffClear (f : Fld) (i b a : Nat) : (c.clr f i b a).chaffClear = c.chaffClear := rfl
@[simp] theorem Chip.clr_cmb (f : Fld) (i b a : Nat) : (c.clr f i b a).cmb = c.cmb := rfl
@[simp] theorem Chip.clr_xsOut (f : Fld) (i b a : Nat) : (c.clr f i b a).xsOut = c.xsOut := rfl
@[simp] theorem Chip.clr_tgrpDue (f : Fld) (i b a : Nat) : (c.clr f i b a).tgrpDue = c.tgrpDue := rfl
@[simp] theorem Chip.clr_twinHb (f : Fld) (i b a : Nat) : (c.clr f i b a).twinHb = c.twinHb := rfl
@[simp] theorem Chip.clr_mirrorAll (f : Fld) (i b a : Nat) : (c.clr f i b a).mirrorAll = c.mirrorAll := rfl
@[simp] theorem Chip.clr_keys (f : Fld) (i b a : Nat) : (c.clr f i b a).keys = c.keys := rfl
@[simp] theorem Chip.clr_keyStage (f : Fld) (i b a : Nat) : (c.clr f i b a).keyStage = c.keyStage := rfl
@[simp] theorem Chip.clr_queues (f : Fld) (i b a : Nat) : (c.clr f i b a).queues = c.queues := rfl
@[simp] theorem Chip.clr_qps (f : Fld) (i b a : Nat) : (c.clr f i b a).qps = c.qps := rfl
@[simp] theorem Chip.clr_lastQpns (f : Fld) (i b a : Nat) : (c.clr f i b a).lastQpns = c.lastQpns := rfl
@[simp] theorem Chip.clr_ctxCache (f : Fld) (i b a : Nat) : (c.clr f i b a).ctxCache = c.ctxCache := rfl
@[simp] theorem Chip.clr_ctxMiss (f : Fld) (i b a : Nat) : (c.clr f i b a).ctxMiss = c.ctxMiss := rfl
@[simp] theorem Chip.clr_ctxOps (f : Fld) (i b a : Nat) : (c.clr f i b a).ctxOps = c.ctxOps := rfl
@[simp] theorem Chip.clr_notices (f : Fld) (i b a : Nat) : (c.clr f i b a).notices = c.notices := rfl
@[simp] theorem Chip.clr_ringFail (f : Fld) (i b a : Nat) : (c.clr f i b a).ringFail = c.ringFail := rfl
@[simp] theorem Chip.clr_loopRx (f : Fld) (i b a : Nat) : (c.clr f i b a).loopRx = c.loopRx := rfl
@[simp] theorem Chip.clr_admWait (f : Fld) (i b a : Nat) : (c.clr f i b a).admWait = c.admWait := rfl
@[simp] theorem Chip.clr_gap (f : Fld) (i b a : Nat) : (c.clr f i b a).gap = c.gap := rfl
@[simp] theorem Chip.clr_ports (f : Fld) (i b a : Nat) : (c.clr f i b a).ports = c.ports := rfl
@[simp] theorem Chip.clr_shapers (f : Fld) (i b a : Nat) : (c.clr f i b a).shapers = c.shapers := rfl
@[simp] theorem Chip.clr_ppsUntil (f : Fld) (i b a : Nat) : (c.clr f i b a).ppsUntil = c.ppsUntil := rfl
@[simp] theorem Chip.clr_insResets (f : Fld) (i b a : Nat) : (c.clr f i b a).insResets = c.insResets := rfl
@[simp] theorem Chip.clr_again (f : Fld) (i b a : Nat) : (c.clr f i b a).again = c.again := rfl
@[simp] theorem Chip.clr_mbOut (f : Fld) (i b a : Nat) : (c.clr f i b a).mbOut = c.mbOut := rfl
@[simp] theorem Chip.clr_relay (f : Fld) (i b a : Nat) : (c.clr f i b a).relay = c.relay := rfl
@[simp] theorem Chip.clr_relaySeen (f : Fld) (i b a : Nat) : (c.clr f i b a).relaySeen = c.relaySeen := rfl
@[simp] theorem Chip.clr_hello (f : Fld) (i b a : Nat) : (c.clr f i b a).hello = c.hello := rfl
@[simp] theorem Chip.clr_hostReady (f : Fld) (i b a : Nat) : (c.clr f i b a).hostReady = c.hostReady := rfl
@[simp] theorem Chip.clr_plainWrites (f : Fld) (i b a : Nat) : (c.clr f i b a).plainWrites = c.plainWrites := rfl
@[simp] theorem Chip.clr_cplTimeout (f : Fld) (i b a : Nat) : (c.clr f i b a).cplTimeout = c.cplTimeout := rfl
@[simp] theorem Chip.clr_hostBad (f : Fld) (i b a : Nat) : (c.clr f i b a).hostBad = c.hostBad := rfl
@[simp] theorem Chip.clr_probes (f : Fld) (i b a : Nat) : (c.clr f i b a).probes = c.probes := rfl
@[simp] theorem Chip.clr_restarts (f : Fld) (i b a : Nat) : (c.clr f i b a).restarts = c.restarts := rfl
@[simp] theorem Chip.clr_flash (f : Fld) (i b a : Nat) : (c.clr f i b a).flash = c.flash := rfl
@[simp] theorem Chip.clr_verified (f : Fld) (i b a : Nat) : (c.clr f i b a).verified = c.verified := rfl
@[simp] theorem Chip.clr_fwcBusy (f : Fld) (i b a : Nat) : (c.clr f i b a).fwcBusy = c.fwcBusy := rfl
@[simp] theorem Chip.clr_update (f : Fld) (i b a : Nat) : (c.clr f i b a).update = c.update := rfl
@[simp] theorem Chip.clr_smbAddr (f : Fld) (i b a : Nat) : (c.clr f i b a).smbAddr = c.smbAddr := rfl
@[simp] theorem Chip.clr_bootSafe (f : Fld) (i b a : Nat) : (c.clr f i b a).bootSafe = c.bootSafe := rfl
@[simp] theorem Chip.clr_safeOut (f : Fld) (i b a : Nat) : (c.clr f i b a).safeOut = c.safeOut := rfl
@[simp] theorem Chip.clr_skipPower (f : Fld) (i b a : Nat) : (c.clr f i b a).skipPower = c.skipPower := rfl
@[simp] theorem Chip.clr_skipTemp (f : Fld) (i b a : Nat) : (c.clr f i b a).skipTemp = c.skipTemp := rfl
@[simp] theorem Chip.clr_bellDone (f : Fld) (i b a : Nat) : (c.clr f i b a).bellDone = c.bellDone := rfl
@[simp] theorem Chip.clr_modeBell (f : Fld) (i b a : Nat) : (c.clr f i b a).modeBell = c.modeBell := rfl
@[simp] theorem Chip.clr_hotBell (f : Fld) (i b a : Nat) : (c.clr f i b a).hotBell = c.hotBell := rfl
@[simp] theorem Chip.clr_forceBell (f : Fld) (i b a : Nat) : (c.clr f i b a).forceBell = c.forceBell := rfl
@[simp] theorem Chip.clr_rtcAt (f : Fld) (i b a : Nat) : (c.clr f i b a).rtcAt = c.rtcAt := rfl
@[simp] theorem Chip.clr_inputs (f : Fld) (i b a : Nat) : (c.clr f i b a).inputs = c.inputs := rfl
@[simp] theorem Chip.clr_holds (f : Fld) (i b a : Nat) : (c.clr f i b a).holds = c.holds := rfl
@[simp] theorem Chip.clr_twin (f : Fld) (i b a : Nat) : (c.clr f i b a).twin = c.twin := rfl
@[simp] theorem Chip.clr_out (f : Fld) (i b a : Nat) : (c.clr f i b a).out = c.out := rfl
@[simp] theorem Chip.clr_freeCtr (f : Fld) (i b a : Nat) : (c.clr f i b a).freeCtr = c.freeCtr := rfl

/-! ### emit -/

@[simp] theorem Chip.emit_variant (o : Out) : (c.emit o).variant = c.variant := rfl
@[simp] theorem Chip.emit_mst (o : Out) : (c.emit o).mst = c.mst := rfl
@[simp] theorem Chip.emit_mode (o : Out) : (c.emit o).mode = c.mode := rfl
@[simp] theorem Chip.emit_beat (o : Out) : (c.emit o).beat = c.beat := rfl
@[simp] theorem Chip.emit_regs (o : Out) : (c.emit o).regs = c.regs := rfl
@[simp] theorem Chip.emit_rdLatch (o : Out) : (c.emit o).rdLatch = c.rdLatch := rfl
@[simp] theorem Chip.emit_wrLatch (o : Out) : (c.emit o).wrLatch = c.wrLatch := rfl
@[simp] theorem Chip.emit_srcs (o : Out) : (c.emit o).srcs = c.srcs := rfl
@[simp] theorem Chip.emit_irqDue (o : Out) : (c.emit o).irqDue = c.irqDue := rfl
@[simp] theorem Chip.emit_irqLast (o : Out) : (c.emit o).irqLast = c.irqLast := rfl
@[simp] theorem Chip.emit_safeReq (o : Out) : (c.emit o).safeReq = c.safeReq := rfl
@[simp] theorem Chip.emit_containReq (o : Out) : (c.emit o).containReq = c.containReq := rfl
@[simp] theorem Chip.emit_crib (o : Out) : (c.emit o).crib = c.crib := rfl
@[simp] theorem Chip.emit_grn (o : Out) : (c.emit o).grn = c.grn := rfl
@[simp] theorem Chip.emit_loft (o : Out) : (c.emit o).loft = c.loft := rfl
@[simp] theorem Chip.emit_host (o : Out) : (c.emit o).host = c.host := rfl
@[simp] theorem Chip.emit_allot (o : Out) : (c.emit o).allot = c.allot := rfl
@[simp] theorem Chip.emit_xcache (o : Out) : (c.emit o).xcache = c.xcache := rfl
@[simp] theorem Chip.emit_engCache (o : Out) : (c.emit o).engCache = c.engCache := rfl
@[simp] theorem Chip.emit_walks (o : Out) : (c.emit o).walks = c.walks := rfl
@[simp] theorem Chip.emit_spaces (o : Out) : (c.emit o).spaces = c.spaces := rfl
@[simp] theorem Chip.emit_invals (o : Out) : (c.emit o).invals = c.invals := rfl
@[simp] theorem Chip.emit_prefetches (o : Out) : (c.emit o).prefetches = c.prefetches := rfl
@[simp] theorem Chip.emit_ctxs (o : Out) : (c.emit o).ctxs = c.ctxs := rfl
@[simp] theorem Chip.emit_readmitReq (o : Out) : (c.emit o).readmitReq = c.readmitReq := rfl
@[simp] theorem Chip.emit_trainCache (o : Out) : (c.emit o).trainCache = c.trainCache := rfl
@[simp] theorem Chip.emit_trainWhy (o : Out) : (c.emit o).trainWhy = c.trainWhy := rfl
@[simp] theorem Chip.emit_trainRev (o : Out) : (c.emit o).trainRev = c.trainRev := rfl
@[simp] theorem Chip.emit_links (o : Out) : (c.emit o).links = c.links := rfl
@[simp] theorem Chip.emit_clk (o : Out) : (c.emit o).clk = c.clk := rfl
@[simp] theorem Chip.emit_epochTag (o : Out) : (c.emit o).epochTag = c.epochTag := rfl
@[simp] theorem Chip.emit_wireTick (o : Out) : (c.emit o).wireTick = c.wireTick := rfl
@[simp] theorem Chip.emit_wireBytes (o : Out) : (c.emit o).wireBytes = c.wireBytes := rfl
@[simp] theorem Chip.emit_mute (o : Out) : (c.emit o).mute = c.mute := rfl
@[simp] theorem Chip.emit_consent (o : Out) : (c.emit o).consent = c.consent := rfl
@[simp] theorem Chip.emit_lossCarried (o : Out) : (c.emit o).lossCarried = c.lossCarried := rfl
@[simp] theorem Chip.emit_thr (o : Out) : (c.emit o).thr = c.thr := rfl
@[simp] theorem Chip.emit_chaffClear (o : Out) : (c.emit o).chaffClear = c.chaffClear := rfl
@[simp] theorem Chip.emit_cmb (o : Out) : (c.emit o).cmb = c.cmb := rfl
@[simp] theorem Chip.emit_xsOut (o : Out) : (c.emit o).xsOut = c.xsOut := rfl
@[simp] theorem Chip.emit_tgrpDue (o : Out) : (c.emit o).tgrpDue = c.tgrpDue := rfl
@[simp] theorem Chip.emit_twinHb (o : Out) : (c.emit o).twinHb = c.twinHb := rfl
@[simp] theorem Chip.emit_mirrorAll (o : Out) : (c.emit o).mirrorAll = c.mirrorAll := rfl
@[simp] theorem Chip.emit_keys (o : Out) : (c.emit o).keys = c.keys := rfl
@[simp] theorem Chip.emit_keyStage (o : Out) : (c.emit o).keyStage = c.keyStage := rfl
@[simp] theorem Chip.emit_queues (o : Out) : (c.emit o).queues = c.queues := rfl
@[simp] theorem Chip.emit_qps (o : Out) : (c.emit o).qps = c.qps := rfl
@[simp] theorem Chip.emit_lastQpns (o : Out) : (c.emit o).lastQpns = c.lastQpns := rfl
@[simp] theorem Chip.emit_ctxCache (o : Out) : (c.emit o).ctxCache = c.ctxCache := rfl
@[simp] theorem Chip.emit_ctxMiss (o : Out) : (c.emit o).ctxMiss = c.ctxMiss := rfl
@[simp] theorem Chip.emit_ctxOps (o : Out) : (c.emit o).ctxOps = c.ctxOps := rfl
@[simp] theorem Chip.emit_notices (o : Out) : (c.emit o).notices = c.notices := rfl
@[simp] theorem Chip.emit_ringFail (o : Out) : (c.emit o).ringFail = c.ringFail := rfl
@[simp] theorem Chip.emit_loopRx (o : Out) : (c.emit o).loopRx = c.loopRx := rfl
@[simp] theorem Chip.emit_admWait (o : Out) : (c.emit o).admWait = c.admWait := rfl
@[simp] theorem Chip.emit_gap (o : Out) : (c.emit o).gap = c.gap := rfl
@[simp] theorem Chip.emit_ports (o : Out) : (c.emit o).ports = c.ports := rfl
@[simp] theorem Chip.emit_shapers (o : Out) : (c.emit o).shapers = c.shapers := rfl
@[simp] theorem Chip.emit_ppsUntil (o : Out) : (c.emit o).ppsUntil = c.ppsUntil := rfl
@[simp] theorem Chip.emit_insResets (o : Out) : (c.emit o).insResets = c.insResets := rfl
@[simp] theorem Chip.emit_again (o : Out) : (c.emit o).again = c.again := rfl
@[simp] theorem Chip.emit_mbOut (o : Out) : (c.emit o).mbOut = c.mbOut := rfl
@[simp] theorem Chip.emit_relay (o : Out) : (c.emit o).relay = c.relay := rfl
@[simp] theorem Chip.emit_relaySeen (o : Out) : (c.emit o).relaySeen = c.relaySeen := rfl
@[simp] theorem Chip.emit_hello (o : Out) : (c.emit o).hello = c.hello := rfl
@[simp] theorem Chip.emit_hostReady (o : Out) : (c.emit o).hostReady = c.hostReady := rfl
@[simp] theorem Chip.emit_plainWrites (o : Out) : (c.emit o).plainWrites = c.plainWrites := rfl
@[simp] theorem Chip.emit_cplTimeout (o : Out) : (c.emit o).cplTimeout = c.cplTimeout := rfl
@[simp] theorem Chip.emit_hostBad (o : Out) : (c.emit o).hostBad = c.hostBad := rfl
@[simp] theorem Chip.emit_probes (o : Out) : (c.emit o).probes = c.probes := rfl
@[simp] theorem Chip.emit_restarts (o : Out) : (c.emit o).restarts = c.restarts := rfl
@[simp] theorem Chip.emit_flash (o : Out) : (c.emit o).flash = c.flash := rfl
@[simp] theorem Chip.emit_verified (o : Out) : (c.emit o).verified = c.verified := rfl
@[simp] theorem Chip.emit_fwcBusy (o : Out) : (c.emit o).fwcBusy = c.fwcBusy := rfl
@[simp] theorem Chip.emit_update (o : Out) : (c.emit o).update = c.update := rfl
@[simp] theorem Chip.emit_smbAddr (o : Out) : (c.emit o).smbAddr = c.smbAddr := rfl
@[simp] theorem Chip.emit_bootSafe (o : Out) : (c.emit o).bootSafe = c.bootSafe := rfl
@[simp] theorem Chip.emit_safeOut (o : Out) : (c.emit o).safeOut = c.safeOut := rfl
@[simp] theorem Chip.emit_skipPower (o : Out) : (c.emit o).skipPower = c.skipPower := rfl
@[simp] theorem Chip.emit_skipTemp (o : Out) : (c.emit o).skipTemp = c.skipTemp := rfl
@[simp] theorem Chip.emit_bellDone (o : Out) : (c.emit o).bellDone = c.bellDone := rfl
@[simp] theorem Chip.emit_modeBell (o : Out) : (c.emit o).modeBell = c.modeBell := rfl
@[simp] theorem Chip.emit_hotBell (o : Out) : (c.emit o).hotBell = c.hotBell := rfl
@[simp] theorem Chip.emit_forceBell (o : Out) : (c.emit o).forceBell = c.forceBell := rfl
@[simp] theorem Chip.emit_rtcAt (o : Out) : (c.emit o).rtcAt = c.rtcAt := rfl
@[simp] theorem Chip.emit_inputs (o : Out) : (c.emit o).inputs = c.inputs := rfl
@[simp] theorem Chip.emit_holds (o : Out) : (c.emit o).holds = c.holds := rfl
@[simp] theorem Chip.emit_twin (o : Out) : (c.emit o).twin = c.twin := rfl
@[simp] theorem Chip.emit_freeCtr (o : Out) : (c.emit o).freeCtr = c.freeCtr := rfl

/-! ### advanceTo -/

@[simp] theorem Chip.advanceTo_variant (n : Nat) : (c.advanceTo n).variant = c.variant := rfl
@[simp] theorem Chip.advanceTo_mst (n : Nat) : (c.advanceTo n).mst = c.mst := rfl
@[simp] theorem Chip.advanceTo_mode (n : Nat) : (c.advanceTo n).mode = c.mode := rfl
@[simp] theorem Chip.advanceTo_regs (n : Nat) : (c.advanceTo n).regs = c.regs := rfl
@[simp] theorem Chip.advanceTo_rdLatch (n : Nat) : (c.advanceTo n).rdLatch = c.rdLatch := rfl
@[simp] theorem Chip.advanceTo_wrLatch (n : Nat) : (c.advanceTo n).wrLatch = c.wrLatch := rfl
@[simp] theorem Chip.advanceTo_srcs (n : Nat) : (c.advanceTo n).srcs = c.srcs := rfl
@[simp] theorem Chip.advanceTo_irqDue (n : Nat) : (c.advanceTo n).irqDue = c.irqDue := rfl
@[simp] theorem Chip.advanceTo_irqLast (n : Nat) : (c.advanceTo n).irqLast = c.irqLast := rfl
@[simp] theorem Chip.advanceTo_safeReq (n : Nat) : (c.advanceTo n).safeReq = c.safeReq := rfl
@[simp] theorem Chip.advanceTo_containReq (n : Nat) : (c.advanceTo n).containReq = c.containReq := rfl
@[simp] theorem Chip.advanceTo_crib (n : Nat) : (c.advanceTo n).crib = c.crib := rfl
@[simp] theorem Chip.advanceTo_grn (n : Nat) : (c.advanceTo n).grn = c.grn := rfl
@[simp] theorem Chip.advanceTo_loft (n : Nat) : (c.advanceTo n).loft = c.loft := rfl
@[simp] theorem Chip.advanceTo_host (n : Nat) : (c.advanceTo n).host = c.host := rfl
@[simp] theorem Chip.advanceTo_allot (n : Nat) : (c.advanceTo n).allot = c.allot := rfl
@[simp] theorem Chip.advanceTo_xcache (n : Nat) : (c.advanceTo n).xcache = c.xcache := rfl
@[simp] theorem Chip.advanceTo_engCache (n : Nat) : (c.advanceTo n).engCache = c.engCache := rfl
@[simp] theorem Chip.advanceTo_walks (n : Nat) : (c.advanceTo n).walks = c.walks := rfl
@[simp] theorem Chip.advanceTo_spaces (n : Nat) : (c.advanceTo n).spaces = c.spaces := rfl
@[simp] theorem Chip.advanceTo_invals (n : Nat) : (c.advanceTo n).invals = c.invals := rfl
@[simp] theorem Chip.advanceTo_prefetches (n : Nat) : (c.advanceTo n).prefetches = c.prefetches := rfl
@[simp] theorem Chip.advanceTo_ctxs (n : Nat) : (c.advanceTo n).ctxs = c.ctxs := rfl
@[simp] theorem Chip.advanceTo_readmitReq (n : Nat) : (c.advanceTo n).readmitReq = c.readmitReq := rfl
@[simp] theorem Chip.advanceTo_trainCache (n : Nat) : (c.advanceTo n).trainCache = c.trainCache := rfl
@[simp] theorem Chip.advanceTo_trainWhy (n : Nat) : (c.advanceTo n).trainWhy = c.trainWhy := rfl
@[simp] theorem Chip.advanceTo_trainRev (n : Nat) : (c.advanceTo n).trainRev = c.trainRev := rfl
@[simp] theorem Chip.advanceTo_links (n : Nat) : (c.advanceTo n).links = c.links := rfl
@[simp] theorem Chip.advanceTo_clk (n : Nat) : (c.advanceTo n).clk = c.clk := rfl
@[simp] theorem Chip.advanceTo_epochTag (n : Nat) : (c.advanceTo n).epochTag = c.epochTag := rfl
@[simp] theorem Chip.advanceTo_wireTick (n : Nat) : (c.advanceTo n).wireTick = c.wireTick := rfl
@[simp] theorem Chip.advanceTo_wireBytes (n : Nat) : (c.advanceTo n).wireBytes = c.wireBytes := rfl
@[simp] theorem Chip.advanceTo_mute (n : Nat) : (c.advanceTo n).mute = c.mute := rfl
@[simp] theorem Chip.advanceTo_consent (n : Nat) : (c.advanceTo n).consent = c.consent := rfl
@[simp] theorem Chip.advanceTo_lossCarried (n : Nat) : (c.advanceTo n).lossCarried = c.lossCarried := rfl
@[simp] theorem Chip.advanceTo_thr (n : Nat) : (c.advanceTo n).thr = c.thr := rfl
@[simp] theorem Chip.advanceTo_chaffClear (n : Nat) : (c.advanceTo n).chaffClear = c.chaffClear := rfl
@[simp] theorem Chip.advanceTo_cmb (n : Nat) : (c.advanceTo n).cmb = c.cmb := rfl
@[simp] theorem Chip.advanceTo_xsOut (n : Nat) : (c.advanceTo n).xsOut = c.xsOut := rfl
@[simp] theorem Chip.advanceTo_tgrpDue (n : Nat) : (c.advanceTo n).tgrpDue = c.tgrpDue := rfl
@[simp] theorem Chip.advanceTo_twinHb (n : Nat) : (c.advanceTo n).twinHb = c.twinHb := rfl
@[simp] theorem Chip.advanceTo_mirrorAll (n : Nat) : (c.advanceTo n).mirrorAll = c.mirrorAll := rfl
@[simp] theorem Chip.advanceTo_keys (n : Nat) : (c.advanceTo n).keys = c.keys := rfl
@[simp] theorem Chip.advanceTo_keyStage (n : Nat) : (c.advanceTo n).keyStage = c.keyStage := rfl
@[simp] theorem Chip.advanceTo_queues (n : Nat) : (c.advanceTo n).queues = c.queues := rfl
@[simp] theorem Chip.advanceTo_qps (n : Nat) : (c.advanceTo n).qps = c.qps := rfl
@[simp] theorem Chip.advanceTo_lastQpns (n : Nat) : (c.advanceTo n).lastQpns = c.lastQpns := rfl
@[simp] theorem Chip.advanceTo_ctxCache (n : Nat) : (c.advanceTo n).ctxCache = c.ctxCache := rfl
@[simp] theorem Chip.advanceTo_ctxMiss (n : Nat) : (c.advanceTo n).ctxMiss = c.ctxMiss := rfl
@[simp] theorem Chip.advanceTo_ctxOps (n : Nat) : (c.advanceTo n).ctxOps = c.ctxOps := rfl
@[simp] theorem Chip.advanceTo_notices (n : Nat) : (c.advanceTo n).notices = c.notices := rfl
@[simp] theorem Chip.advanceTo_ringFail (n : Nat) : (c.advanceTo n).ringFail = c.ringFail := rfl
@[simp] theorem Chip.advanceTo_loopRx (n : Nat) : (c.advanceTo n).loopRx = c.loopRx := rfl
@[simp] theorem Chip.advanceTo_admWait (n : Nat) : (c.advanceTo n).admWait = c.admWait := rfl
@[simp] theorem Chip.advanceTo_gap (n : Nat) : (c.advanceTo n).gap = c.gap := rfl
@[simp] theorem Chip.advanceTo_ports (n : Nat) : (c.advanceTo n).ports = c.ports := rfl
@[simp] theorem Chip.advanceTo_shapers (n : Nat) : (c.advanceTo n).shapers = c.shapers := rfl
@[simp] theorem Chip.advanceTo_ppsUntil (n : Nat) : (c.advanceTo n).ppsUntil = c.ppsUntil := rfl
@[simp] theorem Chip.advanceTo_insResets (n : Nat) : (c.advanceTo n).insResets = c.insResets := rfl
@[simp] theorem Chip.advanceTo_again (n : Nat) : (c.advanceTo n).again = c.again := rfl
@[simp] theorem Chip.advanceTo_mbOut (n : Nat) : (c.advanceTo n).mbOut = c.mbOut := rfl
@[simp] theorem Chip.advanceTo_relay (n : Nat) : (c.advanceTo n).relay = c.relay := rfl
@[simp] theorem Chip.advanceTo_relaySeen (n : Nat) : (c.advanceTo n).relaySeen = c.relaySeen := rfl
@[simp] theorem Chip.advanceTo_hello (n : Nat) : (c.advanceTo n).hello = c.hello := rfl
@[simp] theorem Chip.advanceTo_hostReady (n : Nat) : (c.advanceTo n).hostReady = c.hostReady := rfl
@[simp] theorem Chip.advanceTo_plainWrites (n : Nat) : (c.advanceTo n).plainWrites = c.plainWrites := rfl
@[simp] theorem Chip.advanceTo_cplTimeout (n : Nat) : (c.advanceTo n).cplTimeout = c.cplTimeout := rfl
@[simp] theorem Chip.advanceTo_hostBad (n : Nat) : (c.advanceTo n).hostBad = c.hostBad := rfl
@[simp] theorem Chip.advanceTo_probes (n : Nat) : (c.advanceTo n).probes = c.probes := rfl
@[simp] theorem Chip.advanceTo_restarts (n : Nat) : (c.advanceTo n).restarts = c.restarts := rfl
@[simp] theorem Chip.advanceTo_flash (n : Nat) : (c.advanceTo n).flash = c.flash := rfl
@[simp] theorem Chip.advanceTo_verified (n : Nat) : (c.advanceTo n).verified = c.verified := rfl
@[simp] theorem Chip.advanceTo_fwcBusy (n : Nat) : (c.advanceTo n).fwcBusy = c.fwcBusy := rfl
@[simp] theorem Chip.advanceTo_update (n : Nat) : (c.advanceTo n).update = c.update := rfl
@[simp] theorem Chip.advanceTo_smbAddr (n : Nat) : (c.advanceTo n).smbAddr = c.smbAddr := rfl
@[simp] theorem Chip.advanceTo_bootSafe (n : Nat) : (c.advanceTo n).bootSafe = c.bootSafe := rfl
@[simp] theorem Chip.advanceTo_safeOut (n : Nat) : (c.advanceTo n).safeOut = c.safeOut := rfl
@[simp] theorem Chip.advanceTo_skipPower (n : Nat) : (c.advanceTo n).skipPower = c.skipPower := rfl
@[simp] theorem Chip.advanceTo_skipTemp (n : Nat) : (c.advanceTo n).skipTemp = c.skipTemp := rfl
@[simp] theorem Chip.advanceTo_bellDone (n : Nat) : (c.advanceTo n).bellDone = c.bellDone := rfl
@[simp] theorem Chip.advanceTo_modeBell (n : Nat) : (c.advanceTo n).modeBell = c.modeBell := rfl
@[simp] theorem Chip.advanceTo_hotBell (n : Nat) : (c.advanceTo n).hotBell = c.hotBell := rfl
@[simp] theorem Chip.advanceTo_forceBell (n : Nat) : (c.advanceTo n).forceBell = c.forceBell := rfl
@[simp] theorem Chip.advanceTo_rtcAt (n : Nat) : (c.advanceTo n).rtcAt = c.rtcAt := rfl
@[simp] theorem Chip.advanceTo_inputs (n : Nat) : (c.advanceTo n).inputs = c.inputs := rfl
@[simp] theorem Chip.advanceTo_holds (n : Nat) : (c.advanceTo n).holds = c.holds := rfl
@[simp] theorem Chip.advanceTo_twin (n : Nat) : (c.advanceTo n).twin = c.twin := rfl
@[simp] theorem Chip.advanceTo_out (n : Nat) : (c.advanceTo n).out = c.out := rfl
@[simp] theorem Chip.advanceTo_freeCtr (n : Nat) : (c.advanceTo n).freeCtr = c.freeCtr := rfl

/-! ### setSrc -/

@[simp] theorem Chip.setSrc_variant (k : Nat) (x : Src) : (c.setSrc k x).variant = c.variant := rfl
@[simp] theorem Chip.setSrc_mst (k : Nat) (x : Src) : (c.setSrc k x).mst = c.mst := rfl
@[simp] theorem Chip.setSrc_mode (k : Nat) (x : Src) : (c.setSrc k x).mode = c.mode := rfl
@[simp] theorem Chip.setSrc_beat (k : Nat) (x : Src) : (c.setSrc k x).beat = c.beat := rfl
@[simp] theorem Chip.setSrc_regs (k : Nat) (x : Src) : (c.setSrc k x).regs = c.regs := rfl
@[simp] theorem Chip.setSrc_rdLatch (k : Nat) (x : Src) : (c.setSrc k x).rdLatch = c.rdLatch := rfl
@[simp] theorem Chip.setSrc_wrLatch (k : Nat) (x : Src) : (c.setSrc k x).wrLatch = c.wrLatch := rfl
@[simp] theorem Chip.setSrc_irqDue (k : Nat) (x : Src) : (c.setSrc k x).irqDue = c.irqDue := rfl
@[simp] theorem Chip.setSrc_irqLast (k : Nat) (x : Src) : (c.setSrc k x).irqLast = c.irqLast := rfl
@[simp] theorem Chip.setSrc_safeReq (k : Nat) (x : Src) : (c.setSrc k x).safeReq = c.safeReq := rfl
@[simp] theorem Chip.setSrc_containReq (k : Nat) (x : Src) : (c.setSrc k x).containReq = c.containReq := rfl
@[simp] theorem Chip.setSrc_crib (k : Nat) (x : Src) : (c.setSrc k x).crib = c.crib := rfl
@[simp] theorem Chip.setSrc_grn (k : Nat) (x : Src) : (c.setSrc k x).grn = c.grn := rfl
@[simp] theorem Chip.setSrc_loft (k : Nat) (x : Src) : (c.setSrc k x).loft = c.loft := rfl
@[simp] theorem Chip.setSrc_host (k : Nat) (x : Src) : (c.setSrc k x).host = c.host := rfl
@[simp] theorem Chip.setSrc_allot (k : Nat) (x : Src) : (c.setSrc k x).allot = c.allot := rfl
@[simp] theorem Chip.setSrc_xcache (k : Nat) (x : Src) : (c.setSrc k x).xcache = c.xcache := rfl
@[simp] theorem Chip.setSrc_engCache (k : Nat) (x : Src) : (c.setSrc k x).engCache = c.engCache := rfl
@[simp] theorem Chip.setSrc_walks (k : Nat) (x : Src) : (c.setSrc k x).walks = c.walks := rfl
@[simp] theorem Chip.setSrc_spaces (k : Nat) (x : Src) : (c.setSrc k x).spaces = c.spaces := rfl
@[simp] theorem Chip.setSrc_invals (k : Nat) (x : Src) : (c.setSrc k x).invals = c.invals := rfl
@[simp] theorem Chip.setSrc_prefetches (k : Nat) (x : Src) : (c.setSrc k x).prefetches = c.prefetches := rfl
@[simp] theorem Chip.setSrc_ctxs (k : Nat) (x : Src) : (c.setSrc k x).ctxs = c.ctxs := rfl
@[simp] theorem Chip.setSrc_readmitReq (k : Nat) (x : Src) : (c.setSrc k x).readmitReq = c.readmitReq := rfl
@[simp] theorem Chip.setSrc_trainCache (k : Nat) (x : Src) : (c.setSrc k x).trainCache = c.trainCache := rfl
@[simp] theorem Chip.setSrc_trainWhy (k : Nat) (x : Src) : (c.setSrc k x).trainWhy = c.trainWhy := rfl
@[simp] theorem Chip.setSrc_trainRev (k : Nat) (x : Src) : (c.setSrc k x).trainRev = c.trainRev := rfl
@[simp] theorem Chip.setSrc_links (k : Nat) (x : Src) : (c.setSrc k x).links = c.links := rfl
@[simp] theorem Chip.setSrc_clk (k : Nat) (x : Src) : (c.setSrc k x).clk = c.clk := rfl
@[simp] theorem Chip.setSrc_epochTag (k : Nat) (x : Src) : (c.setSrc k x).epochTag = c.epochTag := rfl
@[simp] theorem Chip.setSrc_wireTick (k : Nat) (x : Src) : (c.setSrc k x).wireTick = c.wireTick := rfl
@[simp] theorem Chip.setSrc_wireBytes (k : Nat) (x : Src) : (c.setSrc k x).wireBytes = c.wireBytes := rfl
@[simp] theorem Chip.setSrc_mute (k : Nat) (x : Src) : (c.setSrc k x).mute = c.mute := rfl
@[simp] theorem Chip.setSrc_consent (k : Nat) (x : Src) : (c.setSrc k x).consent = c.consent := rfl
@[simp] theorem Chip.setSrc_lossCarried (k : Nat) (x : Src) : (c.setSrc k x).lossCarried = c.lossCarried := rfl
@[simp] theorem Chip.setSrc_thr (k : Nat) (x : Src) : (c.setSrc k x).thr = c.thr := rfl
@[simp] theorem Chip.setSrc_chaffClear (k : Nat) (x : Src) : (c.setSrc k x).chaffClear = c.chaffClear := rfl
@[simp] theorem Chip.setSrc_cmb (k : Nat) (x : Src) : (c.setSrc k x).cmb = c.cmb := rfl
@[simp] theorem Chip.setSrc_xsOut (k : Nat) (x : Src) : (c.setSrc k x).xsOut = c.xsOut := rfl
@[simp] theorem Chip.setSrc_tgrpDue (k : Nat) (x : Src) : (c.setSrc k x).tgrpDue = c.tgrpDue := rfl
@[simp] theorem Chip.setSrc_twinHb (k : Nat) (x : Src) : (c.setSrc k x).twinHb = c.twinHb := rfl
@[simp] theorem Chip.setSrc_mirrorAll (k : Nat) (x : Src) : (c.setSrc k x).mirrorAll = c.mirrorAll := rfl
@[simp] theorem Chip.setSrc_keys (k : Nat) (x : Src) : (c.setSrc k x).keys = c.keys := rfl
@[simp] theorem Chip.setSrc_keyStage (k : Nat) (x : Src) : (c.setSrc k x).keyStage = c.keyStage := rfl
@[simp] theorem Chip.setSrc_queues (k : Nat) (x : Src) : (c.setSrc k x).queues = c.queues := rfl
@[simp] theorem Chip.setSrc_qps (k : Nat) (x : Src) : (c.setSrc k x).qps = c.qps := rfl
@[simp] theorem Chip.setSrc_lastQpns (k : Nat) (x : Src) : (c.setSrc k x).lastQpns = c.lastQpns := rfl
@[simp] theorem Chip.setSrc_ctxCache (k : Nat) (x : Src) : (c.setSrc k x).ctxCache = c.ctxCache := rfl
@[simp] theorem Chip.setSrc_ctxMiss (k : Nat) (x : Src) : (c.setSrc k x).ctxMiss = c.ctxMiss := rfl
@[simp] theorem Chip.setSrc_ctxOps (k : Nat) (x : Src) : (c.setSrc k x).ctxOps = c.ctxOps := rfl
@[simp] theorem Chip.setSrc_notices (k : Nat) (x : Src) : (c.setSrc k x).notices = c.notices := rfl
@[simp] theorem Chip.setSrc_ringFail (k : Nat) (x : Src) : (c.setSrc k x).ringFail = c.ringFail := rfl
@[simp] theorem Chip.setSrc_loopRx (k : Nat) (x : Src) : (c.setSrc k x).loopRx = c.loopRx := rfl
@[simp] theorem Chip.setSrc_admWait (k : Nat) (x : Src) : (c.setSrc k x).admWait = c.admWait := rfl
@[simp] theorem Chip.setSrc_gap (k : Nat) (x : Src) : (c.setSrc k x).gap = c.gap := rfl
@[simp] theorem Chip.setSrc_ports (k : Nat) (x : Src) : (c.setSrc k x).ports = c.ports := rfl
@[simp] theorem Chip.setSrc_shapers (k : Nat) (x : Src) : (c.setSrc k x).shapers = c.shapers := rfl
@[simp] theorem Chip.setSrc_ppsUntil (k : Nat) (x : Src) : (c.setSrc k x).ppsUntil = c.ppsUntil := rfl
@[simp] theorem Chip.setSrc_insResets (k : Nat) (x : Src) : (c.setSrc k x).insResets = c.insResets := rfl
@[simp] theorem Chip.setSrc_again (k : Nat) (x : Src) : (c.setSrc k x).again = c.again := rfl
@[simp] theorem Chip.setSrc_mbOut (k : Nat) (x : Src) : (c.setSrc k x).mbOut = c.mbOut := rfl
@[simp] theorem Chip.setSrc_relay (k : Nat) (x : Src) : (c.setSrc k x).relay = c.relay := rfl
@[simp] theorem Chip.setSrc_relaySeen (k : Nat) (x : Src) : (c.setSrc k x).relaySeen = c.relaySeen := rfl
@[simp] theorem Chip.setSrc_hello (k : Nat) (x : Src) : (c.setSrc k x).hello = c.hello := rfl
@[simp] theorem Chip.setSrc_hostReady (k : Nat) (x : Src) : (c.setSrc k x).hostReady = c.hostReady := rfl
@[simp] theorem Chip.setSrc_plainWrites (k : Nat) (x : Src) : (c.setSrc k x).plainWrites = c.plainWrites := rfl
@[simp] theorem Chip.setSrc_cplTimeout (k : Nat) (x : Src) : (c.setSrc k x).cplTimeout = c.cplTimeout := rfl
@[simp] theorem Chip.setSrc_hostBad (k : Nat) (x : Src) : (c.setSrc k x).hostBad = c.hostBad := rfl
@[simp] theorem Chip.setSrc_probes (k : Nat) (x : Src) : (c.setSrc k x).probes = c.probes := rfl
@[simp] theorem Chip.setSrc_restarts (k : Nat) (x : Src) : (c.setSrc k x).restarts = c.restarts := rfl
@[simp] theorem Chip.setSrc_flash (k : Nat) (x : Src) : (c.setSrc k x).flash = c.flash := rfl
@[simp] theorem Chip.setSrc_verified (k : Nat) (x : Src) : (c.setSrc k x).verified = c.verified := rfl
@[simp] theorem Chip.setSrc_fwcBusy (k : Nat) (x : Src) : (c.setSrc k x).fwcBusy = c.fwcBusy := rfl
@[simp] theorem Chip.setSrc_update (k : Nat) (x : Src) : (c.setSrc k x).update = c.update := rfl
@[simp] theorem Chip.setSrc_smbAddr (k : Nat) (x : Src) : (c.setSrc k x).smbAddr = c.smbAddr := rfl
@[simp] theorem Chip.setSrc_bootSafe (k : Nat) (x : Src) : (c.setSrc k x).bootSafe = c.bootSafe := rfl
@[simp] theorem Chip.setSrc_safeOut (k : Nat) (x : Src) : (c.setSrc k x).safeOut = c.safeOut := rfl
@[simp] theorem Chip.setSrc_skipPower (k : Nat) (x : Src) : (c.setSrc k x).skipPower = c.skipPower := rfl
@[simp] theorem Chip.setSrc_skipTemp (k : Nat) (x : Src) : (c.setSrc k x).skipTemp = c.skipTemp := rfl
@[simp] theorem Chip.setSrc_bellDone (k : Nat) (x : Src) : (c.setSrc k x).bellDone = c.bellDone := rfl
@[simp] theorem Chip.setSrc_modeBell (k : Nat) (x : Src) : (c.setSrc k x).modeBell = c.modeBell := rfl
@[simp] theorem Chip.setSrc_hotBell (k : Nat) (x : Src) : (c.setSrc k x).hotBell = c.hotBell := rfl
@[simp] theorem Chip.setSrc_forceBell (k : Nat) (x : Src) : (c.setSrc k x).forceBell = c.forceBell := rfl
@[simp] theorem Chip.setSrc_rtcAt (k : Nat) (x : Src) : (c.setSrc k x).rtcAt = c.rtcAt := rfl
@[simp] theorem Chip.setSrc_inputs (k : Nat) (x : Src) : (c.setSrc k x).inputs = c.inputs := rfl
@[simp] theorem Chip.setSrc_holds (k : Nat) (x : Src) : (c.setSrc k x).holds = c.holds := rfl
@[simp] theorem Chip.setSrc_twin (k : Nat) (x : Src) : (c.setSrc k x).twin = c.twin := rfl
@[simp] theorem Chip.setSrc_out (k : Nat) (x : Src) : (c.setSrc k x).out = c.out := rfl
@[simp] theorem Chip.setSrc_freeCtr (k : Nat) (x : Src) : (c.setSrc k x).freeCtr = c.freeCtr := rfl

/-! ### setCtx -/

@[simp] theorem Chip.setCtx_variant (k : Nat) (x : Ctx) : (c.setCtx k x).variant = c.variant := rfl
@[simp] theorem Chip.setCtx_mst (k : Nat) (x : Ctx) : (c.setCtx k x).mst = c.mst := rfl
@[simp] theorem Chip.setCtx_mode (k : Nat) (x : Ctx) : (c.setCtx k x).mode = c.mode := rfl
@[simp] theorem Chip.setCtx_beat (k : Nat) (x : Ctx) : (c.setCtx k x).beat = c.beat := rfl
@[simp] theorem Chip.setCtx_regs (k : Nat) (x : Ctx) : (c.setCtx k x).regs = c.regs := rfl
@[simp] theorem Chip.setCtx_rdLatch (k : Nat) (x : Ctx) : (c.setCtx k x).rdLatch = c.rdLatch := rfl
@[simp] theorem Chip.setCtx_wrLatch (k : Nat) (x : Ctx) : (c.setCtx k x).wrLatch = c.wrLatch := rfl
@[simp] theorem Chip.setCtx_srcs (k : Nat) (x : Ctx) : (c.setCtx k x).srcs = c.srcs := rfl
@[simp] theorem Chip.setCtx_irqDue (k : Nat) (x : Ctx) : (c.setCtx k x).irqDue = c.irqDue := rfl
@[simp] theorem Chip.setCtx_irqLast (k : Nat) (x : Ctx) : (c.setCtx k x).irqLast = c.irqLast := rfl
@[simp] theorem Chip.setCtx_safeReq (k : Nat) (x : Ctx) : (c.setCtx k x).safeReq = c.safeReq := rfl
@[simp] theorem Chip.setCtx_containReq (k : Nat) (x : Ctx) : (c.setCtx k x).containReq = c.containReq := rfl
@[simp] theorem Chip.setCtx_crib (k : Nat) (x : Ctx) : (c.setCtx k x).crib = c.crib := rfl
@[simp] theorem Chip.setCtx_grn (k : Nat) (x : Ctx) : (c.setCtx k x).grn = c.grn := rfl
@[simp] theorem Chip.setCtx_loft (k : Nat) (x : Ctx) : (c.setCtx k x).loft = c.loft := rfl
@[simp] theorem Chip.setCtx_host (k : Nat) (x : Ctx) : (c.setCtx k x).host = c.host := rfl
@[simp] theorem Chip.setCtx_allot (k : Nat) (x : Ctx) : (c.setCtx k x).allot = c.allot := rfl
@[simp] theorem Chip.setCtx_xcache (k : Nat) (x : Ctx) : (c.setCtx k x).xcache = c.xcache := rfl
@[simp] theorem Chip.setCtx_engCache (k : Nat) (x : Ctx) : (c.setCtx k x).engCache = c.engCache := rfl
@[simp] theorem Chip.setCtx_walks (k : Nat) (x : Ctx) : (c.setCtx k x).walks = c.walks := rfl
@[simp] theorem Chip.setCtx_spaces (k : Nat) (x : Ctx) : (c.setCtx k x).spaces = c.spaces := rfl
@[simp] theorem Chip.setCtx_invals (k : Nat) (x : Ctx) : (c.setCtx k x).invals = c.invals := rfl
@[simp] theorem Chip.setCtx_prefetches (k : Nat) (x : Ctx) : (c.setCtx k x).prefetches = c.prefetches := rfl
@[simp] theorem Chip.setCtx_readmitReq (k : Nat) (x : Ctx) : (c.setCtx k x).readmitReq = c.readmitReq := rfl
@[simp] theorem Chip.setCtx_trainCache (k : Nat) (x : Ctx) : (c.setCtx k x).trainCache = c.trainCache := rfl
@[simp] theorem Chip.setCtx_trainWhy (k : Nat) (x : Ctx) : (c.setCtx k x).trainWhy = c.trainWhy := rfl
@[simp] theorem Chip.setCtx_trainRev (k : Nat) (x : Ctx) : (c.setCtx k x).trainRev = c.trainRev := rfl
@[simp] theorem Chip.setCtx_links (k : Nat) (x : Ctx) : (c.setCtx k x).links = c.links := rfl
@[simp] theorem Chip.setCtx_clk (k : Nat) (x : Ctx) : (c.setCtx k x).clk = c.clk := rfl
@[simp] theorem Chip.setCtx_epochTag (k : Nat) (x : Ctx) : (c.setCtx k x).epochTag = c.epochTag := rfl
@[simp] theorem Chip.setCtx_wireTick (k : Nat) (x : Ctx) : (c.setCtx k x).wireTick = c.wireTick := rfl
@[simp] theorem Chip.setCtx_wireBytes (k : Nat) (x : Ctx) : (c.setCtx k x).wireBytes = c.wireBytes := rfl
@[simp] theorem Chip.setCtx_mute (k : Nat) (x : Ctx) : (c.setCtx k x).mute = c.mute := rfl
@[simp] theorem Chip.setCtx_consent (k : Nat) (x : Ctx) : (c.setCtx k x).consent = c.consent := rfl
@[simp] theorem Chip.setCtx_lossCarried (k : Nat) (x : Ctx) : (c.setCtx k x).lossCarried = c.lossCarried := rfl
@[simp] theorem Chip.setCtx_thr (k : Nat) (x : Ctx) : (c.setCtx k x).thr = c.thr := rfl
@[simp] theorem Chip.setCtx_chaffClear (k : Nat) (x : Ctx) : (c.setCtx k x).chaffClear = c.chaffClear := rfl
@[simp] theorem Chip.setCtx_cmb (k : Nat) (x : Ctx) : (c.setCtx k x).cmb = c.cmb := rfl
@[simp] theorem Chip.setCtx_xsOut (k : Nat) (x : Ctx) : (c.setCtx k x).xsOut = c.xsOut := rfl
@[simp] theorem Chip.setCtx_tgrpDue (k : Nat) (x : Ctx) : (c.setCtx k x).tgrpDue = c.tgrpDue := rfl
@[simp] theorem Chip.setCtx_twinHb (k : Nat) (x : Ctx) : (c.setCtx k x).twinHb = c.twinHb := rfl
@[simp] theorem Chip.setCtx_mirrorAll (k : Nat) (x : Ctx) : (c.setCtx k x).mirrorAll = c.mirrorAll := rfl
@[simp] theorem Chip.setCtx_keys (k : Nat) (x : Ctx) : (c.setCtx k x).keys = c.keys := rfl
@[simp] theorem Chip.setCtx_keyStage (k : Nat) (x : Ctx) : (c.setCtx k x).keyStage = c.keyStage := rfl
@[simp] theorem Chip.setCtx_queues (k : Nat) (x : Ctx) : (c.setCtx k x).queues = c.queues := rfl
@[simp] theorem Chip.setCtx_qps (k : Nat) (x : Ctx) : (c.setCtx k x).qps = c.qps := rfl
@[simp] theorem Chip.setCtx_lastQpns (k : Nat) (x : Ctx) : (c.setCtx k x).lastQpns = c.lastQpns := rfl
@[simp] theorem Chip.setCtx_ctxCache (k : Nat) (x : Ctx) : (c.setCtx k x).ctxCache = c.ctxCache := rfl
@[simp] theorem Chip.setCtx_ctxMiss (k : Nat) (x : Ctx) : (c.setCtx k x).ctxMiss = c.ctxMiss := rfl
@[simp] theorem Chip.setCtx_ctxOps (k : Nat) (x : Ctx) : (c.setCtx k x).ctxOps = c.ctxOps := rfl
@[simp] theorem Chip.setCtx_notices (k : Nat) (x : Ctx) : (c.setCtx k x).notices = c.notices := rfl
@[simp] theorem Chip.setCtx_ringFail (k : Nat) (x : Ctx) : (c.setCtx k x).ringFail = c.ringFail := rfl
@[simp] theorem Chip.setCtx_loopRx (k : Nat) (x : Ctx) : (c.setCtx k x).loopRx = c.loopRx := rfl
@[simp] theorem Chip.setCtx_admWait (k : Nat) (x : Ctx) : (c.setCtx k x).admWait = c.admWait := rfl
@[simp] theorem Chip.setCtx_gap (k : Nat) (x : Ctx) : (c.setCtx k x).gap = c.gap := rfl
@[simp] theorem Chip.setCtx_ports (k : Nat) (x : Ctx) : (c.setCtx k x).ports = c.ports := rfl
@[simp] theorem Chip.setCtx_shapers (k : Nat) (x : Ctx) : (c.setCtx k x).shapers = c.shapers := rfl
@[simp] theorem Chip.setCtx_ppsUntil (k : Nat) (x : Ctx) : (c.setCtx k x).ppsUntil = c.ppsUntil := rfl
@[simp] theorem Chip.setCtx_insResets (k : Nat) (x : Ctx) : (c.setCtx k x).insResets = c.insResets := rfl
@[simp] theorem Chip.setCtx_again (k : Nat) (x : Ctx) : (c.setCtx k x).again = c.again := rfl
@[simp] theorem Chip.setCtx_mbOut (k : Nat) (x : Ctx) : (c.setCtx k x).mbOut = c.mbOut := rfl
@[simp] theorem Chip.setCtx_relay (k : Nat) (x : Ctx) : (c.setCtx k x).relay = c.relay := rfl
@[simp] theorem Chip.setCtx_relaySeen (k : Nat) (x : Ctx) : (c.setCtx k x).relaySeen = c.relaySeen := rfl
@[simp] theorem Chip.setCtx_hello (k : Nat) (x : Ctx) : (c.setCtx k x).hello = c.hello := rfl
@[simp] theorem Chip.setCtx_hostReady (k : Nat) (x : Ctx) : (c.setCtx k x).hostReady = c.hostReady := rfl
@[simp] theorem Chip.setCtx_plainWrites (k : Nat) (x : Ctx) : (c.setCtx k x).plainWrites = c.plainWrites := rfl
@[simp] theorem Chip.setCtx_cplTimeout (k : Nat) (x : Ctx) : (c.setCtx k x).cplTimeout = c.cplTimeout := rfl
@[simp] theorem Chip.setCtx_hostBad (k : Nat) (x : Ctx) : (c.setCtx k x).hostBad = c.hostBad := rfl
@[simp] theorem Chip.setCtx_probes (k : Nat) (x : Ctx) : (c.setCtx k x).probes = c.probes := rfl
@[simp] theorem Chip.setCtx_restarts (k : Nat) (x : Ctx) : (c.setCtx k x).restarts = c.restarts := rfl
@[simp] theorem Chip.setCtx_flash (k : Nat) (x : Ctx) : (c.setCtx k x).flash = c.flash := rfl
@[simp] theorem Chip.setCtx_verified (k : Nat) (x : Ctx) : (c.setCtx k x).verified = c.verified := rfl
@[simp] theorem Chip.setCtx_fwcBusy (k : Nat) (x : Ctx) : (c.setCtx k x).fwcBusy = c.fwcBusy := rfl
@[simp] theorem Chip.setCtx_update (k : Nat) (x : Ctx) : (c.setCtx k x).update = c.update := rfl
@[simp] theorem Chip.setCtx_smbAddr (k : Nat) (x : Ctx) : (c.setCtx k x).smbAddr = c.smbAddr := rfl
@[simp] theorem Chip.setCtx_bootSafe (k : Nat) (x : Ctx) : (c.setCtx k x).bootSafe = c.bootSafe := rfl
@[simp] theorem Chip.setCtx_safeOut (k : Nat) (x : Ctx) : (c.setCtx k x).safeOut = c.safeOut := rfl
@[simp] theorem Chip.setCtx_skipPower (k : Nat) (x : Ctx) : (c.setCtx k x).skipPower = c.skipPower := rfl
@[simp] theorem Chip.setCtx_skipTemp (k : Nat) (x : Ctx) : (c.setCtx k x).skipTemp = c.skipTemp := rfl
@[simp] theorem Chip.setCtx_bellDone (k : Nat) (x : Ctx) : (c.setCtx k x).bellDone = c.bellDone := rfl
@[simp] theorem Chip.setCtx_modeBell (k : Nat) (x : Ctx) : (c.setCtx k x).modeBell = c.modeBell := rfl
@[simp] theorem Chip.setCtx_hotBell (k : Nat) (x : Ctx) : (c.setCtx k x).hotBell = c.hotBell := rfl
@[simp] theorem Chip.setCtx_forceBell (k : Nat) (x : Ctx) : (c.setCtx k x).forceBell = c.forceBell := rfl
@[simp] theorem Chip.setCtx_rtcAt (k : Nat) (x : Ctx) : (c.setCtx k x).rtcAt = c.rtcAt := rfl
@[simp] theorem Chip.setCtx_inputs (k : Nat) (x : Ctx) : (c.setCtx k x).inputs = c.inputs := rfl
@[simp] theorem Chip.setCtx_holds (k : Nat) (x : Ctx) : (c.setCtx k x).holds = c.holds := rfl
@[simp] theorem Chip.setCtx_twin (k : Nat) (x : Ctx) : (c.setCtx k x).twin = c.twin := rfl
@[simp] theorem Chip.setCtx_out (k : Nat) (x : Ctx) : (c.setCtx k x).out = c.out := rfl
@[simp] theorem Chip.setCtx_freeCtr (k : Nat) (x : Ctx) : (c.setCtx k x).freeCtr = c.freeCtr := rfl

/-! ### setSpace -/

@[simp] theorem Chip.setSpace_variant (k : Nat) (x : Space) : (c.setSpace k x).variant = c.variant := rfl
@[simp] theorem Chip.setSpace_mst (k : Nat) (x : Space) : (c.setSpace k x).mst = c.mst := rfl
@[simp] theorem Chip.setSpace_mode (k : Nat) (x : Space) : (c.setSpace k x).mode = c.mode := rfl
@[simp] theorem Chip.setSpace_beat (k : Nat) (x : Space) : (c.setSpace k x).beat = c.beat := rfl
@[simp] theorem Chip.setSpace_regs (k : Nat) (x : Space) : (c.setSpace k x).regs = c.regs := rfl
@[simp] theorem Chip.setSpace_rdLatch (k : Nat) (x : Space) : (c.setSpace k x).rdLatch = c.rdLatch := rfl
@[simp] theorem Chip.setSpace_wrLatch (k : Nat) (x : Space) : (c.setSpace k x).wrLatch = c.wrLatch := rfl
@[simp] theorem Chip.setSpace_srcs (k : Nat) (x : Space) : (c.setSpace k x).srcs = c.srcs := rfl
@[simp] theorem Chip.setSpace_irqDue (k : Nat) (x : Space) : (c.setSpace k x).irqDue = c.irqDue := rfl
@[simp] theorem Chip.setSpace_irqLast (k : Nat) (x : Space) : (c.setSpace k x).irqLast = c.irqLast := rfl
@[simp] theorem Chip.setSpace_safeReq (k : Nat) (x : Space) : (c.setSpace k x).safeReq = c.safeReq := rfl
@[simp] theorem Chip.setSpace_containReq (k : Nat) (x : Space) : (c.setSpace k x).containReq = c.containReq := rfl
@[simp] theorem Chip.setSpace_crib (k : Nat) (x : Space) : (c.setSpace k x).crib = c.crib := rfl
@[simp] theorem Chip.setSpace_grn (k : Nat) (x : Space) : (c.setSpace k x).grn = c.grn := rfl
@[simp] theorem Chip.setSpace_loft (k : Nat) (x : Space) : (c.setSpace k x).loft = c.loft := rfl
@[simp] theorem Chip.setSpace_host (k : Nat) (x : Space) : (c.setSpace k x).host = c.host := rfl
@[simp] theorem Chip.setSpace_allot (k : Nat) (x : Space) : (c.setSpace k x).allot = c.allot := rfl
@[simp] theorem Chip.setSpace_xcache (k : Nat) (x : Space) : (c.setSpace k x).xcache = c.xcache := rfl
@[simp] theorem Chip.setSpace_engCache (k : Nat) (x : Space) : (c.setSpace k x).engCache = c.engCache := rfl
@[simp] theorem Chip.setSpace_walks (k : Nat) (x : Space) : (c.setSpace k x).walks = c.walks := rfl
@[simp] theorem Chip.setSpace_invals (k : Nat) (x : Space) : (c.setSpace k x).invals = c.invals := rfl
@[simp] theorem Chip.setSpace_prefetches (k : Nat) (x : Space) : (c.setSpace k x).prefetches = c.prefetches := rfl
@[simp] theorem Chip.setSpace_ctxs (k : Nat) (x : Space) : (c.setSpace k x).ctxs = c.ctxs := rfl
@[simp] theorem Chip.setSpace_readmitReq (k : Nat) (x : Space) : (c.setSpace k x).readmitReq = c.readmitReq := rfl
@[simp] theorem Chip.setSpace_trainCache (k : Nat) (x : Space) : (c.setSpace k x).trainCache = c.trainCache := rfl
@[simp] theorem Chip.setSpace_trainWhy (k : Nat) (x : Space) : (c.setSpace k x).trainWhy = c.trainWhy := rfl
@[simp] theorem Chip.setSpace_trainRev (k : Nat) (x : Space) : (c.setSpace k x).trainRev = c.trainRev := rfl
@[simp] theorem Chip.setSpace_links (k : Nat) (x : Space) : (c.setSpace k x).links = c.links := rfl
@[simp] theorem Chip.setSpace_clk (k : Nat) (x : Space) : (c.setSpace k x).clk = c.clk := rfl
@[simp] theorem Chip.setSpace_epochTag (k : Nat) (x : Space) : (c.setSpace k x).epochTag = c.epochTag := rfl
@[simp] theorem Chip.setSpace_wireTick (k : Nat) (x : Space) : (c.setSpace k x).wireTick = c.wireTick := rfl
@[simp] theorem Chip.setSpace_wireBytes (k : Nat) (x : Space) : (c.setSpace k x).wireBytes = c.wireBytes := rfl
@[simp] theorem Chip.setSpace_mute (k : Nat) (x : Space) : (c.setSpace k x).mute = c.mute := rfl
@[simp] theorem Chip.setSpace_consent (k : Nat) (x : Space) : (c.setSpace k x).consent = c.consent := rfl
@[simp] theorem Chip.setSpace_lossCarried (k : Nat) (x : Space) : (c.setSpace k x).lossCarried = c.lossCarried := rfl
@[simp] theorem Chip.setSpace_thr (k : Nat) (x : Space) : (c.setSpace k x).thr = c.thr := rfl
@[simp] theorem Chip.setSpace_chaffClear (k : Nat) (x : Space) : (c.setSpace k x).chaffClear = c.chaffClear := rfl
@[simp] theorem Chip.setSpace_cmb (k : Nat) (x : Space) : (c.setSpace k x).cmb = c.cmb := rfl
@[simp] theorem Chip.setSpace_xsOut (k : Nat) (x : Space) : (c.setSpace k x).xsOut = c.xsOut := rfl
@[simp] theorem Chip.setSpace_tgrpDue (k : Nat) (x : Space) : (c.setSpace k x).tgrpDue = c.tgrpDue := rfl
@[simp] theorem Chip.setSpace_twinHb (k : Nat) (x : Space) : (c.setSpace k x).twinHb = c.twinHb := rfl
@[simp] theorem Chip.setSpace_mirrorAll (k : Nat) (x : Space) : (c.setSpace k x).mirrorAll = c.mirrorAll := rfl
@[simp] theorem Chip.setSpace_keys (k : Nat) (x : Space) : (c.setSpace k x).keys = c.keys := rfl
@[simp] theorem Chip.setSpace_keyStage (k : Nat) (x : Space) : (c.setSpace k x).keyStage = c.keyStage := rfl
@[simp] theorem Chip.setSpace_queues (k : Nat) (x : Space) : (c.setSpace k x).queues = c.queues := rfl
@[simp] theorem Chip.setSpace_qps (k : Nat) (x : Space) : (c.setSpace k x).qps = c.qps := rfl
@[simp] theorem Chip.setSpace_lastQpns (k : Nat) (x : Space) : (c.setSpace k x).lastQpns = c.lastQpns := rfl
@[simp] theorem Chip.setSpace_ctxCache (k : Nat) (x : Space) : (c.setSpace k x).ctxCache = c.ctxCache := rfl
@[simp] theorem Chip.setSpace_ctxMiss (k : Nat) (x : Space) : (c.setSpace k x).ctxMiss = c.ctxMiss := rfl
@[simp] theorem Chip.setSpace_ctxOps (k : Nat) (x : Space) : (c.setSpace k x).ctxOps = c.ctxOps := rfl
@[simp] theorem Chip.setSpace_notices (k : Nat) (x : Space) : (c.setSpace k x).notices = c.notices := rfl
@[simp] theorem Chip.setSpace_ringFail (k : Nat) (x : Space) : (c.setSpace k x).ringFail = c.ringFail := rfl
@[simp] theorem Chip.setSpace_loopRx (k : Nat) (x : Space) : (c.setSpace k x).loopRx = c.loopRx := rfl
@[simp] theorem Chip.setSpace_admWait (k : Nat) (x : Space) : (c.setSpace k x).admWait = c.admWait := rfl
@[simp] theorem Chip.setSpace_gap (k : Nat) (x : Space) : (c.setSpace k x).gap = c.gap := rfl
@[simp] theorem Chip.setSpace_ports (k : Nat) (x : Space) : (c.setSpace k x).ports = c.ports := rfl
@[simp] theorem Chip.setSpace_shapers (k : Nat) (x : Space) : (c.setSpace k x).shapers = c.shapers := rfl
@[simp] theorem Chip.setSpace_ppsUntil (k : Nat) (x : Space) : (c.setSpace k x).ppsUntil = c.ppsUntil := rfl
@[simp] theorem Chip.setSpace_insResets (k : Nat) (x : Space) : (c.setSpace k x).insResets = c.insResets := rfl
@[simp] theorem Chip.setSpace_again (k : Nat) (x : Space) : (c.setSpace k x).again = c.again := rfl
@[simp] theorem Chip.setSpace_mbOut (k : Nat) (x : Space) : (c.setSpace k x).mbOut = c.mbOut := rfl
@[simp] theorem Chip.setSpace_relay (k : Nat) (x : Space) : (c.setSpace k x).relay = c.relay := rfl
@[simp] theorem Chip.setSpace_relaySeen (k : Nat) (x : Space) : (c.setSpace k x).relaySeen = c.relaySeen := rfl
@[simp] theorem Chip.setSpace_hello (k : Nat) (x : Space) : (c.setSpace k x).hello = c.hello := rfl
@[simp] theorem Chip.setSpace_hostReady (k : Nat) (x : Space) : (c.setSpace k x).hostReady = c.hostReady := rfl
@[simp] theorem Chip.setSpace_plainWrites (k : Nat) (x : Space) : (c.setSpace k x).plainWrites = c.plainWrites := rfl
@[simp] theorem Chip.setSpace_cplTimeout (k : Nat) (x : Space) : (c.setSpace k x).cplTimeout = c.cplTimeout := rfl
@[simp] theorem Chip.setSpace_hostBad (k : Nat) (x : Space) : (c.setSpace k x).hostBad = c.hostBad := rfl
@[simp] theorem Chip.setSpace_probes (k : Nat) (x : Space) : (c.setSpace k x).probes = c.probes := rfl
@[simp] theorem Chip.setSpace_restarts (k : Nat) (x : Space) : (c.setSpace k x).restarts = c.restarts := rfl
@[simp] theorem Chip.setSpace_flash (k : Nat) (x : Space) : (c.setSpace k x).flash = c.flash := rfl
@[simp] theorem Chip.setSpace_verified (k : Nat) (x : Space) : (c.setSpace k x).verified = c.verified := rfl
@[simp] theorem Chip.setSpace_fwcBusy (k : Nat) (x : Space) : (c.setSpace k x).fwcBusy = c.fwcBusy := rfl
@[simp] theorem Chip.setSpace_update (k : Nat) (x : Space) : (c.setSpace k x).update = c.update := rfl
@[simp] theorem Chip.setSpace_smbAddr (k : Nat) (x : Space) : (c.setSpace k x).smbAddr = c.smbAddr := rfl
@[simp] theorem Chip.setSpace_bootSafe (k : Nat) (x : Space) : (c.setSpace k x).bootSafe = c.bootSafe := rfl
@[simp] theorem Chip.setSpace_safeOut (k : Nat) (x : Space) : (c.setSpace k x).safeOut = c.safeOut := rfl
@[simp] theorem Chip.setSpace_skipPower (k : Nat) (x : Space) : (c.setSpace k x).skipPower = c.skipPower := rfl
@[simp] theorem Chip.setSpace_skipTemp (k : Nat) (x : Space) : (c.setSpace k x).skipTemp = c.skipTemp := rfl
@[simp] theorem Chip.setSpace_bellDone (k : Nat) (x : Space) : (c.setSpace k x).bellDone = c.bellDone := rfl
@[simp] theorem Chip.setSpace_modeBell (k : Nat) (x : Space) : (c.setSpace k x).modeBell = c.modeBell := rfl
@[simp] theorem Chip.setSpace_hotBell (k : Nat) (x : Space) : (c.setSpace k x).hotBell = c.hotBell := rfl
@[simp] theorem Chip.setSpace_forceBell (k : Nat) (x : Space) : (c.setSpace k x).forceBell = c.forceBell := rfl
@[simp] theorem Chip.setSpace_rtcAt (k : Nat) (x : Space) : (c.setSpace k x).rtcAt = c.rtcAt := rfl
@[simp] theorem Chip.setSpace_inputs (k : Nat) (x : Space) : (c.setSpace k x).inputs = c.inputs := rfl
@[simp] theorem Chip.setSpace_holds (k : Nat) (x : Space) : (c.setSpace k x).holds = c.holds := rfl
@[simp] theorem Chip.setSpace_twin (k : Nat) (x : Space) : (c.setSpace k x).twin = c.twin := rfl
@[simp] theorem Chip.setSpace_out (k : Nat) (x : Space) : (c.setSpace k x).out = c.out := rfl
@[simp] theorem Chip.setSpace_freeCtr (k : Nat) (x : Space) : (c.setSpace k x).freeCtr = c.freeCtr := rfl

/-! ### setLink -/

@[simp] theorem Chip.setLink_variant (k : Nat) (x : Link) : (c.setLink k x).variant = c.variant := rfl
@[simp] theorem Chip.setLink_mst (k : Nat) (x : Link) : (c.setLink k x).mst = c.mst := rfl
@[simp] theorem Chip.setLink_mode (k : Nat) (x : Link) : (c.setLink k x).mode = c.mode := rfl
@[simp] theorem Chip.setLink_beat (k : Nat) (x : Link) : (c.setLink k x).beat = c.beat := rfl
@[simp] theorem Chip.setLink_regs (k : Nat) (x : Link) : (c.setLink k x).regs = c.regs := rfl
@[simp] theorem Chip.setLink_rdLatch (k : Nat) (x : Link) : (c.setLink k x).rdLatch = c.rdLatch := rfl
@[simp] theorem Chip.setLink_wrLatch (k : Nat) (x : Link) : (c.setLink k x).wrLatch = c.wrLatch := rfl
@[simp] theorem Chip.setLink_srcs (k : Nat) (x : Link) : (c.setLink k x).srcs = c.srcs := rfl
@[simp] theorem Chip.setLink_irqDue (k : Nat) (x : Link) : (c.setLink k x).irqDue = c.irqDue := rfl
@[simp] theorem Chip.setLink_irqLast (k : Nat) (x : Link) : (c.setLink k x).irqLast = c.irqLast := rfl
@[simp] theorem Chip.setLink_safeReq (k : Nat) (x : Link) : (c.setLink k x).safeReq = c.safeReq := rfl
@[simp] theorem Chip.setLink_containReq (k : Nat) (x : Link) : (c.setLink k x).containReq = c.containReq := rfl
@[simp] theorem Chip.setLink_crib (k : Nat) (x : Link) : (c.setLink k x).crib = c.crib := rfl
@[simp] theorem Chip.setLink_grn (k : Nat) (x : Link) : (c.setLink k x).grn = c.grn := rfl
@[simp] theorem Chip.setLink_loft (k : Nat) (x : Link) : (c.setLink k x).loft = c.loft := rfl
@[simp] theorem Chip.setLink_host (k : Nat) (x : Link) : (c.setLink k x).host = c.host := rfl
@[simp] theorem Chip.setLink_allot (k : Nat) (x : Link) : (c.setLink k x).allot = c.allot := rfl
@[simp] theorem Chip.setLink_xcache (k : Nat) (x : Link) : (c.setLink k x).xcache = c.xcache := rfl
@[simp] theorem Chip.setLink_engCache (k : Nat) (x : Link) : (c.setLink k x).engCache = c.engCache := rfl
@[simp] theorem Chip.setLink_walks (k : Nat) (x : Link) : (c.setLink k x).walks = c.walks := rfl
@[simp] theorem Chip.setLink_spaces (k : Nat) (x : Link) : (c.setLink k x).spaces = c.spaces := rfl
@[simp] theorem Chip.setLink_invals (k : Nat) (x : Link) : (c.setLink k x).invals = c.invals := rfl
@[simp] theorem Chip.setLink_prefetches (k : Nat) (x : Link) : (c.setLink k x).prefetches = c.prefetches := rfl
@[simp] theorem Chip.setLink_ctxs (k : Nat) (x : Link) : (c.setLink k x).ctxs = c.ctxs := rfl
@[simp] theorem Chip.setLink_readmitReq (k : Nat) (x : Link) : (c.setLink k x).readmitReq = c.readmitReq := rfl
@[simp] theorem Chip.setLink_trainCache (k : Nat) (x : Link) : (c.setLink k x).trainCache = c.trainCache := rfl
@[simp] theorem Chip.setLink_trainWhy (k : Nat) (x : Link) : (c.setLink k x).trainWhy = c.trainWhy := rfl
@[simp] theorem Chip.setLink_trainRev (k : Nat) (x : Link) : (c.setLink k x).trainRev = c.trainRev := rfl
@[simp] theorem Chip.setLink_clk (k : Nat) (x : Link) : (c.setLink k x).clk = c.clk := rfl
@[simp] theorem Chip.setLink_epochTag (k : Nat) (x : Link) : (c.setLink k x).epochTag = c.epochTag := rfl
@[simp] theorem Chip.setLink_wireTick (k : Nat) (x : Link) : (c.setLink k x).wireTick = c.wireTick := rfl
@[simp] theorem Chip.setLink_wireBytes (k : Nat) (x : Link) : (c.setLink k x).wireBytes = c.wireBytes := rfl
@[simp] theorem Chip.setLink_mute (k : Nat) (x : Link) : (c.setLink k x).mute = c.mute := rfl
@[simp] theorem Chip.setLink_consent (k : Nat) (x : Link) : (c.setLink k x).consent = c.consent := rfl
@[simp] theorem Chip.setLink_lossCarried (k : Nat) (x : Link) : (c.setLink k x).lossCarried = c.lossCarried := rfl
@[simp] theorem Chip.setLink_thr (k : Nat) (x : Link) : (c.setLink k x).thr = c.thr := rfl
@[simp] theorem Chip.setLink_chaffClear (k : Nat) (x : Link) : (c.setLink k x).chaffClear = c.chaffClear := rfl
@[simp] theorem Chip.setLink_cmb (k : Nat) (x : Link) : (c.setLink k x).cmb = c.cmb := rfl
@[simp] theorem Chip.setLink_xsOut (k : Nat) (x : Link) : (c.setLink k x).xsOut = c.xsOut := rfl
@[simp] theorem Chip.setLink_tgrpDue (k : Nat) (x : Link) : (c.setLink k x).tgrpDue = c.tgrpDue := rfl
@[simp] theorem Chip.setLink_twinHb (k : Nat) (x : Link) : (c.setLink k x).twinHb = c.twinHb := rfl
@[simp] theorem Chip.setLink_mirrorAll (k : Nat) (x : Link) : (c.setLink k x).mirrorAll = c.mirrorAll := rfl
@[simp] theorem Chip.setLink_keys (k : Nat) (x : Link) : (c.setLink k x).keys = c.keys := rfl
@[simp] theorem Chip.setLink_keyStage (k : Nat) (x : Link) : (c.setLink k x).keyStage = c.keyStage := rfl
@[simp] theorem Chip.setLink_queues (k : Nat) (x : Link) : (c.setLink k x).queues = c.queues := rfl
@[simp] theorem Chip.setLink_qps (k : Nat) (x : Link) : (c.setLink k x).qps = c.qps := rfl
@[simp] theorem Chip.setLink_lastQpns (k : Nat) (x : Link) : (c.setLink k x).lastQpns = c.lastQpns := rfl
@[simp] theorem Chip.setLink_ctxCache (k : Nat) (x : Link) : (c.setLink k x).ctxCache = c.ctxCache := rfl
@[simp] theorem Chip.setLink_ctxMiss (k : Nat) (x : Link) : (c.setLink k x).ctxMiss = c.ctxMiss := rfl
@[simp] theorem Chip.setLink_ctxOps (k : Nat) (x : Link) : (c.setLink k x).ctxOps = c.ctxOps := rfl
@[simp] theorem Chip.setLink_notices (k : Nat) (x : Link) : (c.setLink k x).notices = c.notices := rfl
@[simp] theorem Chip.setLink_ringFail (k : Nat) (x : Link) : (c.setLink k x).ringFail = c.ringFail := rfl
@[simp] theorem Chip.setLink_loopRx (k : Nat) (x : Link) : (c.setLink k x).loopRx = c.loopRx := rfl
@[simp] theorem Chip.setLink_admWait (k : Nat) (x : Link) : (c.setLink k x).admWait = c.admWait := rfl
@[simp] theorem Chip.setLink_gap (k : Nat) (x : Link) : (c.setLink k x).gap = c.gap := rfl
@[simp] theorem Chip.setLink_ports (k : Nat) (x : Link) : (c.setLink k x).ports = c.ports := rfl
@[simp] theorem Chip.setLink_shapers (k : Nat) (x : Link) : (c.setLink k x).shapers = c.shapers := rfl
@[simp] theorem Chip.setLink_ppsUntil (k : Nat) (x : Link) : (c.setLink k x).ppsUntil = c.ppsUntil := rfl
@[simp] theorem Chip.setLink_insResets (k : Nat) (x : Link) : (c.setLink k x).insResets = c.insResets := rfl
@[simp] theorem Chip.setLink_again (k : Nat) (x : Link) : (c.setLink k x).again = c.again := rfl
@[simp] theorem Chip.setLink_mbOut (k : Nat) (x : Link) : (c.setLink k x).mbOut = c.mbOut := rfl
@[simp] theorem Chip.setLink_relay (k : Nat) (x : Link) : (c.setLink k x).relay = c.relay := rfl
@[simp] theorem Chip.setLink_relaySeen (k : Nat) (x : Link) : (c.setLink k x).relaySeen = c.relaySeen := rfl
@[simp] theorem Chip.setLink_hello (k : Nat) (x : Link) : (c.setLink k x).hello = c.hello := rfl
@[simp] theorem Chip.setLink_hostReady (k : Nat) (x : Link) : (c.setLink k x).hostReady = c.hostReady := rfl
@[simp] theorem Chip.setLink_plainWrites (k : Nat) (x : Link) : (c.setLink k x).plainWrites = c.plainWrites := rfl
@[simp] theorem Chip.setLink_cplTimeout (k : Nat) (x : Link) : (c.setLink k x).cplTimeout = c.cplTimeout := rfl
@[simp] theorem Chip.setLink_hostBad (k : Nat) (x : Link) : (c.setLink k x).hostBad = c.hostBad := rfl
@[simp] theorem Chip.setLink_probes (k : Nat) (x : Link) : (c.setLink k x).probes = c.probes := rfl
@[simp] theorem Chip.setLink_restarts (k : Nat) (x : Link) : (c.setLink k x).restarts = c.restarts := rfl
@[simp] theorem Chip.setLink_flash (k : Nat) (x : Link) : (c.setLink k x).flash = c.flash := rfl
@[simp] theorem Chip.setLink_verified (k : Nat) (x : Link) : (c.setLink k x).verified = c.verified := rfl
@[simp] theorem Chip.setLink_fwcBusy (k : Nat) (x : Link) : (c.setLink k x).fwcBusy = c.fwcBusy := rfl
@[simp] theorem Chip.setLink_update (k : Nat) (x : Link) : (c.setLink k x).update = c.update := rfl
@[simp] theorem Chip.setLink_smbAddr (k : Nat) (x : Link) : (c.setLink k x).smbAddr = c.smbAddr := rfl
@[simp] theorem Chip.setLink_bootSafe (k : Nat) (x : Link) : (c.setLink k x).bootSafe = c.bootSafe := rfl
@[simp] theorem Chip.setLink_safeOut (k : Nat) (x : Link) : (c.setLink k x).safeOut = c.safeOut := rfl
@[simp] theorem Chip.setLink_skipPower (k : Nat) (x : Link) : (c.setLink k x).skipPower = c.skipPower := rfl
@[simp] theorem Chip.setLink_skipTemp (k : Nat) (x : Link) : (c.setLink k x).skipTemp = c.skipTemp := rfl
@[simp] theorem Chip.setLink_bellDone (k : Nat) (x : Link) : (c.setLink k x).bellDone = c.bellDone := rfl
@[simp] theorem Chip.setLink_modeBell (k : Nat) (x : Link) : (c.setLink k x).modeBell = c.modeBell := rfl
@[simp] theorem Chip.setLink_hotBell (k : Nat) (x : Link) : (c.setLink k x).hotBell = c.hotBell := rfl
@[simp] theorem Chip.setLink_forceBell (k : Nat) (x : Link) : (c.setLink k x).forceBell = c.forceBell := rfl
@[simp] theorem Chip.setLink_rtcAt (k : Nat) (x : Link) : (c.setLink k x).rtcAt = c.rtcAt := rfl
@[simp] theorem Chip.setLink_inputs (k : Nat) (x : Link) : (c.setLink k x).inputs = c.inputs := rfl
@[simp] theorem Chip.setLink_holds (k : Nat) (x : Link) : (c.setLink k x).holds = c.holds := rfl
@[simp] theorem Chip.setLink_twin (k : Nat) (x : Link) : (c.setLink k x).twin = c.twin := rfl
@[simp] theorem Chip.setLink_out (k : Nat) (x : Link) : (c.setLink k x).out = c.out := rfl
@[simp] theorem Chip.setLink_freeCtr (k : Nat) (x : Link) : (c.setLink k x).freeCtr = c.freeCtr := rfl

/-! ### onClk -/

@[simp] theorem Chip.onClk_variant (g : Clk → Clk) : (c.onClk g).variant = c.variant := rfl
@[simp] theorem Chip.onClk_mst (g : Clk → Clk) : (c.onClk g).mst = c.mst := rfl
@[simp] theorem Chip.onClk_mode (g : Clk → Clk) : (c.onClk g).mode = c.mode := rfl
@[simp] theorem Chip.onClk_beat (g : Clk → Clk) : (c.onClk g).beat = c.beat := rfl
@[simp] theorem Chip.onClk_regs (g : Clk → Clk) : (c.onClk g).regs = c.regs := rfl
@[simp] theorem Chip.onClk_rdLatch (g : Clk → Clk) : (c.onClk g).rdLatch = c.rdLatch := rfl
@[simp] theorem Chip.onClk_wrLatch (g : Clk → Clk) : (c.onClk g).wrLatch = c.wrLatch := rfl
@[simp] theorem Chip.onClk_srcs (g : Clk → Clk) : (c.onClk g).srcs = c.srcs := rfl
@[simp] theorem Chip.onClk_irqDue (g : Clk → Clk) : (c.onClk g).irqDue = c.irqDue := rfl
@[simp] theorem Chip.onClk_irqLast (g : Clk → Clk) : (c.onClk g).irqLast = c.irqLast := rfl
@[simp] theorem Chip.onClk_safeReq (g : Clk → Clk) : (c.onClk g).safeReq = c.safeReq := rfl
@[simp] theorem Chip.onClk_containReq (g : Clk → Clk) : (c.onClk g).containReq = c.containReq := rfl
@[simp] theorem Chip.onClk_crib (g : Clk → Clk) : (c.onClk g).crib = c.crib := rfl
@[simp] theorem Chip.onClk_grn (g : Clk → Clk) : (c.onClk g).grn = c.grn := rfl
@[simp] theorem Chip.onClk_loft (g : Clk → Clk) : (c.onClk g).loft = c.loft := rfl
@[simp] theorem Chip.onClk_host (g : Clk → Clk) : (c.onClk g).host = c.host := rfl
@[simp] theorem Chip.onClk_allot (g : Clk → Clk) : (c.onClk g).allot = c.allot := rfl
@[simp] theorem Chip.onClk_xcache (g : Clk → Clk) : (c.onClk g).xcache = c.xcache := rfl
@[simp] theorem Chip.onClk_engCache (g : Clk → Clk) : (c.onClk g).engCache = c.engCache := rfl
@[simp] theorem Chip.onClk_walks (g : Clk → Clk) : (c.onClk g).walks = c.walks := rfl
@[simp] theorem Chip.onClk_spaces (g : Clk → Clk) : (c.onClk g).spaces = c.spaces := rfl
@[simp] theorem Chip.onClk_invals (g : Clk → Clk) : (c.onClk g).invals = c.invals := rfl
@[simp] theorem Chip.onClk_prefetches (g : Clk → Clk) : (c.onClk g).prefetches = c.prefetches := rfl
@[simp] theorem Chip.onClk_ctxs (g : Clk → Clk) : (c.onClk g).ctxs = c.ctxs := rfl
@[simp] theorem Chip.onClk_readmitReq (g : Clk → Clk) : (c.onClk g).readmitReq = c.readmitReq := rfl
@[simp] theorem Chip.onClk_trainCache (g : Clk → Clk) : (c.onClk g).trainCache = c.trainCache := rfl
@[simp] theorem Chip.onClk_trainWhy (g : Clk → Clk) : (c.onClk g).trainWhy = c.trainWhy := rfl
@[simp] theorem Chip.onClk_trainRev (g : Clk → Clk) : (c.onClk g).trainRev = c.trainRev := rfl
@[simp] theorem Chip.onClk_links (g : Clk → Clk) : (c.onClk g).links = c.links := rfl
@[simp] theorem Chip.onClk_epochTag (g : Clk → Clk) : (c.onClk g).epochTag = c.epochTag := rfl
@[simp] theorem Chip.onClk_wireTick (g : Clk → Clk) : (c.onClk g).wireTick = c.wireTick := rfl
@[simp] theorem Chip.onClk_wireBytes (g : Clk → Clk) : (c.onClk g).wireBytes = c.wireBytes := rfl
@[simp] theorem Chip.onClk_mute (g : Clk → Clk) : (c.onClk g).mute = c.mute := rfl
@[simp] theorem Chip.onClk_consent (g : Clk → Clk) : (c.onClk g).consent = c.consent := rfl
@[simp] theorem Chip.onClk_lossCarried (g : Clk → Clk) : (c.onClk g).lossCarried = c.lossCarried := rfl
@[simp] theorem Chip.onClk_thr (g : Clk → Clk) : (c.onClk g).thr = c.thr := rfl
@[simp] theorem Chip.onClk_chaffClear (g : Clk → Clk) : (c.onClk g).chaffClear = c.chaffClear := rfl
@[simp] theorem Chip.onClk_cmb (g : Clk → Clk) : (c.onClk g).cmb = c.cmb := rfl
@[simp] theorem Chip.onClk_xsOut (g : Clk → Clk) : (c.onClk g).xsOut = c.xsOut := rfl
@[simp] theorem Chip.onClk_tgrpDue (g : Clk → Clk) : (c.onClk g).tgrpDue = c.tgrpDue := rfl
@[simp] theorem Chip.onClk_twinHb (g : Clk → Clk) : (c.onClk g).twinHb = c.twinHb := rfl
@[simp] theorem Chip.onClk_mirrorAll (g : Clk → Clk) : (c.onClk g).mirrorAll = c.mirrorAll := rfl
@[simp] theorem Chip.onClk_keys (g : Clk → Clk) : (c.onClk g).keys = c.keys := rfl
@[simp] theorem Chip.onClk_keyStage (g : Clk → Clk) : (c.onClk g).keyStage = c.keyStage := rfl
@[simp] theorem Chip.onClk_queues (g : Clk → Clk) : (c.onClk g).queues = c.queues := rfl
@[simp] theorem Chip.onClk_qps (g : Clk → Clk) : (c.onClk g).qps = c.qps := rfl
@[simp] theorem Chip.onClk_lastQpns (g : Clk → Clk) : (c.onClk g).lastQpns = c.lastQpns := rfl
@[simp] theorem Chip.onClk_ctxCache (g : Clk → Clk) : (c.onClk g).ctxCache = c.ctxCache := rfl
@[simp] theorem Chip.onClk_ctxMiss (g : Clk → Clk) : (c.onClk g).ctxMiss = c.ctxMiss := rfl
@[simp] theorem Chip.onClk_ctxOps (g : Clk → Clk) : (c.onClk g).ctxOps = c.ctxOps := rfl
@[simp] theorem Chip.onClk_notices (g : Clk → Clk) : (c.onClk g).notices = c.notices := rfl
@[simp] theorem Chip.onClk_ringFail (g : Clk → Clk) : (c.onClk g).ringFail = c.ringFail := rfl
@[simp] theorem Chip.onClk_loopRx (g : Clk → Clk) : (c.onClk g).loopRx = c.loopRx := rfl
@[simp] theorem Chip.onClk_admWait (g : Clk → Clk) : (c.onClk g).admWait = c.admWait := rfl
@[simp] theorem Chip.onClk_gap (g : Clk → Clk) : (c.onClk g).gap = c.gap := rfl
@[simp] theorem Chip.onClk_ports (g : Clk → Clk) : (c.onClk g).ports = c.ports := rfl
@[simp] theorem Chip.onClk_shapers (g : Clk → Clk) : (c.onClk g).shapers = c.shapers := rfl
@[simp] theorem Chip.onClk_ppsUntil (g : Clk → Clk) : (c.onClk g).ppsUntil = c.ppsUntil := rfl
@[simp] theorem Chip.onClk_insResets (g : Clk → Clk) : (c.onClk g).insResets = c.insResets := rfl
@[simp] theorem Chip.onClk_again (g : Clk → Clk) : (c.onClk g).again = c.again := rfl
@[simp] theorem Chip.onClk_mbOut (g : Clk → Clk) : (c.onClk g).mbOut = c.mbOut := rfl
@[simp] theorem Chip.onClk_relay (g : Clk → Clk) : (c.onClk g).relay = c.relay := rfl
@[simp] theorem Chip.onClk_relaySeen (g : Clk → Clk) : (c.onClk g).relaySeen = c.relaySeen := rfl
@[simp] theorem Chip.onClk_hello (g : Clk → Clk) : (c.onClk g).hello = c.hello := rfl
@[simp] theorem Chip.onClk_hostReady (g : Clk → Clk) : (c.onClk g).hostReady = c.hostReady := rfl
@[simp] theorem Chip.onClk_plainWrites (g : Clk → Clk) : (c.onClk g).plainWrites = c.plainWrites := rfl
@[simp] theorem Chip.onClk_cplTimeout (g : Clk → Clk) : (c.onClk g).cplTimeout = c.cplTimeout := rfl
@[simp] theorem Chip.onClk_hostBad (g : Clk → Clk) : (c.onClk g).hostBad = c.hostBad := rfl
@[simp] theorem Chip.onClk_probes (g : Clk → Clk) : (c.onClk g).probes = c.probes := rfl
@[simp] theorem Chip.onClk_restarts (g : Clk → Clk) : (c.onClk g).restarts = c.restarts := rfl
@[simp] theorem Chip.onClk_flash (g : Clk → Clk) : (c.onClk g).flash = c.flash := rfl
@[simp] theorem Chip.onClk_verified (g : Clk → Clk) : (c.onClk g).verified = c.verified := rfl
@[simp] theorem Chip.onClk_fwcBusy (g : Clk → Clk) : (c.onClk g).fwcBusy = c.fwcBusy := rfl
@[simp] theorem Chip.onClk_update (g : Clk → Clk) : (c.onClk g).update = c.update := rfl
@[simp] theorem Chip.onClk_smbAddr (g : Clk → Clk) : (c.onClk g).smbAddr = c.smbAddr := rfl
@[simp] theorem Chip.onClk_bootSafe (g : Clk → Clk) : (c.onClk g).bootSafe = c.bootSafe := rfl
@[simp] theorem Chip.onClk_safeOut (g : Clk → Clk) : (c.onClk g).safeOut = c.safeOut := rfl
@[simp] theorem Chip.onClk_skipPower (g : Clk → Clk) : (c.onClk g).skipPower = c.skipPower := rfl
@[simp] theorem Chip.onClk_skipTemp (g : Clk → Clk) : (c.onClk g).skipTemp = c.skipTemp := rfl
@[simp] theorem Chip.onClk_bellDone (g : Clk → Clk) : (c.onClk g).bellDone = c.bellDone := rfl
@[simp] theorem Chip.onClk_modeBell (g : Clk → Clk) : (c.onClk g).modeBell = c.modeBell := rfl
@[simp] theorem Chip.onClk_hotBell (g : Clk → Clk) : (c.onClk g).hotBell = c.hotBell := rfl
@[simp] theorem Chip.onClk_forceBell (g : Clk → Clk) : (c.onClk g).forceBell = c.forceBell := rfl
@[simp] theorem Chip.onClk_rtcAt (g : Clk → Clk) : (c.onClk g).rtcAt = c.rtcAt := rfl
@[simp] theorem Chip.onClk_inputs (g : Clk → Clk) : (c.onClk g).inputs = c.inputs := rfl
@[simp] theorem Chip.onClk_holds (g : Clk → Clk) : (c.onClk g).holds = c.holds := rfl
@[simp] theorem Chip.onClk_twin (g : Clk → Clk) : (c.onClk g).twin = c.twin := rfl
@[simp] theorem Chip.onClk_out (g : Clk → Clk) : (c.onClk g).out = c.out := rfl
@[simp] theorem Chip.onClk_freeCtr (g : Clk → Clk) : (c.onClk g).freeCtr = c.freeCtr := rfl

/-! ### onThr -/

@[simp] theorem Chip.onThr_variant (g : Thr → Thr) : (c.onThr g).variant = c.variant := rfl
@[simp] theorem Chip.onThr_mst (g : Thr → Thr) : (c.onThr g).mst = c.mst := rfl
@[simp] theorem Chip.onThr_mode (g : Thr → Thr) : (c.onThr g).mode = c.mode := rfl
@[simp] theorem Chip.onThr_beat (g : Thr → Thr) : (c.onThr g).beat = c.beat := rfl
@[simp] theorem Chip.onThr_regs (g : Thr → Thr) : (c.onThr g).regs = c.regs := rfl
@[simp] theorem Chip.onThr_rdLatch (g : Thr → Thr) : (c.onThr g).rdLatch = c.rdLatch := rfl
@[simp] theorem Chip.onThr_wrLatch (g : Thr → Thr) : (c.onThr g).wrLatch = c.wrLatch := rfl
@[simp] theorem Chip.onThr_srcs (g : Thr → Thr) : (c.onThr g).srcs = c.srcs := rfl
@[simp] theorem Chip.onThr_irqDue (g : Thr → Thr) : (c.onThr g).irqDue = c.irqDue := rfl
@[simp] theorem Chip.onThr_irqLast (g : Thr → Thr) : (c.onThr g).irqLast = c.irqLast := rfl
@[simp] theorem Chip.onThr_safeReq (g : Thr → Thr) : (c.onThr g).safeReq = c.safeReq := rfl
@[simp] theorem Chip.onThr_containReq (g : Thr → Thr) : (c.onThr g).containReq = c.containReq := rfl
@[simp] theorem Chip.onThr_crib (g : Thr → Thr) : (c.onThr g).crib = c.crib := rfl
@[simp] theorem Chip.onThr_grn (g : Thr → Thr) : (c.onThr g).grn = c.grn := rfl
@[simp] theorem Chip.onThr_loft (g : Thr → Thr) : (c.onThr g).loft = c.loft := rfl
@[simp] theorem Chip.onThr_host (g : Thr → Thr) : (c.onThr g).host = c.host := rfl
@[simp] theorem Chip.onThr_allot (g : Thr → Thr) : (c.onThr g).allot = c.allot := rfl
@[simp] theorem Chip.onThr_xcache (g : Thr → Thr) : (c.onThr g).xcache = c.xcache := rfl
@[simp] theorem Chip.onThr_engCache (g : Thr → Thr) : (c.onThr g).engCache = c.engCache := rfl
@[simp] theorem Chip.onThr_walks (g : Thr → Thr) : (c.onThr g).walks = c.walks := rfl
@[simp] theorem Chip.onThr_spaces (g : Thr → Thr) : (c.onThr g).spaces = c.spaces := rfl
@[simp] theorem Chip.onThr_invals (g : Thr → Thr) : (c.onThr g).invals = c.invals := rfl
@[simp] theorem Chip.onThr_prefetches (g : Thr → Thr) : (c.onThr g).prefetches = c.prefetches := rfl
@[simp] theorem Chip.onThr_ctxs (g : Thr → Thr) : (c.onThr g).ctxs = c.ctxs := rfl
@[simp] theorem Chip.onThr_readmitReq (g : Thr → Thr) : (c.onThr g).readmitReq = c.readmitReq := rfl
@[simp] theorem Chip.onThr_trainCache (g : Thr → Thr) : (c.onThr g).trainCache = c.trainCache := rfl
@[simp] theorem Chip.onThr_trainWhy (g : Thr → Thr) : (c.onThr g).trainWhy = c.trainWhy := rfl
@[simp] theorem Chip.onThr_trainRev (g : Thr → Thr) : (c.onThr g).trainRev = c.trainRev := rfl
@[simp] theorem Chip.onThr_links (g : Thr → Thr) : (c.onThr g).links = c.links := rfl
@[simp] theorem Chip.onThr_clk (g : Thr → Thr) : (c.onThr g).clk = c.clk := rfl
@[simp] theorem Chip.onThr_epochTag (g : Thr → Thr) : (c.onThr g).epochTag = c.epochTag := rfl
@[simp] theorem Chip.onThr_wireTick (g : Thr → Thr) : (c.onThr g).wireTick = c.wireTick := rfl
@[simp] theorem Chip.onThr_wireBytes (g : Thr → Thr) : (c.onThr g).wireBytes = c.wireBytes := rfl
@[simp] theorem Chip.onThr_mute (g : Thr → Thr) : (c.onThr g).mute = c.mute := rfl
@[simp] theorem Chip.onThr_consent (g : Thr → Thr) : (c.onThr g).consent = c.consent := rfl
@[simp] theorem Chip.onThr_lossCarried (g : Thr → Thr) : (c.onThr g).lossCarried = c.lossCarried := rfl
@[simp] theorem Chip.onThr_chaffClear (g : Thr → Thr) : (c.onThr g).chaffClear = c.chaffClear := rfl
@[simp] theorem Chip.onThr_cmb (g : Thr → Thr) : (c.onThr g).cmb = c.cmb := rfl
@[simp] theorem Chip.onThr_xsOut (g : Thr → Thr) : (c.onThr g).xsOut = c.xsOut := rfl
@[simp] theorem Chip.onThr_tgrpDue (g : Thr → Thr) : (c.onThr g).tgrpDue = c.tgrpDue := rfl
@[simp] theorem Chip.onThr_twinHb (g : Thr → Thr) : (c.onThr g).twinHb = c.twinHb := rfl
@[simp] theorem Chip.onThr_mirrorAll (g : Thr → Thr) : (c.onThr g).mirrorAll = c.mirrorAll := rfl
@[simp] theorem Chip.onThr_keys (g : Thr → Thr) : (c.onThr g).keys = c.keys := rfl
@[simp] theorem Chip.onThr_keyStage (g : Thr → Thr) : (c.onThr g).keyStage = c.keyStage := rfl
@[simp] theorem Chip.onThr_queues (g : Thr → Thr) : (c.onThr g).queues = c.queues := rfl
@[simp] theorem Chip.onThr_qps (g : Thr → Thr) : (c.onThr g).qps = c.qps := rfl
@[simp] theorem Chip.onThr_lastQpns (g : Thr → Thr) : (c.onThr g).lastQpns = c.lastQpns := rfl
@[simp] theorem Chip.onThr_ctxCache (g : Thr → Thr) : (c.onThr g).ctxCache = c.ctxCache := rfl
@[simp] theorem Chip.onThr_ctxMiss (g : Thr → Thr) : (c.onThr g).ctxMiss = c.ctxMiss := rfl
@[simp] theorem Chip.onThr_ctxOps (g : Thr → Thr) : (c.onThr g).ctxOps = c.ctxOps := rfl
@[simp] theorem Chip.onThr_notices (g : Thr → Thr) : (c.onThr g).notices = c.notices := rfl
@[simp] theorem Chip.onThr_ringFail (g : Thr → Thr) : (c.onThr g).ringFail = c.ringFail := rfl
@[simp] theorem Chip.onThr_loopRx (g : Thr → Thr) : (c.onThr g).loopRx = c.loopRx := rfl
@[simp] theorem Chip.onThr_admWait (g : Thr → Thr) : (c.onThr g).admWait = c.admWait := rfl
@[simp] theorem Chip.onThr_gap (g : Thr → Thr) : (c.onThr g).gap = c.gap := rfl
@[simp] theorem Chip.onThr_ports (g : Thr → Thr) : (c.onThr g).ports = c.ports := rfl
@[simp] theorem Chip.onThr_shapers (g : Thr → Thr) : (c.onThr g).shapers = c.shapers := rfl
@[simp] theorem Chip.onThr_ppsUntil (g : Thr → Thr) : (c.onThr g).ppsUntil = c.ppsUntil := rfl
@[simp] theorem Chip.onThr_insResets (g : Thr → Thr) : (c.onThr g).insResets = c.insResets := rfl
@[simp] theorem Chip.onThr_again (g : Thr → Thr) : (c.onThr g).again = c.again := rfl
@[simp] theorem Chip.onThr_mbOut (g : Thr → Thr) : (c.onThr g).mbOut = c.mbOut := rfl
@[simp] theorem Chip.onThr_relay (g : Thr → Thr) : (c.onThr g).relay = c.relay := rfl
@[simp] theorem Chip.onThr_relaySeen (g : Thr → Thr) : (c.onThr g).relaySeen = c.relaySeen := rfl
@[simp] theorem Chip.onThr_hello (g : Thr → Thr) : (c.onThr g).hello = c.hello := rfl
@[simp] theorem Chip.onThr_hostReady (g : Thr → Thr) : (c.onThr g).hostReady = c.hostReady := rfl
@[simp] theorem Chip.onThr_plainWrites (g : Thr → Thr) : (c.onThr g).plainWrites = c.plainWrites := rfl
@[simp] theorem Chip.onThr_cplTimeout (g : Thr → Thr) : (c.onThr g).cplTimeout = c.cplTimeout := rfl
@[simp] theorem Chip.onThr_hostBad (g : Thr → Thr) : (c.onThr g).hostBad = c.hostBad := rfl
@[simp] theorem Chip.onThr_probes (g : Thr → Thr) : (c.onThr g).probes = c.probes := rfl
@[simp] theorem Chip.onThr_restarts (g : Thr → Thr) : (c.onThr g).restarts = c.restarts := rfl
@[simp] theorem Chip.onThr_flash (g : Thr → Thr) : (c.onThr g).flash = c.flash := rfl
@[simp] theorem Chip.onThr_verified (g : Thr → Thr) : (c.onThr g).verified = c.verified := rfl
@[simp] theorem Chip.onThr_fwcBusy (g : Thr → Thr) : (c.onThr g).fwcBusy = c.fwcBusy := rfl
@[simp] theorem Chip.onThr_update (g : Thr → Thr) : (c.onThr g).update = c.update := rfl
@[simp] theorem Chip.onThr_smbAddr (g : Thr → Thr) : (c.onThr g).smbAddr = c.smbAddr := rfl
@[simp] theorem Chip.onThr_bootSafe (g : Thr → Thr) : (c.onThr g).bootSafe = c.bootSafe := rfl
@[simp] theorem Chip.onThr_safeOut (g : Thr → Thr) : (c.onThr g).safeOut = c.safeOut := rfl
@[simp] theorem Chip.onThr_skipPower (g : Thr → Thr) : (c.onThr g).skipPower = c.skipPower := rfl
@[simp] theorem Chip.onThr_skipTemp (g : Thr → Thr) : (c.onThr g).skipTemp = c.skipTemp := rfl
@[simp] theorem Chip.onThr_bellDone (g : Thr → Thr) : (c.onThr g).bellDone = c.bellDone := rfl
@[simp] theorem Chip.onThr_modeBell (g : Thr → Thr) : (c.onThr g).modeBell = c.modeBell := rfl
@[simp] theorem Chip.onThr_hotBell (g : Thr → Thr) : (c.onThr g).hotBell = c.hotBell := rfl
@[simp] theorem Chip.onThr_forceBell (g : Thr → Thr) : (c.onThr g).forceBell = c.forceBell := rfl
@[simp] theorem Chip.onThr_rtcAt (g : Thr → Thr) : (c.onThr g).rtcAt = c.rtcAt := rfl
@[simp] theorem Chip.onThr_inputs (g : Thr → Thr) : (c.onThr g).inputs = c.inputs := rfl
@[simp] theorem Chip.onThr_holds (g : Thr → Thr) : (c.onThr g).holds = c.holds := rfl
@[simp] theorem Chip.onThr_twin (g : Thr → Thr) : (c.onThr g).twin = c.twin := rfl
@[simp] theorem Chip.onThr_out (g : Thr → Thr) : (c.onThr g).out = c.out := rfl
@[simp] theorem Chip.onThr_freeCtr (g : Thr → Thr) : (c.onThr g).freeCtr = c.freeCtr := rfl

/-! ### setQueue -/

@[simp] theorem Chip.setQueue_variant (k : Nat) (x : Queue) : (c.setQueue k x).variant = c.variant := rfl
@[simp] theorem Chip.setQueue_mst (k : Nat) (x : Queue) : (c.setQueue k x).mst = c.mst := rfl
@[simp] theorem Chip.setQueue_mode (k : Nat) (x : Queue) : (c.setQueue k x).mode = c.mode := rfl
@[simp] theorem Chip.setQueue_beat (k : Nat) (x : Queue) : (c.setQueue k x).beat = c.beat := rfl
@[simp] theorem Chip.setQueue_regs (k : Nat) (x : Queue) : (c.setQueue k x).regs = c.regs := rfl
@[simp] theorem Chip.setQueue_rdLatch (k : Nat) (x : Queue) : (c.setQueue k x).rdLatch = c.rdLatch := rfl
@[simp] theorem Chip.setQueue_wrLatch (k : Nat) (x : Queue) : (c.setQueue k x).wrLatch = c.wrLatch := rfl
@[simp] theorem Chip.setQueue_srcs (k : Nat) (x : Queue) : (c.setQueue k x).srcs = c.srcs := rfl
@[simp] theorem Chip.setQueue_irqDue (k : Nat) (x : Queue) : (c.setQueue k x).irqDue = c.irqDue := rfl
@[simp] theorem Chip.setQueue_irqLast (k : Nat) (x : Queue) : (c.setQueue k x).irqLast = c.irqLast := rfl
@[simp] theorem Chip.setQueue_safeReq (k : Nat) (x : Queue) : (c.setQueue k x).safeReq = c.safeReq := rfl
@[simp] theorem Chip.setQueue_containReq (k : Nat) (x : Queue) : (c.setQueue k x).containReq = c.containReq := rfl
@[simp] theorem Chip.setQueue_crib (k : Nat) (x : Queue) : (c.setQueue k x).crib = c.crib := rfl
@[simp] theorem Chip.setQueue_grn (k : Nat) (x : Queue) : (c.setQueue k x).grn = c.grn := rfl
@[simp] theorem Chip.setQueue_loft (k : Nat) (x : Queue) : (c.setQueue k x).loft = c.loft := rfl
@[simp] theorem Chip.setQueue_host (k : Nat) (x : Queue) : (c.setQueue k x).host = c.host := rfl
@[simp] theorem Chip.setQueue_allot (k : Nat) (x : Queue) : (c.setQueue k x).allot = c.allot := rfl
@[simp] theorem Chip.setQueue_xcache (k : Nat) (x : Queue) : (c.setQueue k x).xcache = c.xcache := rfl
@[simp] theorem Chip.setQueue_engCache (k : Nat) (x : Queue) : (c.setQueue k x).engCache = c.engCache := rfl
@[simp] theorem Chip.setQueue_walks (k : Nat) (x : Queue) : (c.setQueue k x).walks = c.walks := rfl
@[simp] theorem Chip.setQueue_spaces (k : Nat) (x : Queue) : (c.setQueue k x).spaces = c.spaces := rfl
@[simp] theorem Chip.setQueue_invals (k : Nat) (x : Queue) : (c.setQueue k x).invals = c.invals := rfl
@[simp] theorem Chip.setQueue_prefetches (k : Nat) (x : Queue) : (c.setQueue k x).prefetches = c.prefetches := rfl
@[simp] theorem Chip.setQueue_ctxs (k : Nat) (x : Queue) : (c.setQueue k x).ctxs = c.ctxs := rfl
@[simp] theorem Chip.setQueue_readmitReq (k : Nat) (x : Queue) : (c.setQueue k x).readmitReq = c.readmitReq := rfl
@[simp] theorem Chip.setQueue_trainCache (k : Nat) (x : Queue) : (c.setQueue k x).trainCache = c.trainCache := rfl
@[simp] theorem Chip.setQueue_trainWhy (k : Nat) (x : Queue) : (c.setQueue k x).trainWhy = c.trainWhy := rfl
@[simp] theorem Chip.setQueue_trainRev (k : Nat) (x : Queue) : (c.setQueue k x).trainRev = c.trainRev := rfl
@[simp] theorem Chip.setQueue_links (k : Nat) (x : Queue) : (c.setQueue k x).links = c.links := rfl
@[simp] theorem Chip.setQueue_clk (k : Nat) (x : Queue) : (c.setQueue k x).clk = c.clk := rfl
@[simp] theorem Chip.setQueue_epochTag (k : Nat) (x : Queue) : (c.setQueue k x).epochTag = c.epochTag := rfl
@[simp] theorem Chip.setQueue_wireTick (k : Nat) (x : Queue) : (c.setQueue k x).wireTick = c.wireTick := rfl
@[simp] theorem Chip.setQueue_wireBytes (k : Nat) (x : Queue) : (c.setQueue k x).wireBytes = c.wireBytes := rfl
@[simp] theorem Chip.setQueue_mute (k : Nat) (x : Queue) : (c.setQueue k x).mute = c.mute := rfl
@[simp] theorem Chip.setQueue_consent (k : Nat) (x : Queue) : (c.setQueue k x).consent = c.consent := rfl
@[simp] theorem Chip.setQueue_lossCarried (k : Nat) (x : Queue) : (c.setQueue k x).lossCarried = c.lossCarried := rfl
@[simp] theorem Chip.setQueue_thr (k : Nat) (x : Queue) : (c.setQueue k x).thr = c.thr := rfl
@[simp] theorem Chip.setQueue_chaffClear (k : Nat) (x : Queue) : (c.setQueue k x).chaffClear = c.chaffClear := rfl
@[simp] theorem Chip.setQueue_cmb (k : Nat) (x : Queue) : (c.setQueue k x).cmb = c.cmb := rfl
@[simp] theorem Chip.setQueue_xsOut (k : Nat) (x : Queue) : (c.setQueue k x).xsOut = c.xsOut := rfl
@[simp] theorem Chip.setQueue_tgrpDue (k : Nat) (x : Queue) : (c.setQueue k x).tgrpDue = c.tgrpDue := rfl
@[simp] theorem Chip.setQueue_twinHb (k : Nat) (x : Queue) : (c.setQueue k x).twinHb = c.twinHb := rfl
@[simp] theorem Chip.setQueue_mirrorAll (k : Nat) (x : Queue) : (c.setQueue k x).mirrorAll = c.mirrorAll := rfl
@[simp] theorem Chip.setQueue_keys (k : Nat) (x : Queue) : (c.setQueue k x).keys = c.keys := rfl
@[simp] theorem Chip.setQueue_keyStage (k : Nat) (x : Queue) : (c.setQueue k x).keyStage = c.keyStage := rfl
@[simp] theorem Chip.setQueue_qps (k : Nat) (x : Queue) : (c.setQueue k x).qps = c.qps := rfl
@[simp] theorem Chip.setQueue_lastQpns (k : Nat) (x : Queue) : (c.setQueue k x).lastQpns = c.lastQpns := rfl
@[simp] theorem Chip.setQueue_ctxCache (k : Nat) (x : Queue) : (c.setQueue k x).ctxCache = c.ctxCache := rfl
@[simp] theorem Chip.setQueue_ctxMiss (k : Nat) (x : Queue) : (c.setQueue k x).ctxMiss = c.ctxMiss := rfl
@[simp] theorem Chip.setQueue_ctxOps (k : Nat) (x : Queue) : (c.setQueue k x).ctxOps = c.ctxOps := rfl
@[simp] theorem Chip.setQueue_notices (k : Nat) (x : Queue) : (c.setQueue k x).notices = c.notices := rfl
@[simp] theorem Chip.setQueue_ringFail (k : Nat) (x : Queue) : (c.setQueue k x).ringFail = c.ringFail := rfl
@[simp] theorem Chip.setQueue_loopRx (k : Nat) (x : Queue) : (c.setQueue k x).loopRx = c.loopRx := rfl
@[simp] theorem Chip.setQueue_admWait (k : Nat) (x : Queue) : (c.setQueue k x).admWait = c.admWait := rfl
@[simp] theorem Chip.setQueue_gap (k : Nat) (x : Queue) : (c.setQueue k x).gap = c.gap := rfl
@[simp] theorem Chip.setQueue_ports (k : Nat) (x : Queue) : (c.setQueue k x).ports = c.ports := rfl
@[simp] theorem Chip.setQueue_shapers (k : Nat) (x : Queue) : (c.setQueue k x).shapers = c.shapers := rfl
@[simp] theorem Chip.setQueue_ppsUntil (k : Nat) (x : Queue) : (c.setQueue k x).ppsUntil = c.ppsUntil := rfl
@[simp] theorem Chip.setQueue_insResets (k : Nat) (x : Queue) : (c.setQueue k x).insResets = c.insResets := rfl
@[simp] theorem Chip.setQueue_again (k : Nat) (x : Queue) : (c.setQueue k x).again = c.again := rfl
@[simp] theorem Chip.setQueue_mbOut (k : Nat) (x : Queue) : (c.setQueue k x).mbOut = c.mbOut := rfl
@[simp] theorem Chip.setQueue_relay (k : Nat) (x : Queue) : (c.setQueue k x).relay = c.relay := rfl
@[simp] theorem Chip.setQueue_relaySeen (k : Nat) (x : Queue) : (c.setQueue k x).relaySeen = c.relaySeen := rfl
@[simp] theorem Chip.setQueue_hello (k : Nat) (x : Queue) : (c.setQueue k x).hello = c.hello := rfl
@[simp] theorem Chip.setQueue_hostReady (k : Nat) (x : Queue) : (c.setQueue k x).hostReady = c.hostReady := rfl
@[simp] theorem Chip.setQueue_plainWrites (k : Nat) (x : Queue) : (c.setQueue k x).plainWrites = c.plainWrites := rfl
@[simp] theorem Chip.setQueue_cplTimeout (k : Nat) (x : Queue) : (c.setQueue k x).cplTimeout = c.cplTimeout := rfl
@[simp] theorem Chip.setQueue_hostBad (k : Nat) (x : Queue) : (c.setQueue k x).hostBad = c.hostBad := rfl
@[simp] theorem Chip.setQueue_probes (k : Nat) (x : Queue) : (c.setQueue k x).probes = c.probes := rfl
@[simp] theorem Chip.setQueue_restarts (k : Nat) (x : Queue) : (c.setQueue k x).restarts = c.restarts := rfl
@[simp] theorem Chip.setQueue_flash (k : Nat) (x : Queue) : (c.setQueue k x).flash = c.flash := rfl
@[simp] theorem Chip.setQueue_verified (k : Nat) (x : Queue) : (c.setQueue k x).verified = c.verified := rfl
@[simp] theorem Chip.setQueue_fwcBusy (k : Nat) (x : Queue) : (c.setQueue k x).fwcBusy = c.fwcBusy := rfl
@[simp] theorem Chip.setQueue_update (k : Nat) (x : Queue) : (c.setQueue k x).update = c.update := rfl
@[simp] theorem Chip.setQueue_smbAddr (k : Nat) (x : Queue) : (c.setQueue k x).smbAddr = c.smbAddr := rfl
@[simp] theorem Chip.setQueue_bootSafe (k : Nat) (x : Queue) : (c.setQueue k x).bootSafe = c.bootSafe := rfl
@[simp] theorem Chip.setQueue_safeOut (k : Nat) (x : Queue) : (c.setQueue k x).safeOut = c.safeOut := rfl
@[simp] theorem Chip.setQueue_skipPower (k : Nat) (x : Queue) : (c.setQueue k x).skipPower = c.skipPower := rfl
@[simp] theorem Chip.setQueue_skipTemp (k : Nat) (x : Queue) : (c.setQueue k x).skipTemp = c.skipTemp := rfl
@[simp] theorem Chip.setQueue_bellDone (k : Nat) (x : Queue) : (c.setQueue k x).bellDone = c.bellDone := rfl
@[simp] theorem Chip.setQueue_modeBell (k : Nat) (x : Queue) : (c.setQueue k x).modeBell = c.modeBell := rfl
@[simp] theorem Chip.setQueue_hotBell (k : Nat) (x : Queue) : (c.setQueue k x).hotBell = c.hotBell := rfl
@[simp] theorem Chip.setQueue_forceBell (k : Nat) (x : Queue) : (c.setQueue k x).forceBell = c.forceBell := rfl
@[simp] theorem Chip.setQueue_rtcAt (k : Nat) (x : Queue) : (c.setQueue k x).rtcAt = c.rtcAt := rfl
@[simp] theorem Chip.setQueue_inputs (k : Nat) (x : Queue) : (c.setQueue k x).inputs = c.inputs := rfl
@[simp] theorem Chip.setQueue_holds (k : Nat) (x : Queue) : (c.setQueue k x).holds = c.holds := rfl
@[simp] theorem Chip.setQueue_twin (k : Nat) (x : Queue) : (c.setQueue k x).twin = c.twin := rfl
@[simp] theorem Chip.setQueue_out (k : Nat) (x : Queue) : (c.setQueue k x).out = c.out := rfl
@[simp] theorem Chip.setQueue_freeCtr (k : Nat) (x : Queue) : (c.setQueue k x).freeCtr = c.freeCtr := rfl

/-! ### setQp -/

@[simp] theorem Chip.setQp_variant (k : Nat) (x : QPair) : (c.setQp k x).variant = c.variant := rfl
@[simp] theorem Chip.setQp_mst (k : Nat) (x : QPair) : (c.setQp k x).mst = c.mst := rfl
@[simp] theorem Chip.setQp_mode (k : Nat) (x : QPair) : (c.setQp k x).mode = c.mode := rfl
@[simp] theorem Chip.setQp_beat (k : Nat) (x : QPair) : (c.setQp k x).beat = c.beat := rfl
@[simp] theorem Chip.setQp_regs (k : Nat) (x : QPair) : (c.setQp k x).regs = c.regs := rfl
@[simp] theorem Chip.setQp_rdLatch (k : Nat) (x : QPair) : (c.setQp k x).rdLatch = c.rdLatch := rfl
@[simp] theorem Chip.setQp_wrLatch (k : Nat) (x : QPair) : (c.setQp k x).wrLatch = c.wrLatch := rfl
@[simp] theorem Chip.setQp_srcs (k : Nat) (x : QPair) : (c.setQp k x).srcs = c.srcs := rfl
@[simp] theorem Chip.setQp_irqDue (k : Nat) (x : QPair) : (c.setQp k x).irqDue = c.irqDue := rfl
@[simp] theorem Chip.setQp_irqLast (k : Nat) (x : QPair) : (c.setQp k x).irqLast = c.irqLast := rfl
@[simp] theorem Chip.setQp_safeReq (k : Nat) (x : QPair) : (c.setQp k x).safeReq = c.safeReq := rfl
@[simp] theorem Chip.setQp_containReq (k : Nat) (x : QPair) : (c.setQp k x).containReq = c.containReq := rfl
@[simp] theorem Chip.setQp_crib (k : Nat) (x : QPair) : (c.setQp k x).crib = c.crib := rfl
@[simp] theorem Chip.setQp_grn (k : Nat) (x : QPair) : (c.setQp k x).grn = c.grn := rfl
@[simp] theorem Chip.setQp_loft (k : Nat) (x : QPair) : (c.setQp k x).loft = c.loft := rfl
@[simp] theorem Chip.setQp_host (k : Nat) (x : QPair) : (c.setQp k x).host = c.host := rfl
@[simp] theorem Chip.setQp_allot (k : Nat) (x : QPair) : (c.setQp k x).allot = c.allot := rfl
@[simp] theorem Chip.setQp_xcache (k : Nat) (x : QPair) : (c.setQp k x).xcache = c.xcache := rfl
@[simp] theorem Chip.setQp_engCache (k : Nat) (x : QPair) : (c.setQp k x).engCache = c.engCache := rfl
@[simp] theorem Chip.setQp_walks (k : Nat) (x : QPair) : (c.setQp k x).walks = c.walks := rfl
@[simp] theorem Chip.setQp_spaces (k : Nat) (x : QPair) : (c.setQp k x).spaces = c.spaces := rfl
@[simp] theorem Chip.setQp_invals (k : Nat) (x : QPair) : (c.setQp k x).invals = c.invals := rfl
@[simp] theorem Chip.setQp_prefetches (k : Nat) (x : QPair) : (c.setQp k x).prefetches = c.prefetches := rfl
@[simp] theorem Chip.setQp_ctxs (k : Nat) (x : QPair) : (c.setQp k x).ctxs = c.ctxs := rfl
@[simp] theorem Chip.setQp_readmitReq (k : Nat) (x : QPair) : (c.setQp k x).readmitReq = c.readmitReq := rfl
@[simp] theorem Chip.setQp_trainCache (k : Nat) (x : QPair) : (c.setQp k x).trainCache = c.trainCache := rfl
@[simp] theorem Chip.setQp_trainWhy (k : Nat) (x : QPair) : (c.setQp k x).trainWhy = c.trainWhy := rfl
@[simp] theorem Chip.setQp_trainRev (k : Nat) (x : QPair) : (c.setQp k x).trainRev = c.trainRev := rfl
@[simp] theorem Chip.setQp_links (k : Nat) (x : QPair) : (c.setQp k x).links = c.links := rfl
@[simp] theorem Chip.setQp_clk (k : Nat) (x : QPair) : (c.setQp k x).clk = c.clk := rfl
@[simp] theorem Chip.setQp_epochTag (k : Nat) (x : QPair) : (c.setQp k x).epochTag = c.epochTag := rfl
@[simp] theorem Chip.setQp_wireTick (k : Nat) (x : QPair) : (c.setQp k x).wireTick = c.wireTick := rfl
@[simp] theorem Chip.setQp_wireBytes (k : Nat) (x : QPair) : (c.setQp k x).wireBytes = c.wireBytes := rfl
@[simp] theorem Chip.setQp_mute (k : Nat) (x : QPair) : (c.setQp k x).mute = c.mute := rfl
@[simp] theorem Chip.setQp_consent (k : Nat) (x : QPair) : (c.setQp k x).consent = c.consent := rfl
@[simp] theorem Chip.setQp_lossCarried (k : Nat) (x : QPair) : (c.setQp k x).lossCarried = c.lossCarried := rfl
@[simp] theorem Chip.setQp_thr (k : Nat) (x : QPair) : (c.setQp k x).thr = c.thr := rfl
@[simp] theorem Chip.setQp_chaffClear (k : Nat) (x : QPair) : (c.setQp k x).chaffClear = c.chaffClear := rfl
@[simp] theorem Chip.setQp_cmb (k : Nat) (x : QPair) : (c.setQp k x).cmb = c.cmb := rfl
@[simp] theorem Chip.setQp_xsOut (k : Nat) (x : QPair) : (c.setQp k x).xsOut = c.xsOut := rfl
@[simp] theorem Chip.setQp_tgrpDue (k : Nat) (x : QPair) : (c.setQp k x).tgrpDue = c.tgrpDue := rfl
@[simp] theorem Chip.setQp_twinHb (k : Nat) (x : QPair) : (c.setQp k x).twinHb = c.twinHb := rfl
@[simp] theorem Chip.setQp_mirrorAll (k : Nat) (x : QPair) : (c.setQp k x).mirrorAll = c.mirrorAll := rfl
@[simp] theorem Chip.setQp_keys (k : Nat) (x : QPair) : (c.setQp k x).keys = c.keys := rfl
@[simp] theorem Chip.setQp_keyStage (k : Nat) (x : QPair) : (c.setQp k x).keyStage = c.keyStage := rfl
@[simp] theorem Chip.setQp_queues (k : Nat) (x : QPair) : (c.setQp k x).queues = c.queues := rfl
@[simp] theorem Chip.setQp_lastQpns (k : Nat) (x : QPair) : (c.setQp k x).lastQpns = c.lastQpns := rfl
@[simp] theorem Chip.setQp_ctxCache (k : Nat) (x : QPair) : (c.setQp k x).ctxCache = c.ctxCache := rfl
@[simp] theorem Chip.setQp_ctxMiss (k : Nat) (x : QPair) : (c.setQp k x).ctxMiss = c.ctxMiss := rfl
@[simp] theorem Chip.setQp_ctxOps (k : Nat) (x : QPair) : (c.setQp k x).ctxOps = c.ctxOps := rfl
@[simp] theorem Chip.setQp_notices (k : Nat) (x : QPair) : (c.setQp k x).notices = c.notices := rfl
@[simp] theorem Chip.setQp_ringFail (k : Nat) (x : QPair) : (c.setQp k x).ringFail = c.ringFail := rfl
@[simp] theorem Chip.setQp_loopRx (k : Nat) (x : QPair) : (c.setQp k x).loopRx = c.loopRx := rfl
@[simp] theorem Chip.setQp_admWait (k : Nat) (x : QPair) : (c.setQp k x).admWait = c.admWait := rfl
@[simp] theorem Chip.setQp_gap (k : Nat) (x : QPair) : (c.setQp k x).gap = c.gap := rfl
@[simp] theorem Chip.setQp_ports (k : Nat) (x : QPair) : (c.setQp k x).ports = c.ports := rfl
@[simp] theorem Chip.setQp_shapers (k : Nat) (x : QPair) : (c.setQp k x).shapers = c.shapers := rfl
@[simp] theorem Chip.setQp_ppsUntil (k : Nat) (x : QPair) : (c.setQp k x).ppsUntil = c.ppsUntil := rfl
@[simp] theorem Chip.setQp_insResets (k : Nat) (x : QPair) : (c.setQp k x).insResets = c.insResets := rfl
@[simp] theorem Chip.setQp_again (k : Nat) (x : QPair) : (c.setQp k x).again = c.again := rfl
@[simp] theorem Chip.setQp_mbOut (k : Nat) (x : QPair) : (c.setQp k x).mbOut = c.mbOut := rfl
@[simp] theorem Chip.setQp_relay (k : Nat) (x : QPair) : (c.setQp k x).relay = c.relay := rfl
@[simp] theorem Chip.setQp_relaySeen (k : Nat) (x : QPair) : (c.setQp k x).relaySeen = c.relaySeen := rfl
@[simp] theorem Chip.setQp_hello (k : Nat) (x : QPair) : (c.setQp k x).hello = c.hello := rfl
@[simp] theorem Chip.setQp_hostReady (k : Nat) (x : QPair) : (c.setQp k x).hostReady = c.hostReady := rfl
@[simp] theorem Chip.setQp_plainWrites (k : Nat) (x : QPair) : (c.setQp k x).plainWrites = c.plainWrites := rfl
@[simp] theorem Chip.setQp_cplTimeout (k : Nat) (x : QPair) : (c.setQp k x).cplTimeout = c.cplTimeout := rfl
@[simp] theorem Chip.setQp_hostBad (k : Nat) (x : QPair) : (c.setQp k x).hostBad = c.hostBad := rfl
@[simp] theorem Chip.setQp_probes (k : Nat) (x : QPair) : (c.setQp k x).probes = c.probes := rfl
@[simp] theorem Chip.setQp_restarts (k : Nat) (x : QPair) : (c.setQp k x).restarts = c.restarts := rfl
@[simp] theorem Chip.setQp_flash (k : Nat) (x : QPair) : (c.setQp k x).flash = c.flash := rfl
@[simp] theorem Chip.setQp_verified (k : Nat) (x : QPair) : (c.setQp k x).verified = c.verified := rfl
@[simp] theorem Chip.setQp_fwcBusy (k : Nat) (x : QPair) : (c.setQp k x).fwcBusy = c.fwcBusy := rfl
@[simp] theorem Chip.setQp_update (k : Nat) (x : QPair) : (c.setQp k x).update = c.update := rfl
@[simp] theorem Chip.setQp_smbAddr (k : Nat) (x : QPair) : (c.setQp k x).smbAddr = c.smbAddr := rfl
@[simp] theorem Chip.setQp_bootSafe (k : Nat) (x : QPair) : (c.setQp k x).bootSafe = c.bootSafe := rfl
@[simp] theorem Chip.setQp_safeOut (k : Nat) (x : QPair) : (c.setQp k x).safeOut = c.safeOut := rfl
@[simp] theorem Chip.setQp_skipPower (k : Nat) (x : QPair) : (c.setQp k x).skipPower = c.skipPower := rfl
@[simp] theorem Chip.setQp_skipTemp (k : Nat) (x : QPair) : (c.setQp k x).skipTemp = c.skipTemp := rfl
@[simp] theorem Chip.setQp_bellDone (k : Nat) (x : QPair) : (c.setQp k x).bellDone = c.bellDone := rfl
@[simp] theorem Chip.setQp_modeBell (k : Nat) (x : QPair) : (c.setQp k x).modeBell = c.modeBell := rfl
@[simp] theorem Chip.setQp_hotBell (k : Nat) (x : QPair) : (c.setQp k x).hotBell = c.hotBell := rfl
@[simp] theorem Chip.setQp_forceBell (k : Nat) (x : QPair) : (c.setQp k x).forceBell = c.forceBell := rfl
@[simp] theorem Chip.setQp_rtcAt (k : Nat) (x : QPair) : (c.setQp k x).rtcAt = c.rtcAt := rfl
@[simp] theorem Chip.setQp_inputs (k : Nat) (x : QPair) : (c.setQp k x).inputs = c.inputs := rfl
@[simp] theorem Chip.setQp_holds (k : Nat) (x : QPair) : (c.setQp k x).holds = c.holds := rfl
@[simp] theorem Chip.setQp_twin (k : Nat) (x : QPair) : (c.setQp k x).twin = c.twin := rfl
@[simp] theorem Chip.setQp_out (k : Nat) (x : QPair) : (c.setQp k x).out = c.out := rfl
@[simp] theorem Chip.setQp_freeCtr (k : Nat) (x : QPair) : (c.setQp k x).freeCtr = c.freeCtr := rfl

/-! ### setPort -/

@[simp] theorem Chip.setPort_variant (k : Nat) (x : EPort) : (c.setPort k x).variant = c.variant := rfl
@[simp] theorem Chip.setPort_mst (k : Nat) (x : EPort) : (c.setPort k x).mst = c.mst := rfl
@[simp] theorem Chip.setPort_mode (k : Nat) (x : EPort) : (c.setPort k x).mode = c.mode := rfl
@[simp] theorem Chip.setPort_beat (k : Nat) (x : EPort) : (c.setPort k x).beat = c.beat := rfl
@[simp] theorem Chip.setPort_regs (k : Nat) (x : EPort) : (c.setPort k x).regs = c.regs := rfl
@[simp] theorem Chip.setPort_rdLatch (k : Nat) (x : EPort) : (c.setPort k x).rdLatch = c.rdLatch := rfl
@[simp] theorem Chip.setPort_wrLatch (k : Nat) (x : EPort) : (c.setPort k x).wrLatch = c.wrLatch := rfl
@[simp] theorem Chip.setPort_srcs (k : Nat) (x : EPort) : (c.setPort k x).srcs = c.srcs := rfl
@[simp] theorem Chip.setPort_irqDue (k : Nat) (x : EPort) : (c.setPort k x).irqDue = c.irqDue := rfl
@[simp] theorem Chip.setPort_irqLast (k : Nat) (x : EPort) : (c.setPort k x).irqLast = c.irqLast := rfl
@[simp] theorem Chip.setPort_safeReq (k : Nat) (x : EPort) : (c.setPort k x).safeReq = c.safeReq := rfl
@[simp] theorem Chip.setPort_containReq (k : Nat) (x : EPort) : (c.setPort k x).containReq = c.containReq := rfl
@[simp] theorem Chip.setPort_crib (k : Nat) (x : EPort) : (c.setPort k x).crib = c.crib := rfl
@[simp] theorem Chip.setPort_grn (k : Nat) (x : EPort) : (c.setPort k x).grn = c.grn := rfl
@[simp] theorem Chip.setPort_loft (k : Nat) (x : EPort) : (c.setPort k x).loft = c.loft := rfl
@[simp] theorem Chip.setPort_host (k : Nat) (x : EPort) : (c.setPort k x).host = c.host := rfl
@[simp] theorem Chip.setPort_allot (k : Nat) (x : EPort) : (c.setPort k x).allot = c.allot := rfl
@[simp] theorem Chip.setPort_xcache (k : Nat) (x : EPort) : (c.setPort k x).xcache = c.xcache := rfl
@[simp] theorem Chip.setPort_engCache (k : Nat) (x : EPort) : (c.setPort k x).engCache = c.engCache := rfl
@[simp] theorem Chip.setPort_walks (k : Nat) (x : EPort) : (c.setPort k x).walks = c.walks := rfl
@[simp] theorem Chip.setPort_spaces (k : Nat) (x : EPort) : (c.setPort k x).spaces = c.spaces := rfl
@[simp] theorem Chip.setPort_invals (k : Nat) (x : EPort) : (c.setPort k x).invals = c.invals := rfl
@[simp] theorem Chip.setPort_prefetches (k : Nat) (x : EPort) : (c.setPort k x).prefetches = c.prefetches := rfl
@[simp] theorem Chip.setPort_ctxs (k : Nat) (x : EPort) : (c.setPort k x).ctxs = c.ctxs := rfl
@[simp] theorem Chip.setPort_readmitReq (k : Nat) (x : EPort) : (c.setPort k x).readmitReq = c.readmitReq := rfl
@[simp] theorem Chip.setPort_trainCache (k : Nat) (x : EPort) : (c.setPort k x).trainCache = c.trainCache := rfl
@[simp] theorem Chip.setPort_trainWhy (k : Nat) (x : EPort) : (c.setPort k x).trainWhy = c.trainWhy := rfl
@[simp] theorem Chip.setPort_trainRev (k : Nat) (x : EPort) : (c.setPort k x).trainRev = c.trainRev := rfl
@[simp] theorem Chip.setPort_links (k : Nat) (x : EPort) : (c.setPort k x).links = c.links := rfl
@[simp] theorem Chip.setPort_clk (k : Nat) (x : EPort) : (c.setPort k x).clk = c.clk := rfl
@[simp] theorem Chip.setPort_epochTag (k : Nat) (x : EPort) : (c.setPort k x).epochTag = c.epochTag := rfl
@[simp] theorem Chip.setPort_wireTick (k : Nat) (x : EPort) : (c.setPort k x).wireTick = c.wireTick := rfl
@[simp] theorem Chip.setPort_wireBytes (k : Nat) (x : EPort) : (c.setPort k x).wireBytes = c.wireBytes := rfl
@[simp] theorem Chip.setPort_mute (k : Nat) (x : EPort) : (c.setPort k x).mute = c.mute := rfl
@[simp] theorem Chip.setPort_consent (k : Nat) (x : EPort) : (c.setPort k x).consent = c.consent := rfl
@[simp] theorem Chip.setPort_lossCarried (k : Nat) (x : EPort) : (c.setPort k x).lossCarried = c.lossCarried := rfl
@[simp] theorem Chip.setPort_thr (k : Nat) (x : EPort) : (c.setPort k x).thr = c.thr := rfl
@[simp] theorem Chip.setPort_chaffClear (k : Nat) (x : EPort) : (c.setPort k x).chaffClear = c.chaffClear := rfl
@[simp] theorem Chip.setPort_cmb (k : Nat) (x : EPort) : (c.setPort k x).cmb = c.cmb := rfl
@[simp] theorem Chip.setPort_xsOut (k : Nat) (x : EPort) : (c.setPort k x).xsOut = c.xsOut := rfl
@[simp] theorem Chip.setPort_tgrpDue (k : Nat) (x : EPort) : (c.setPort k x).tgrpDue = c.tgrpDue := rfl
@[simp] theorem Chip.setPort_twinHb (k : Nat) (x : EPort) : (c.setPort k x).twinHb = c.twinHb := rfl
@[simp] theorem Chip.setPort_mirrorAll (k : Nat) (x : EPort) : (c.setPort k x).mirrorAll = c.mirrorAll := rfl
@[simp] theorem Chip.setPort_keys (k : Nat) (x : EPort) : (c.setPort k x).keys = c.keys := rfl
@[simp] theorem Chip.setPort_keyStage (k : Nat) (x : EPort) : (c.setPort k x).keyStage = c.keyStage := rfl
@[simp] theorem Chip.setPort_queues (k : Nat) (x : EPort) : (c.setPort k x).queues = c.queues := rfl
@[simp] theorem Chip.setPort_qps (k : Nat) (x : EPort) : (c.setPort k x).qps = c.qps := rfl
@[simp] theorem Chip.setPort_lastQpns (k : Nat) (x : EPort) : (c.setPort k x).lastQpns = c.lastQpns := rfl
@[simp] theorem Chip.setPort_ctxCache (k : Nat) (x : EPort) : (c.setPort k x).ctxCache = c.ctxCache := rfl
@[simp] theorem Chip.setPort_ctxMiss (k : Nat) (x : EPort) : (c.setPort k x).ctxMiss = c.ctxMiss := rfl
@[simp] theorem Chip.setPort_ctxOps (k : Nat) (x : EPort) : (c.setPort k x).ctxOps = c.ctxOps := rfl
@[simp] theorem Chip.setPort_notices (k : Nat) (x : EPort) : (c.setPort k x).notices = c.notices := rfl
@[simp] theorem Chip.setPort_ringFail (k : Nat) (x : EPort) : (c.setPort k x).ringFail = c.ringFail := rfl
@[simp] theorem Chip.setPort_loopRx (k : Nat) (x : EPort) : (c.setPort k x).loopRx = c.loopRx := rfl
@[simp] theorem Chip.setPort_admWait (k : Nat) (x : EPort) : (c.setPort k x).admWait = c.admWait := rfl
@[simp] theorem Chip.setPort_gap (k : Nat) (x : EPort) : (c.setPort k x).gap = c.gap := rfl
@[simp] theorem Chip.setPort_shapers (k : Nat) (x : EPort) : (c.setPort k x).shapers = c.shapers := rfl
@[simp] theorem Chip.setPort_ppsUntil (k : Nat) (x : EPort) : (c.setPort k x).ppsUntil = c.ppsUntil := rfl
@[simp] theorem Chip.setPort_insResets (k : Nat) (x : EPort) : (c.setPort k x).insResets = c.insResets := rfl
@[simp] theorem Chip.setPort_again (k : Nat) (x : EPort) : (c.setPort k x).again = c.again := rfl
@[simp] theorem Chip.setPort_mbOut (k : Nat) (x : EPort) : (c.setPort k x).mbOut = c.mbOut := rfl
@[simp] theorem Chip.setPort_relay (k : Nat) (x : EPort) : (c.setPort k x).relay = c.relay := rfl
@[simp] theorem Chip.setPort_relaySeen (k : Nat) (x : EPort) : (c.setPort k x).relaySeen = c.relaySeen := rfl
@[simp] theorem Chip.setPort_hello (k : Nat) (x : EPort) : (c.setPort k x).hello = c.hello := rfl
@[simp] theorem Chip.setPort_hostReady (k : Nat) (x : EPort) : (c.setPort k x).hostReady = c.hostReady := rfl
@[simp] theorem Chip.setPort_plainWrites (k : Nat) (x : EPort) : (c.setPort k x).plainWrites = c.plainWrites := rfl
@[simp] theorem Chip.setPort_cplTimeout (k : Nat) (x : EPort) : (c.setPort k x).cplTimeout = c.cplTimeout := rfl
@[simp] theorem Chip.setPort_hostBad (k : Nat) (x : EPort) : (c.setPort k x).hostBad = c.hostBad := rfl
@[simp] theorem Chip.setPort_probes (k : Nat) (x : EPort) : (c.setPort k x).probes = c.probes := rfl
@[simp] theorem Chip.setPort_restarts (k : Nat) (x : EPort) : (c.setPort k x).restarts = c.restarts := rfl
@[simp] theorem Chip.setPort_flash (k : Nat) (x : EPort) : (c.setPort k x).flash = c.flash := rfl
@[simp] theorem Chip.setPort_verified (k : Nat) (x : EPort) : (c.setPort k x).verified = c.verified := rfl
@[simp] theorem Chip.setPort_fwcBusy (k : Nat) (x : EPort) : (c.setPort k x).fwcBusy = c.fwcBusy := rfl
@[simp] theorem Chip.setPort_update (k : Nat) (x : EPort) : (c.setPort k x).update = c.update := rfl
@[simp] theorem Chip.setPort_smbAddr (k : Nat) (x : EPort) : (c.setPort k x).smbAddr = c.smbAddr := rfl
@[simp] theorem Chip.setPort_bootSafe (k : Nat) (x : EPort) : (c.setPort k x).bootSafe = c.bootSafe := rfl
@[simp] theorem Chip.setPort_safeOut (k : Nat) (x : EPort) : (c.setPort k x).safeOut = c.safeOut := rfl
@[simp] theorem Chip.setPort_skipPower (k : Nat) (x : EPort) : (c.setPort k x).skipPower = c.skipPower := rfl
@[simp] theorem Chip.setPort_skipTemp (k : Nat) (x : EPort) : (c.setPort k x).skipTemp = c.skipTemp := rfl
@[simp] theorem Chip.setPort_bellDone (k : Nat) (x : EPort) : (c.setPort k x).bellDone = c.bellDone := rfl
@[simp] theorem Chip.setPort_modeBell (k : Nat) (x : EPort) : (c.setPort k x).modeBell = c.modeBell := rfl
@[simp] theorem Chip.setPort_hotBell (k : Nat) (x : EPort) : (c.setPort k x).hotBell = c.hotBell := rfl
@[simp] theorem Chip.setPort_forceBell (k : Nat) (x : EPort) : (c.setPort k x).forceBell = c.forceBell := rfl
@[simp] theorem Chip.setPort_rtcAt (k : Nat) (x : EPort) : (c.setPort k x).rtcAt = c.rtcAt := rfl
@[simp] theorem Chip.setPort_inputs (k : Nat) (x : EPort) : (c.setPort k x).inputs = c.inputs := rfl
@[simp] theorem Chip.setPort_holds (k : Nat) (x : EPort) : (c.setPort k x).holds = c.holds := rfl
@[simp] theorem Chip.setPort_twin (k : Nat) (x : EPort) : (c.setPort k x).twin = c.twin := rfl
@[simp] theorem Chip.setPort_out (k : Nat) (x : EPort) : (c.setPort k x).out = c.out := rfl
@[simp] theorem Chip.setPort_freeCtr (k : Nat) (x : EPort) : (c.setPort k x).freeCtr = c.freeCtr := rfl

@[simp] theorem Chip.advanceTo_beat (n : Nat) : (c.advanceTo n).beat = max c.beat n := rfl
@[simp] theorem Chip.emit_out (o : Out) : (c.emit o).out = o :: c.out := rfl

end Sys2Proof.Machine
end

