-- ==== Sys2Proof/Laws/Settle.lean ====
section
/-! SUPPORT. Laws/Settle.lean: what `settle` is where nothing waits, and what it always leaves. -/
namespace Sys2Proof.Machine

/-- `settle` with no request of a fault source or of re-admission does only what waits: ring failures, admin commands, frames, messages. -/
theorem Chip.doContain_nil {c : Chip} (h : c.containReq = []) : c.doContain = { c with containReq := [] } := by simp [Chip.doContain, h]

theorem Chip.doSafe_off {c : Chip} (h : c.safeReq = false) : c.doSafe = c := by simp [Chip.doSafe, h]

theorem Chip.doReadmit_off {c : Chip} (h : c.readmitReq = false) : c.doReadmit = c := by simp [Chip.doReadmit, h]

/-- MODULE_STATE that agrees with the almanacs stays. -/
theorem Chip.deriveState_agrees {c : Chip} (h : c.StateAgrees) : c.deriveState = c := by
  obtain ⟨h1, h2⟩ := h
  simp only [Chip.deriveState]
  split
  · next hm => simp [h2 hm]
  · next hm => simp [h1 hm]
  · rfl

/-- Whatever `deriveState` is given, MODULE_STATE agrees with the almanacs afterwards. -/
theorem Chip.deriveState_spec (c : Chip) : c.deriveState.StateAgrees := by
  have hm (x : ModState) : ({ c with mst := x } : Chip).anyRun = c.anyRun := rfl
  simp only [Chip.deriveState, Chip.StateAgrees]
  split <;> (try split) <;> simp_all

/-- Nothing is taken up where nothing waits. -/
theorem Chip.settle_calm {c : Chip} (h : c.Calm) : c.settle = c := by
  obtain ⟨⟨h1, h2, h3, h4⟩, h5, h6, h7, h8, h9, h10, h11, h12, h13, h14⟩ := h
  have e1 : c.doContain = c := by rw [Chip.doContain_nil h2]; cases c; simp_all
  have e2 : c.ringFails = c := by simp [Chip.ringFails, h5]
  have e3 : c.admPoll = c := by simp [Chip.admPoll, h6]
  have e4 : c.ethEnds = c := by simp [Chip.ethEnds, h7]
  have e5 : c.mbFlush = c := by simp [Chip.mbFlush, h8]
  have e6 : c.twinPoll = c := by simp [Chip.twinPoll, h12, h13, h14]
  have e7 : c.tgrpDone = c := by simp [Chip.tgrpDone, h9]
  have e9 : c.xsPoll = c := by
    have : c.qps.filter (fun e => e.2.combine && (e.2.st == .connected || e.2.st == .connecting)) = [] := by
      rw [List.filter_eq_nil_iff]; intro e he; simp [h11 e he]
    simp [Chip.xsPoll, this]
  have e10 : c.sendAgain = c := by simp only [Chip.sendAgain, h10, List.filter_nil, List.foldl_nil]; cases c; simp_all
  have e8 : ({ c with safeReq := false, containReq := [], readmitReq := false } : Chip) = c := by cases c; simp_all
  simp only [Chip.settle, e1, Chip.doSafe_off h1, Chip.doReadmit_off h3, e9, e10, e2, e3, e4, e5, e6, e7, e8, ite_self]
  exact Chip.deriveState_agrees h4

end Sys2Proof.Machine
end

