-- ==== Sys2Proof/Tests/Slice0.lean ====
section
/-!
SUPPORT. Tests/Slice0.lean: the examples that the spec works out; commands that the well-formedness check refuses; and for every obligation with
hypotheses a concrete state and operands that meet them (witness_…), clause by clause.
-/
namespace Sys2Proof.Tests
open Sys2Proof Sys2Proof.Machine
set_option Elab.async false

/-- A module with the host link up and its rails on, in a state. -/
def up (m : ModState) : Chip := (({ mst := m } : Chip).wr F.FWC_STATUS_PHASE 6).wr F.HST_STATUS_LINK_UP 1

/-- The state of a module with no command waiting. -/
def st (c : Chip) : State := ⟨c, []⟩

/-- A READY module. -/
def cR : Chip := up .ready

/-- Requester 0x3FF: the manager. -/
def mgr : Nat := 0x3FF

/-- The register that BAR0 address `a` names. -/
def locAt (c : Chip) (a : Nat) : Loc := (c.locate (a / 65536) (a % 65536)).getD ⟨0, 0, 0, 0, ⟨.PAGE_ID, 0, false, 1, 4, .none, []⟩, 0, false⟩

/-- The manager reaches the registers of a field in page `idx` of its block. -/
def at_ (c : Chip) (f : Fld) (idx : Nat := 0) : Bool := c.reaches mgr f idx 0

/-- A space maps its low 512 GiB one to one to the crib with every right, by one leaf of its root table at 2 MiB. -/
def mapped (c : Chip) (space : Nat) : Chip :=
  (({ c with crib := c.crib.write 0x200000 (toLE 8 0x5f) }.wr F.GLB_SVC_CRB_STACKS 0xfff).wr F.XLT_SPACE_CTRL_ENABLE 1 0 space).wr F.XLT_ROOT_BASE 1 0 space

/-- The context as given. -/
def withCtx (c : Chip) (n : Nat) (x : Ctx) : Chip := c.setCtx n x

/-- A HEAD of three entries. -/
def hd (kind : Nat) : Head := ⟨kind, 15, 0, 0, 3, 0, 0, 7, 0⟩

/-- A space maps its first 64 KiB page to the crib at 4 MiB, through tables of all four levels. -/
def deep (c : Chip) (space : Nat) : Chip :=
  let m := (((c.crib.write 0x200000 (toLE 8 0x210001)).write 0x210000 (toLE 8 0x211001)).write 0x211000 (toLE 8 0x212001)).write 0x212000 (toLE 8 0x40005f)
  (({ c with crib := m }.wr F.GLB_SVC_CRB_STACKS 0xfff).wr F.XLT_SPACE_CTRL_ENABLE 1 0 space).wr F.XLT_ROOT_BASE 1 0 space

/-- The manager's admin queue serves, and its next command has these words. -/
def adm (c : Chip) (ws : List Nat) : Chip :=
  { c with queues := [(512 * 8192, { kind := .admin, ents := [⟨0, ws, false, 0, false, none, 0⟩], p := 1, f := 1 })] }.wr F.RME_CTRL_ADMQ_EN 1

/-- Link `k` in a state (R216), with what it holds. -/
def lk (c : Chip) (k state : Nat) (l : Link := {}) : Chip := (c.wr F.AGL_STATUS_STATE state k).setLink k l

/-- Link 3 of a READY module is UP. -/
def cL : Chip := lk cR 3 LinkSt.up

namespace Core

/-- What a step leaves of the chip. -/
def after (o : Host.Outcome State Fault Refusal) : Chip := match o with | .next t => t.chip | _ => { variant := .g, mst := .off, mode := .quiet }

/-- A READY module whose device memory the host reaches. -/
def cDev : Chip := (cR.wr F.HST_STATUS_BAR4_FULL 1).wr F.GLB_SVC_CRB_STACKS 0xfff |>.wr F.GLB_SVC_GRN_CHANNELS 0xffffffff

theorem witness_settled : State.reset.chip.Settled ∧ (∃ t, step State.reset = .next t) ∧ cR.Settled := by
  refine ⟨by unfold Chip.Settled Chip.StateAgrees; decide, ⟨_, rfl⟩, by unfold Chip.Settled Chip.StateAgrees; decide +kernel⟩

theorem witness_calm : cR.Calm ∧ cDev.Calm ∧ (up .booting).Calm ∧ (cR.wr F.FLT_TWIN_STATUS_STATE 1).Calm := by
  refine ⟨?_, ?_, ?_, ?_⟩ <;> unfold Chip.Calm Chip.Settled Chip.StateAgrees <;> decide +kernel

theorem witness_registerFrames : at_ cR F.HST_WIN_BASE_BASE = true ∧ (∃ t, exec (.windowBaseWrite mgr 5) (st cR) = .next t) ∧
    (∃ t, exec (.spiCsRelease 3 9) (st cR) = .next t) ∧ (∃ t, exec (.smbBlockWrite 3 9 4 false) (st cR) = .next t) ∧
    (∃ t, exec (.smbProcessCall 4 9 true) (st cR) = .next t) := ⟨by decide +kernel, ⟨_, rfl⟩, ⟨_, rfl⟩, ⟨_, rfl⟩, ⟨_, rfl⟩⟩

theorem witness_recoveredFrame : (cR.wr F.FLT_TWIN_STATUS_STATE 1).tw = Tw.paired ∧ at_ (cR.wr F.FLT_TWIN_STATUS_STATE 1) F.FLT_TWIN_CMD_CMD = true ∧
    (∃ t, exec (.recovered mgr) (st (cR.wr F.FLT_TWIN_STATUS_STATE 1)) = .next t) := ⟨by decide +kernel, by decide +kernel, ⟨_, rfl⟩⟩

theorem witness_goReadyFrame : at_ (up .booting) F.GLB_CMD_CMD = true ∧ (up .booting).mst = .booting ∧
    (∃ t, exec (.goReady mgr) (st (up .booting)) = .next t) := ⟨by decide +kernel, rfl, ⟨_, rfl⟩⟩

theorem witness_gpFrame : at_ cR (gpReg 5) = true ∧ at_ cR (gpReg 15) = true ∧ (∃ t, exec (.gpFuncWrite mgr 5 6) (st cR) = .next t) :=
  ⟨by decide +kernel, by decide +kernel, ⟨_, rfl⟩⟩

theorem witness_deviceWrite : cDev.hostUp = true ∧ cDev.mst = .ready ∧ cDev.rd F.HST_STATUS_BAR4_FULL = 1 ∧
    (∃ t, exec (.bar4Access 77 1 (some [some 9]) []) (st cDev) = .next t) ∧ cDev.dpa 77 = some (.crib, 77) ∧ cDev.stackUp 0 = true ∧
    cDev.dpa (2 ^ 41 + 77) = some (.grn, 77) ∧ cDev.channelUp (cDev.channelOf 77) = true :=
  ⟨by decide +kernel, rfl, by decide +kernel, ⟨_, rfl⟩, by decide +kernel, by decide +kernel, by decide +kernel, by decide +kernel⟩

theorem witness_violations : cR.rd F.VIOL_INFO_COUNT 0x105 = 0 ∧ (cR.wr F.VIOL_INFO_COUNT 255 0x78).rd F.VIOL_INFO_COUNT 0x78 ≠ 0 := by decide +kernel

theorem witness_memory : ({ cells := [(3, 7)], undef := [⟨8, 9, 0⟩], poison := [64] } : Mem).wf = true ∧ ¬ ({ cells := [(3, 0)] } : Mem).wf = true := by
  decide +kernel

/-! Commands that no sender can send, one for each check of `Instr.wf`. -/

/-- A PEER message, a bell mark, a heartbeat, a frame and a reading of the sensors that fit their fields. -/
def okPeer : PeerMsg := ⟨1, 2, true, false, 3, [0, 0, 0, 0, 0, 0, 0]⟩
def okMark : Mark := ⟨1, 0, 2, 0, 0, 0, 0, 0, 1, 0, 0, true⟩
def okBeat : Heartbeat := ⟨1, 4, 1, false, false, false, 9, 0, 0, 2⟩
def okFrame : LFrame := ⟨0, 1, 2, 3, false, 0, 0, []⟩
def okSense : Sensors := ⟨0, 0, 0, 0, 0, 0, 0, List.replicate 12 0, List.replicate 32 0⟩

theorem test_wf_requester : (Instr.goReady 0x3FF).wf = true ∧ (Instr.goReady 512).wf = false ∧ (Instr.goReady 1024).wf = false := by decide
theorem test_wf_address : (Instr.rcFieldRead 5 0x3FFFFFC ⟨4, true⟩).wf = true ∧ (Instr.rcFieldRead 5 0x4000000 ⟨4, true⟩).wf = false ∧
    (Instr.pairLoWrite 5 0 (2 ^ 32)).wf = false ∧ (Instr.registerWrite 5 0 ⟨8, true⟩ (2 ^ 64)).wf = false ∧ (Instr.violClear 5 1024).wf = false := by decide
theorem test_wf_owner : (Instr.createCq 512).wf = true ∧ (Instr.createCq 513).wf = false ∧ (Instr.vfFlr 512).wf = false ∧
    (Instr.atomicopRequest 513 0).wf = false := by decide
theorem test_wf_context : (Instr.startBellReached 513).wf = true ∧ (Instr.startBellReached 514).wf = false ∧ (Instr.entryComplete 0 (2 ^ 24) []).wf = false ∧
    (Instr.entryComplete 0 0 [⟨.host, 0, true⟩]).wf = false ∧ (Instr.translationMiss 0 (2 ^ 57) .read 0 false).wf = false := by decide
theorem test_wf_link : (Instr.linkAck 31 7).wf = true ∧ (Instr.linkAck 32 7).wf = false ∧ (Instr.linkAck 0 65536).wf = false ∧ (Instr.laneLoss 0 4).wf = false ∧
    (Instr.linkCredit ⟨0, 7⟩ [1, 2]).wf = false ∧ (Instr.vcBufWrite 5 0 7 1).wf = false ∧ (Instr.hold ⟨0, 7, true⟩ 256 0 0).wf = false := by decide
theorem test_wf_messages : okPeer.ok = true ∧ ({ okPeer with buf := [] } : PeerMsg).ok = false ∧ okMark.ok = true ∧ ({ okMark with tkId := 256 } : Mark).ok = false ∧
    okBeat.ok = true ∧ ({ okBeat with state := 8 } : Heartbeat).ok = false := by decide
theorem test_wf_frames : okFrame.ok = true ∧ ({ okFrame with dest := 256 } : LFrame).ok = false ∧ (Instr.ethFrameReceive 0 1 [1, 2] 63 none).wf = true ∧
    (Instr.ethFrameReceive 0 1 [1, 2] 64 none).wf = false ∧ (RxAt.link 32).ok = false ∧ (CfgWrite.relaxed 513 true).ok = false ∧ okSense.ok = true ∧
    ({ okSense with crib := [] } : Sensors).ok = false := by decide
theorem test_wf_combines : (Instr.combineData 3 4).wf = true ∧ (Instr.combineData 3 5).wf = false ∧ (Instr.chainSetup 2 0 0).wf = false ∧
    (Instr.arrived 0 0 0 4).wf = false := by decide
theorem test_wf_queues : (Instr.workEntryFetch (513 * 8192)).wf = false ∧ (Instr.sqNop (2 ^ 24)).wf = false ∧ (Instr.keySelWrite 5 2 0).wf = false ∧
    (Instr.keyDataWrite 5 16 0).wf = false := by decide
theorem test_wf_ports : (Instr.ethLinkUp 4 0).wf = false ∧ (Instr.ethLinkUp 0 2).wf = false ∧ (Instr.pauseExpiry 0 0 8).wf = false ∧
    (Instr.hostReadError 0 0 0).wf = false ∧ (Instr.coreRestartComplete 16).wf = false ∧ (Instr.forceWrite 5 1024 true).wf = false ∧
    (Instr.gpFuncWrite 5 16 0).wf = false := by decide

end Core

namespace Worked

/-! Examples that the spec works out, and vectors of the standards that it names. -/

/-- What a step leaves of the chip. -/
def after (o : Host.Outcome State Fault Refusal) : Chip := match o with | .next t => t.chip | _ => { variant := .g, mst := .off, mode := .quiet }
/-- Read 32-bit words as one register access of the manager gives it. -/
def word (c : Chip) (addr : Nat) : Option Nat := (c.busRead32 mgr addr false).1

/-- The example after R48: a GRF-KVB-R records a write to the absent page AGL20. -/
theorem test_viol_example : let c := after (exec (.registerWrite mgr 0x540100 ⟨4, true⟩ 1) (st { cR with variant := .r }))
    word c 0x18 = some 0x010017FF ∧ word c 0x10 = some 0x540100 := by decide +kernel

/-- The example after R147: the walk of instance 7 at VA 0x0081_4060_1234. -/
theorem test_walk_example :
    let m := (((({ } : Mem).write 0x4000008 (toLE 8 0x04200001)).write 0x04200028 (toLE 8 0x04201001)).write 0x04201018 (toLE 8 0x0040008F))
    let c := (({ cR with crib := m }.wr F.GLB_SVC_CRB_STACKS 0xfff).wr F.XLT_SPACE_CTRL_ENABLE 1 0 7).wr F.XLT_ROOT_BASE 0x20 0 7
    (c.xlate 7 0x008140601234 .read).1 = .ok .grn 0x401234 0x8140800000 ∧ cR.dpa 0x020000401234 = some (.grn, 0x401234) ∧
    cR.channelOf 0x401234 = 1 ∧ ({ cR with variant := .g } : Chip).channelOf 0x401234 = 1 := by decide +kernel

/-- The example of R103: an MXFP4 block of 7.5, 0.75 and zeros. -/
theorem test_mxfp4_example : let r := narrowBlock 6 ((Fp.num false 15 (-1), .rne) :: (Fp.num false 3 (-2), .rne) :: List.replicate 30 (Fp.num false 0 0, .rne))
    r.1 = 0x7F ∧ r.2.1.take 3 = [7, 2, 0] ∧ r.2.2.sat = 1 := by decide +kernel

/-- The example after R115: four units of TALLY under anchor 0x84. -/
theorem test_tally_example : tallyInt 0x84 (.num false 40 0) = some 0x500000000000 ∧ tallyInt 0x84 (.num false 1 (-3)) = some 0x4000000000 := by decide +kernel

/-- The example of R106: a seed and coordinates of 0 give 0. -/
theorem test_generator_example : rbits 0 0 0 0 0 0 0 = 0 := by decide +kernel

/-- The example of R186: the headland of a slot of 5,160 ticks at 2%, at the default and at 25%. -/
theorem test_headland_example : [2, 0, 25].map (fun p => ({ hd 1 with headland := p } : Head).land (Entry.parse [0, 0, 5160])) = [104, 310, 1290] := by decide +kernel

/-- The example of R84: four settings are admitted, a fifth is refused. -/
theorem test_share_example : let f : ShiftSet := { share := 240, quantum := 50, stage := 20 }
    firstOver (0, 1) [(0, f), (1, f), (2, f), (3, f)] = none ∧
    firstOver (0, 1) [(0, f), (1, f), (2, f), (3, f), (4, { share := 64, quantum := 5, stage := 20 })] = some 4 := by decide +kernel

/-- The example of R207: module 37 reaches module 200 over link 2, arriving on 12, then link 24, arriving on 20. -/
theorem test_route_example : rowLink 5 8 = 2 ∧ rowLink 8 5 = 12 ∧ colLink 2 12 = 24 ∧ colLink 12 2 = 20 := by decide +kernel

/-- The example of R325: a window of 60 ns is refused at entry 1; with 100 ns the list is admitted. -/
theorem test_gate_example :
    let c := (({ cR with variant := .f }.ewr F.ETH_STATUS_PREEMPT_ACTIVE 1 0 0).ewr F.ETH_PREEMPT_EXPRESS 0xC0 0 0).wr F.ETH_TMAP_CTRL_VALID 1 0
    let l (a b : Nat) : GateList := { enable := true, cycle := 10000, ents := [0x48000000 + a, 0x80000000 + b] }
    c.gateBad 0 0 2 (l 9940 60) = some (5, 1) ∧ c.gateBad 0 0 2 (l 9900 100) = none := by decide +kernel

/-- The example of R327: 9,000 bytes from a level of 2,000, and 1,000 ns at 1.25 bytes per ns. -/
theorem test_shaper_example : (({ rate := 10000, level := -7000 * 65536 } : Shaper).upTo 900).level = -5750 * 65536 ∧
    (({ rate := 2000, level := -5750 * 65536 } : Shaper).upTo 20700).level = 0 ∧
    (({ rate := 0, level := -5750 * 65536 } : Shaper).upTo 20700).level = -5750 * 65536 := by decide +kernel

/-- The example of R410: W = 100 gives buckets of 7 bells, 15 of them; W = 1 one of 1. -/
theorem test_window_example : ({ w := 100 } : Src).bucketBells = 7 ∧ ({ w := 100 } : Src).bucketCount = 15 ∧ ({ w := 1 } : Src).bucketBells = 1 ∧
    ({ w := 1 } : Src).bucketCount = 1 := by decide +kernel

/-- The example of R446: two whole words and 20 bits of a third, then 30 edges, then STATUS. -/
theorem test_spi_example :
    let c := after (execSpiWrite 0x20 [0x11111111, 0x22222222] (st cR))
    let d := ((c.spiRelease 0x02 124).spiRelease 0x02 30).spiStatus
    word d 0x20 = some 0x11111111 ∧ word d 0x24 = some 0x22222222 ∧ word d 0x28 = some 0 ∧ d.out.head? = some (.sideband spiSrc 0x86) := by decide +kernel

/-- FIPS 197, example of AES-256. -/
theorem test_aes_vector : Aes.enc (Aes.roundKeys (List.range 32)) ((List.range 16).map (· * 17)) =
    [0x8e, 0xa2, 0xb7, 0xca, 0x51, 0x67, 0x45, 0xbf, 0xea, 0xfc, 0x49, 0x90, 0x4b, 0x49, 0x60, 0x89] := by decide +kernel

/-- The GCM paper's test case 14: AES-256 with a key, an IV and one block of zeros. -/
theorem test_gcm_vector : Gcm.encrypt (List.replicate 32 0) (List.replicate 12 0) [] (List.replicate 16 0) =
    ([0xce, 0xa7, 0x40, 0x3d, 0x4d, 0x60, 0x6b, 0x6e, 0x07, 0x4e, 0xc5, 0xd3, 0xba, 0xf3, 0x9d, 0x18],
     [0xd0, 0xd1, 0xc8, 0xa7, 0x99, 0x99, 0x6b, 0xf0, 0x26, 0x5b, 0x98, 0xb5, 0xd4, 0x8a, 0xb9, 0x19]) := by decide +kernel

/-- FIPS 180-4, SHA-384 of "abc". -/
theorem test_sha_vector : Sha.sha384 [0x61, 0x62, 0x63] =
    0xcb00753f45a35e8bb5a03d699ac65007272c32ab0eded1631a8b605a43ff5bed8086072ba1e7cc2358baeca134c825a7 := by decide +kernel

/-- CRC-32 of "123456789". -/
theorem test_crc_vector : crc32 [0x31, 0x32, 0x33, 0x34, 0x35, 0x36, 0x37, 0x38, 0x39] = 0xCBF43926 := by decide +kernel

/-- The table gives its rows no bits: no word spells a command. -/
theorem test_no_word : decodeTableWord 32 0x12345678 = none ∧ State.reset.withFetchWord 32 7 = State.reset := by decide +kernel

end Worked

namespace Bus

/-- The state in which the low word of ARI_GEN_SEED has been answered. -/
def dSeed : Chip := let r := cR.readWord mgr 0xa00c0; r.2.emit (.readData mgr 0xa00c0 r.1)

theorem witness_register_reads : (st cR).chip.busDead mgr = false ∧ 0xa00e8 % 4 = 0 ∧ cR.busBad mgr 0xa00e8 false false = none ∧ 0xa00c0 % 8 = 0 ∧
    cR.busBad mgr 0xa00c0 false false = none ∧ dSeed.busBad mgr 0xa00c4 false false = none ∧ sizeOk 0x82 4 true = false ∧
    cR.busBad mgr 0x82 false true = some .size ∧ (up .safe).busBad mgr 0x80080 false false = some .state ∧ (pageRow 0).isSome = true ∧
    (locAt cR 0x80).open_ = false ∧ (locAt cR 0x80).reg.pair = false ∧ cR.locate 0 0x7fc = none := by
  decide +kernel

/-- CLK_LATE is read and cleared. -/
def cLate : Chip := cR.wr F.CLK_LATE_COUNT 7

theorem witness_rc_read : let l := locAt cLate 0x100c8
    cLate.pageAbsent 1 = false ∧ cLate.locate 1 0xc8 = some l ∧ l.open_ = false ∧ l.hi = false ∧ l.reg.reg ≠ .FLT_SRC_COUNT ∧ l.reg.reg ≠ .CMB_TRIG_PEAK ∧
    F.CLK_LATE_COUNT ∈ l.reg.fields ∧ F.CLK_LATE_COUNT.acc = .rc ∧ (cLate.readWord mgr 0x100c8).1 = 7 := by decide +kernel

/-- Source 36 is selected and has counted; the peak of triggered operations is read. -/
def cSrc : Chip := (cR.wr F.FLT_SRC_SEL_SOURCE 36).setSrc 36 { cR.src 36 with count := 5 }
def cPeak : Chip := cR.wr F.CMB_TRIG_PEAK_PEAK 9

theorem witness_rc_views : (locAt cSrc (0x30000 + F.FLT_SRC_COUNT_COUNT.off)).reg.reg = .FLT_SRC_COUNT ∧ srcNamed (cSrc.rd F.FLT_SRC_SEL_SOURCE) = true ∧
    F.FLT_SRC_COUNT_COUNT ∈ (locAt cSrc (0x30000 + F.FLT_SRC_COUNT_COUNT.off)).reg.fields ∧ F.FLT_SRC_COUNT_COUNT.acc = .rc ∧
    (locAt cPeak (0x310000 + F.CMB_TRIG_PEAK_PEAK.off)).reg.reg = .CMB_TRIG_PEAK ∧
    F.CMB_TRIG_PEAK_PEAK ∈ (locAt cPeak (0x310000 + F.CMB_TRIG_PEAK_PEAK.off)).reg.fields ∧ F.CMB_TRIG_PEAK_PEAK.acc = .rc := by decide +kernel

/-- BEAT at 2^32 + 5, and later. -/
def cBeat : Chip := { cR with beat := 2 ^ 32 + 5 }
def dBeat : Chip := { (cBeat.readWord mgr 0x10088).2 with beat := 2 ^ 33 }

theorem witness_pair_read : let l := locAt cBeat 0x10088; let h := locAt dBeat 0x1008c
    cBeat.pageAbsent 1 = false ∧ cBeat.locate 1 0x88 = some l ∧ l.open_ = false ∧ l.hi = false ∧ l.reg.pair = true ∧
    dBeat.rdLatch = (cBeat.readWord mgr 0x10088).2.rdLatch ∧ dBeat.pageAbsent 1 = false ∧ dBeat.locate 1 0x8c = some h ∧ h.open_ = false ∧
    h.hi = true ∧ h.reg.pair = true ∧ (dBeat.readWord mgr 0x1008c).1 = 1 := by decide +kernel

theorem witness_pair_high_alone : let h := locAt cBeat 0x1008c
    cBeat.pageAbsent 1 = false ∧ cBeat.locate 1 0x8c = some h ∧ h.open_ = false ∧ h.hi = true ∧ h.reg.pair = true ∧
    Table.find? mgr cBeat.rdLatch = none ∧ (cBeat.readWord mgr 0x1008c).1 = 1 ∧ (cBeat.readWord mgr 0x1008c).2.rd F.PAGE_STATUS_LATCH_MISS 1 = 1 := by
  decide +kernel

theorem witness_register_writes :
    (st cR).chip.busDead mgr = false ∧ 0x1000c % 4 = 0 ∧ (st cR).chip.busBad mgr 0x1000c true false = none ∧ 0x1000c = 1 * 65536 + 0xc ∧
    0xa00c0 % 8 = 0 ∧ cR.busBad mgr 0xa00c0 true false = none ∧ (cR.writeWord mgr 0xa00c0 5).busBad mgr 0xa00c4 true false = none ∧
    cR.locate 0 0x7fc = none ∧ (locAt cR 0x84).rwPair = false ∧ (locAt cR 0x84).hi = false ∧ sizeOk 0x84 4 false = false ∧
    cR.busBad mgr 0x84 true true = some .size := by
  decide +kernel

/-- ARI_GEN_SEED, an RW pair: its low word is written. -/
def cSeed : Chip := cR.writeWord mgr 0xa00c0 5

theorem witness_pair_write : let l := locAt cR 0xa00c0; let h := locAt cR 0xa00c4
    cR.locate 0xa 0xc0 = some l ∧ l.rwPair = true ∧ l.hi = false ∧ cR.locate 0xa 0xc4 = some h ∧ h.rwPair = true ∧ h.hi = true ∧
    Table.find? mgr cSeed.wrLatch = some ⟨0xa00c0, 5⟩ ∧ (cSeed.writeWord mgr 0xa00c4 1).rd F.ARI_GEN_SEED_VALUE = 2 ^ 32 + 5 ∧
    Table.find? mgr cR.wrLatch = none ∧ (cR.writeWord mgr 0xa00c4 1).rd F.ARI_GEN_SEED_VALUE = 2 ^ 32 := by decide +kernel

theorem witness_violations : 0 < 1024 ∧ mgr < 1024 ∧ 1 < 2 ∧ 0 < 4 ∧ 0x540100 < 2 ^ 64 ∧ cR.rd F.VIOL_INFO_COUNT 0 = 0 ∧
    (cR.violation 0 mgr 0x540100 1 0 .absent).rd F.VIOL_INFO_COUNT 0 ≠ 0 := by decide +kernel

theorem witness_bad_accesses : (st cR).chip.busDead mgr = false ∧ 0x60000 % 4 = 0 ∧ cR.busBad mgr 0x60000 true false = some .unmapped ∧
    (st (up .safe)).chip.busDead mgr = false ∧ 0x80080 % 4 = 0 ∧ (up .safe).busBad mgr 0x80080 true false = some .state := by decide +kernel

/-- SAFE, with and without a SAFE cause. -/
def cS : Chip := up .safe
def cSC : Chip := cS.setSrc 36 { cS.src 36 with status := true }

theorem witness_state_commands : at_ cS F.GLB_CMD_CMD = true ∧ cS.mst = .safe ∧ cS.safeCause = false ∧ (cS.wr F.GLB_STATE_CMD_RESULT 1).safeRelease.hello = none ∧
    at_ cSC F.GLB_CMD_CMD = true ∧ cSC.mst = .safe ∧ cSC.safeCause = true ∧ at_ cR F.GLB_CMD_CMD = true ∧ cR.mst = .ready ∧
    at_ (up .booting) F.GLB_CMD_CMD = true ∧ (up .booting).mst ≠ .ready ∧ (up .booting).mst ≠ .running := by decide +kernel

theorem witness_safe_request : ({ cR with safeReq := true } : Chip).safeReq = true ∧ cR.mst = .ready ∧ ({ cS with safeReq := true } : Chip).mst = .safe := by
  decide +kernel

/-- A mode request written before the next bell, one with a hot inlet, one that a held almanac excludes, and forced changes. -/
def cMode : Chip := cR.modeWrite 0
def cHot : Chip := cMode.wr F.MGT_COOLANT_T_INLET 3100
def cExcl : Chip := cMode.setCtx 0 { cMode.ctx 0 with st := .held, head := some { hd 1 with modes := 2 } }
def cForce : Chip := { cR with forceBell := some 1 }
def cForce3 : Chip := { cHot with forceBell := some 1, mode := .full }
def cForceX : Chip := { cForce3.setCtx 0 { cMode.ctx 0 with st := .held, head := some { hd 1 with modes := 1 } } with mode := .full }

theorem witness_mode : at_ cR F.GLB_MODE_REQUEST = true ∧ cR.forceBell = none ∧ cR.on F.GLB_MODE_PENDING = false ∧ cMode.forceBell = none ∧
    cMode.on F.GLB_MODE_PENDING = true ∧ cMode.beat ≤ cMode.modeBell * bellBeats ∧ (cMode.ctx 0).st = .empty ∧ cMode.rd F.GLB_MODE_REQUEST = 0 ∧
    cHot.on F.GLB_MODE_PENDING = true ∧ cHot.rd F.GLB_MODE_REQUEST = 0 ∧ 3000 < cHot.rd F.MGT_COOLANT_T_INLET ∧ cHot.forceBell = none ∧
    (cExcl.ctx 0).st = .held ∧ (cExcl.ctx 0).includes 0 = false ∧ cExcl.on F.GLB_MODE_PENDING = true ∧ cForce.beat ≤ 1 * bellBeats ∧
    cForce3.on F.GLB_MODE_PENDING = true ∧ 1 ≤ cForce3.modeBell ∧ cForce3.beat ≤ 1 * bellBeats := by decide +kernel

theorem witness_bell : (up .off).mst = .off ∧ cR.mst ≠ .off ∧ cR.mst ≠ .keepalive := by decide +kernel

end Bus

namespace Alm

/-- Context 2 is selected, and a table of HEAD, NOP and END stands at 64 KiB in space 0. -/
def cA : Chip :=
  ((mapped cR 0).wr F.ALM_CTX_CTX 2).wr F.ALM_BASE_VA 0x10000 0 2
def tab : Chip := { cA with crib := cA.crib.write 0x10000 (bytesOf [0xf0001, 0, 3, 0, 0, 0, 7, 0] ++ bytesOf [0, 0, 0, 0, 0, 0, 0, 0] ++ bytesOf [2, 0, 0, 0, 0, 0, 0, 0]) }
def cA2 (s : AlmState) : Chip := withCtx tab 2 { st := s, head := some (hd 0) }
/-- Context 0 is selected. -/
def cA0 (s : AlmState) : Chip := withCtx (cR.wr F.ALM_CTX_CTX 0) 0 { st := s, head := some (hd 0) }
/-- Instance 0 is being reset. -/
def cRst : Chip := cA.wr F.INS_STATUS_STATE 2 0

/-- A start bell far enough ahead; a CHAFF_CLEAR under way; a HEAD of kind 1 for context 0; an admission under way in context 2. -/
def cRun : Chip := (cA0 .admitted).wr F.ALM_START_BELL 9 0 0
def cBusy : Chip := (cA0 .admitted).wr F.ARI_CHAFF_STATUS_BUSY 1
def cLoad0 : Chip := { ((mapped cR 512).wr F.ALM_CTX_CTX 0).wr F.ALM_BASE_VA 0x10000 0 0 with
  crib := (mapped cR 512).crib.write 0x10000 (bytesOf [0xf1001, 0, 3, 0, 0, 0, 7, 0]) }
def cAdmB : Chip := withCtx cA 2 { st := .loaded, head := some (hd 0), adm := some .first }

theorem witness_almanac_commands : at_ tab F.ALM_CMD_CMD = true ∧ tab.rd F.ALM_CTX_CTX = 2 ∧ tab.insResetting 0 = false ∧ (tab.ctx 2).adm = none ∧
    (tab.ctx 2).st.idle = true ∧ (tab.wr F.ALM_STATE_CMD_ERR 0 0 2).readHead 2 = .inl ⟨0, 15, 0, 0, 3, 0, 0, 7, 0⟩ ∧ cA.readHead 2 = .inr 2 ∧
    ((cA2 .done).ctx 2).st = .done ∧ ((cA2 .running).ctx 2).st = .running ∧ ((cA2 .admitted).ctx 2).st = .admitted ∧
    (cA0 .admitted).rd F.ALM_CTX_CTX = 0 ∧ ((cA0 .admitted).ctx 0).st = .admitted ∧ (cA0 .admitted).chaffBusy = false ∧
    (cA0 .admitted).rd F.ALM_START_BELL 0 0 < (cA0 .admitted).bell + 2 ∧ cRst.insResetting 0 = true ∧ at_ cRst F.ALM_CMD_CMD = true ∧
    (cRun.ctx 0).st = .admitted ∧ cRun.bell + 2 ≤ cRun.rd F.ALM_START_BELL 0 0 ∧ ((cA0 .held).ctx 0).st = .held ∧ cBusy.chaffBusy = true ∧
    (cLoad0.ctx 0).st.idle = true ∧ (cLoad0.wr F.ALM_STATE_CMD_ERR 0 0 0).readHead 0 = .inl { hd 1 with entryCount := 3 } ∧
    (cAdmB.ctx 2).adm ≠ none := by decide +kernel

/-- An ADMIT is under way in context 2, with what it found. -/
def cAdm (w : Option (Nat × Nat)) : Chip := withCtx cA 2 { st := .loaded, head := some (hd 0), adm := some .first, admWhy := w, admHead := some (hd 0) }

/-- An admission of another kind in context 0. -/
def cAgain (k : AdmKind) (st : AlmState) (w : Option (Nat × Nat)) (again : Bool) : Chip :=
  withCtx cR 0 { st := st, head := some (hd 1), startBell := some 9, failHold := true, adm := some k, admWhy := w, admHead := some (hd 1), admAgain := again }

theorem witness_admission : ((cAdm none).ctx 2).adm = some .first ∧ ((cAdm none).ctx 2).admAgain = false ∧ ((cAdm none).ctx 2).admWhy = none ∧ 2 ≤ 2 ∧
    ((cAdm (some (1, 5))).ctx 2).adm = some .first ∧ ((cAdm (some (1, 5))).ctx 2).admWhy = some (1, 5) ∧ (cA.ctx 2).adm = none ∧
    ((cAgain .again .admitted (some (1, 5)) false).ctx 0).adm = some .again ∧ ((cAgain .running .running (some (1, 5)) false).ctx 0).adm = some .running ∧
    OwnCause.reeval 0 ∉ (cAgain .running .running (some (1, 5)) false).ownCauses ∧
    OwnCause.reeval 0 ∈ ((cAgain .running .running (some (1, 5)) false).onHold (fun h => { h with now := { h.now with own := [.reeval 0] } })).ownCauses ∧
    ((cAgain .first .loaded none true).ctx 0).admAgain = true := by decide +kernel

def cBellA (n : Nat) (x : Ctx) : Chip := withCtx cR n x

theorem witness_almanac_bells : ((cBellA 0 { st := .running, stopReq := some 3 }).ctx 0).stopReq = some 3 ∧ ((cBellA 2 { st := .running, stopReq := some 3 }).ctx 2).inFlight = [] ∧
    ((cBellA 0 { st := .admitted, head := some (hd 0), startBell := some 4 }).ctx 0).startBell = some 4 ∧ cR.hold.bell = none ∧ cR.mst ≠ .safe ∧
    ((withCtx cR 0 { st := .running, failHold := true }).originate 1 (.reeval 0)).hold.bell = some 1 ∧
    ((withCtx cR 0 { st := .running, failHold := true }).originate 1 (.reeval 0)).hold.held = false ∧
    ((withCtx cR 0 { st := .running, failHold := true }).originate 1 (.reeval 0)).hold.resume = none ∧
    (((cBellA 0 { st := .running, head := some (hd 0), bellWait := some 9 }).steps 0 none).ctx 0).bellWait = some 9 ∧
    ((cBellA 0 { st := .running, head := some (hd 0), bellWait := some 9 }).steps 0 none).firstDue 0 = none := by decide +kernel

/-- An entry stamped at tick 5 is cached in context 0, and entry 2 with END or, where `early`, with a NOP stamped at tick 1. -/
def stamped (op : Nat) (early : Bool := false) : Chip := withCtx cR 0 {
  st := .running, head := some (hd 0), next := 1, frames := [{ origin := bellBeats }], started := true
  cached := [(1, ([op + 256, 5, 3, 1, 0, 0, 0, 2], [])), (2, (if early then [256, 1, 1, 0, 0, 0, 0, 0] else [2, 0, 0, 0, 0, 0, 0, 0], []))] }
def wSt (op : Nat) : List Nat := [op + 256, 5, 3, 1, 0, 0, 0, 2]
def due1 : Due := ⟨bellBeats + 320, 1, 0⟩

theorem witness_stamped : 0 < 2 ∧ (((stamped Op.nop).steps 0 none).ctx 0).head = some (hd 0) ∧ (((stamped Op.nop).steps 0 none).ctx 0).st = .running ∧
    ((stamped Op.nop).steps 0 none).firstDue 0 = some due1 ∧ Table.find? 1 (((stamped Op.nop).steps 0 none).ctx 0).cached = some (wSt Op.nop, []) ∧
    ((stamped Op.nop).steps 0 none).hold.bell = none ∧ (Entry.parse (wSt Op.nop)).op = Op.nop ∧ ((stamped Op.loop).steps 0 none).firstDue 0 = some due1 ∧
    (Entry.parse (wSt Op.loop)).op = Op.loop ∧ ((stamped Op.bellWait).steps 0 none).firstDue 0 = some due1 ∧ (Entry.parse (wSt Op.bellWait)).op = Op.bellWait ∧
    ((stamped Op.ewise).steps 0 none).firstDue 0 = some due1 ∧ (Entry.parse (wSt Op.ewise)).onThresher = true ∧ (Entry.parse (wSt Op.ewise)).op ≠ Op.openShift ∧
    (((stamped Op.nop).onHold (fun h => { h with bell := some 1 })).steps 0 none).hold.bell = some 1 ∧ 1 * bellBeats ≤ due1.beat := by decide +kernel

/-- No entry is left: entry 1 is END. -/
theorem witness_stamped_none : ((stamped Op.end_).steps 0 none).firstDue 0 = none ∧ (((stamped Op.end_).steps 0 none).ctx 0).st = .running := by decide +kernel

/-- R63: the entry at index 2 with the earlier stamp issues before the one at index 1. -/
theorem test_stamp_order : (stamped Op.nop true).firstDue 0 = some ⟨bellBeats + 64, 2, 0⟩ ∧
    ((stamped Op.nop true).stampedIssue 0).beat = bellBeats + 64 ∧ ((stamped Op.nop true).stampedIssue 0).firstDue 0 = some due1 := by decide +kernel

/-- An entry is cached in context 2. -/
def local2 (w : List Nat) (fl : List Issued) : Chip := withCtx cR 2 { st := .running, head := some (hd 0), next := 1, started := true, cached := [(1, (w, []))], inFlight := fl, lastIssued := 0 }
def isd (w : List Nat) (late : Bool) (idx : Nat := 0) : Issued := { idx := idx, words := w, upd := [], descs := [], step := 0, issue := 0, slotEnd := 64, occEnd := 64, late := late }
def wNop : List Nat := [0, 0, 0, 0, 0, 0, 0, 0]
def wChain : List Nat := [512, 0, 0, 0, 0, 0, 0, 0]
def wMove : List Nat := [0x30, 0, 0, 0, 0, 0, 0, 0]

theorem witness_local : 2 ≤ 2 ∧ (((local2 wNop []).skip 2).ctx 2).head = some (hd 0) ∧ (((local2 wNop []).skip 2).ctx 2).st = .running ∧
    ((local2 wNop []).skip 2).insResetting 0 = false ∧ (((local2 wNop []).skip 2).ctx 2).started = true ∧ (((local2 wNop []).skip 2).ctx 2).stopReq = none ∧
    Table.find? 1 (((local2 wNop []).skip 2).ctx 2).cached = some (wNop, []) ∧ 
    (Entry.parse wChain).chain = true ∧ (((local2 wChain [isd wNop false]).skip 2).ctx 2).inFlight.any (fun f => f.idx == 0) = true ∧
    (Entry.parse wMove).op = Op.move ∧ ((withCtx (local2 wMove []) 3 { inFlight := [isd wMove false] }).ctx 3).inFlight.any (fun i => i.e.onMover) = true := by
  decide +kernel

/-- Instance 0 holds the shift, from beat 700. -/
def localShift (w : List Nat) : Chip := { local2 w [] with thr := { shift := some ⟨0, 0, 700, 2 ^ 30, []⟩ } }
def wEw : List Nat := [Op.ewise, 0, 0, 0, 0, 0, 0, 0]

theorem witness_local_issue : (Entry.parse wEw).op = Op.ewise ∧ ((((localShift wEw).skip 2).fetched 2 1).2).unitFree 2 (Entry.parse wEw) = true ∧
    ((((local2 wEw []).skip 2).fetched 2 1).2).unitFree 2 (Entry.parse wEw) = false ∧ (((localShift wEw).skip 2).fetched 2 1).1 = (wEw, []) ∧
    ((((local2 wMove []).skip 2).fetched 2 1).2).unitFree 2 (Entry.parse wMove) = true := by decide +kernel

theorem witness_complete : ((local2 wNop [isd wMove false]).ctx 2).flight 0 = some (isd wMove false) ∧ (isd wMove false).late = false ∧
    (local2 wNop [isd wMove false]).workReady 2 (isd wMove false) = true ∧ ((local2 wNop [isd wMove true]).ctx 2).flight 0 = some (isd wMove true) ∧
    (isd wMove true).late = true ∧ (local2 wNop [isd wMove true]).workReady 2 (isd wMove true) = true ∧
    (isd [6, 0, 0, 0, 0, 0, 0, 0] false).e.op = Op.fence ∧ cR.hostUp = true ∧ ((withCtx cR 0 { st := .running, inFlight := [isd wMove false] }).ctx 0).flight 0 = some (isd wMove false) ∧
    (let d := (withCtx tab 2 { st := .running, head := some (hd 0), next := 2, started := true }).skip 2
     2 ≤ 2 ∧ (d.ctx 2).flight 2 = none ∧ (d.ctx 2).st = .running ∧ (d.ctx 2).inFlight = [] ∧ (d.ctx 2).next = 2 ∧ (d.entry 2 2).op = Op.end_ ∧ (d.ctx 2).bellWait = none) := by
  decide +kernel
/-- Context 0 has reached END at index 2 of the table. -/
def cEnd : Chip := withCtx { (((mapped cR 512).wr F.ALM_BASE_VA 0x10000 0 0)) with crib := (((mapped cR 512).crib.write 0x10000 (bytesOf [0xf1001, 0, 3, 0, 0, 0, 7, 0] ++ bytesOf [256, 5, 1, 0, 0, 0, 0, 0] ++ bytesOf [2, 0, 0, 0, 0, 0, 0, 0]))) } 0
  { st := .running, head := some (hd 0), frames := [{ origin := bellBeats, passed := [1] }], started := true }

/-- The same with END stamped at tick 7. -/
def cEndS : Chip := { cEnd with crib := cEnd.crib.write 0x10040 (bytesOf [2 + 256, 7, 1, 0, 0, 0, 0, 0]) }

theorem witness_complete_stamped : (cEndS.entry 0 2).op = Op.end_ ∧ (cEndS.entry 0 2).stamp = true ∧ (cEndS.steps 0 none).firstDue 0 = none := by decide +kernel

theorem witness_complete_stead :
    (let d := cEnd.steps 0 none
     (cEnd.ctx 0).flight 2 = none ∧ 0 < 2 ∧ (d.ctx 0).head = some (hd 0) ∧ (d.ctx 0).st = .running ∧ (d.ctx 0).inFlight = [] ∧ d.firstDue 0 = none ∧
     2 + 1 = (hd 0).entryCount ∧ (d.entry 0 2).op = Op.end_ ∧ (d.entry 0 2).stamp = false ∧ (d.ctx 0).bellWait = none) := by decide +kernel

/-- Entries of context 0 at the end of their occupancy, and a fence. -/
def occ (w : List Nat) (late : Bool) : Chip := withCtx cR 0 { st := .running, head := some (hd 1), inFlight := [isd w late] }
def wFen : List Nat := [Op.fence, 0, 0, 0, 0, 0, 0, 0]
def wFen1 : List Nat := [Op.fence + 0x1000, 0, 0, 0, 0, 0, 0, 0]

theorem witness_occupancy : ((occ wEw false).ctx 0).flight 0 = some (isd wEw false) ∧ (isd wEw false).e.inSlot = true ∧
    (let b := (occ wEw false).advanceTo 63; b.mirrorNew (b.doWork 0 (isd wEw false)) = [] ∧ (((b.doWork 0 (isd wEw false)).leaveUnit 0 (isd wEw false)).ctx 0).inFlight = []) ∧
    (isd wMove false).e.inSlot = false ∧ (isd wMove false).e.isCombine = false ∧ (isd wFen1 false).e.subop = 1 ∧ (isd wFen false).e.subop = 0 ∧
    ((occ wFen true).ctx 0).flight 0 = some (isd wFen true) := by decide +kernel

/-- Context 2 runs in the shift of its instance; context 0 is ADMITTED with its table mapped. -/
def cFill : Chip := { cA2 .running with thr := { shift := some ⟨0, 0, 0, 2 ^ 30, []⟩ } }
def cFill0 : Chip := cEnd.onCtx 0 (fun x => { x with st := .admitted })

theorem witness_cache_fill : (cFill.ctx 2).head = some (hd 0) ∧ 2 ≤ 2 ∧ 0 < 1 ∧ 1 < (hd 0).entryCount ∧ cFill.shiftInst = some 0 ∧
    Table.find? 1 (cFill.ctx 2).cached = none ∧ (cFill.ctx 2).st = .running ∧ cFill.tableOk (ctxSpace 2) (cFill.entryVa 2 1) 32 = true ∧
    (hd 0).entryCount ≤ 3 ∧ (cFill0.ctx 0).st = .admitted ∧ Table.find? 1 (cFill0.ctx 0).cached = none ∧ (cA2 .running).shiftInst = none := by decide +kernel

def cThr (t : Thr) : Chip := { cR with thr := t }
def shf (r : List Nat) (stop : Nat) : Shift := ⟨0, 0, 0, stop, r⟩
/-- A shift of instance 0 before a start bell at bell 1. -/
def cDead : Chip := { withCtx cR 0 { st := .admitted, startBell := some 1 } with thr := { shift := some (shf [] (2 ^ 30)) } }

/-- Instance 0 in service with an almanac that runs: the next shift is its own; with admitted settings and a slice to place. -/
def cNext : Chip := { (withCtx tab 2 { st := .running, head := some (hd 0) }).wr F.INS_STATUS_STATE 1 0 with thr := { admitted := some [(0, { quantum := 60 })] } }
def cNext1 : Chip := { cNext with allot := [(0, [.blank])] }

theorem witness_shift_boundary : ((cNext.accrue.onThr (fun t => { t with active := [(0, { quantum := 60 })], admitted := none })).chooseInst) = some 0 ∧ cNext.windowEnd 0 = none ∧
    cNext.thr.shift = none ∧ cNext.isOpen = true ∧ cNext.hold.held = false ∧ (cNext1.slices 0).length = 1 := by decide +kernel

theorem witness_shifts : (shf [1] 0).restore ≠ [] ∧ (cThr { shift := some (shf [1] 0) }).thr.shift = some (shf [1] 0) ∧
    (cThr { window := some 9 }).inWindow = true ∧ ({ cThr { window := some 9 } with mst := .safe } : Chip).accrue.mst = .safe ∧
    cDead.thr.shift = some (shf [] (2 ^ 30)) ∧ (cDead.spillDeadline 0).any (fun d => d < 2 ^ 30) = true ∧ cR.thr.shift = none ∧
    (cThr { shift := some (shf [1, 2] 0) }).freeSlices ≠ [] ∧ at_ cR F.THR_SHIFT_CMD_APPLY = true ∧ cR.thr.applying = none ∧
    firstOver (0, 1) [(0, { share := 10 })] = none ∧ firstOver (0, 1) [(0, { share := 500 }), (3, { share := 600 })] = some 3 := by decide +kernel

/-- A CHAFF_CLEAR of every descriptor, of one that is not named, and one under way with a range to clear. -/
def cAll : Chip := (cA0 .loaded).wr F.ARI_CHAFF_DESC_ALL 1
def cClear : Chip := { (mapped cR 512).wr F.ARI_CHAFF_STATUS_BUSY 1 with chaffClear := [(0x10000, 8)] }

theorem witness_chaff : at_ cR F.ARI_CHAFF_CMD_CLEAR = true ∧ cR.chaffBusy = false ∧ (cR.ctx 0).st = .empty ∧ ((cA0 .running).ctx 0).st = .running ∧
    at_ (cA0 .running) F.ARI_CHAFF_CMD_CLEAR = true ∧ (cAll.ctx 0).st = .loaded ∧ (cAll.ctx 1).st = .empty ∧ cAll.on F.ARI_CHAFF_DESC_ALL = true ∧
    (cA0 .loaded).chaffNamed = [] ∧ cClear.chaffBusy = true ∧ cR.reaches 0x3FC F.ARI_CHAFF_CMD_CLEAR 0 0 = true := by decide +kernel

end Alm

namespace Memo

/-- Stack 3 in service, out of service, and out of service while it trains. -/
def cIn : Chip := cR.wr F.GLB_SVC_CRB_STACKS 0xfff
def cOut : Chip := cR.wr F.GLB_SVC_CRB_STACKS 0xff7
def cTrn : Chip := cOut.wr F.CRB_STATUS_TRAINING 1 3

/-- Page 2 of the granary in service, out of service, and with channel 9 in a training that the cache serves or that FORCE_FULL asked for. -/
def gIn : Chip := cR.wr F.GLB_SVC_GRN_CHANNELS 0xffffffff
def gOut : Chip := cR.wr F.GLB_SVC_GRN_CHANNELS 0xfffff0ff
def gTrn : Chip := { gOut.wr F.GRN_CH_STATUS_TRAINING 1 2 0 1 with trainCache := [(25, gOut.trainEnt)] }
def cForced : Chip := { (cTrn.wr F.CRB_CTRL_FORCE_FULL 1 3) with trainWhy := [(3, .forced)] }

theorem witness_memory_units : at_ cIn F.CRB_CTRL_OUT 3 = true ∧ cIn.stackUp 3 = true ∧ at_ cOut F.CRB_CTRL_OUT 3 = true ∧ cOut.stackUp 3 = false ∧
    cOut.training (.stack 3) = false ∧ cTrn.training (.stack 3) = true ∧ cTrn.fastOk (.stack 3) = false ∧ cTrn.unitPresent (.stack 3) = true ∧
    at_ gIn F.GRN_CTRL_OUT 2 = true ∧ gIn.memUp (.page 2) = true ∧ at_ gOut F.GRN_CTRL_OUT 2 = true ∧ gOut.memUp (.page 2) = false ∧
    (MemUnit.page 2).units.any gOut.training = false ∧ gTrn.training (.channel 9) = true ∧ gTrn.fastOk (.channel 9) = true ∧
    Table.find? (TrainUnit.stack 3).no cForced.trainWhy = some .forced := by
  decide +kernel

def wk (stale : Bool) : Walk := { space := 0, va := 0, acs := .read, requester := 1, stall := false, waiter := .none, stale := stale }
def cWalk (stale : Bool) : Chip := { mapped cR 0 with walks := [wk stale] }

theorem witness_walks : cR.cachedLeaf 0 0 = none ∧ cR.walks.length < 64 ∧ 64 ≤ ({ cR with walks := List.replicate 64 (wk true) } : Chip).walks.length ∧
    cR.walks = [] ∧ (cWalk true).walks = [wk true] ∧ (wk true).stale = true ∧ (wk false).stale = false ∧
    ((cWalk false).walk 0 0).any (fun e => match e.1.res 0 .read with | .ok _ _ _ => true | _ => false) = true := by decide +kernel

def rq (stalled : Bool) (id : Nat) : FReq := ⟨0x10000, .read, 0, stalled, 1, 3, 1, 0, 0, 0, 0, [], id, 5⟩
/-- A fault request waits in space 2, whose queue is on; or none does. -/
def cFq (l : List FReq) : Chip := ((cR.wr F.XLT_SPACE_CTRL_FQ_EN 1 0 2).wr F.XLT_SEL_SPACE 2).setSpace 2 { queue := l, nextId := 65535 }
def cFqP : Chip := ((cFq []).wr F.XLT_FQ_PROD_INDEX 3 0 2).wr F.XLT_FQ_SIZE_LOG2 4 0 2

theorem witness_fault_queue : ((cFq [rq true 0]).space 2).queue = [rq true 0] ∧ (cFq [rq true 0]).on F.XLT_SPACE_CTRL_FQ_EN 0 2 = true ∧
    (cFq [rq true 0]).fqFull 2 = false ∧ ((cFq [rq true 0]).fqRefill 2).rd F.XLT_FQ_PROD_INDEX 0 2 = 0 ∧ (((cFq [rq true 0]).fqRefill 2).space 2).queue = [rq true 0] ∧
    ((cFq []).space 2).queue = [] ∧ (cFq []).prefetches.any (fun p => p.space == 2) = false ∧ at_ cFqP F.XLT_FQ_CONS_INDEX = true ∧
    subMod 32 (cFqP.rd F.XLT_FQ_PROD_INDEX 0 2) 2 ≤ 2 ^ cFqP.rd F.XLT_FQ_SIZE_LOG2 0 2 ∧
    subMod 32 (cFqP.rd F.XLT_FQ_PROD_INDEX 0 2) 2 ≤ subMod 32 (cFqP.rd F.XLT_FQ_PROD_INDEX 0 2) (cFqP.rd F.XLT_FQ_CONS_INDEX 0 2) ∧
    subMod 32 (cFqP.rd F.XLT_FQ_PROD_INDEX 0 2) (cFqP.rd F.XLT_FQ_CONS_INDEX 0 2) < subMod 32 (cFqP.rd F.XLT_FQ_PROD_INDEX 0 2) 9 := by decide +kernel

/-- A written request of space 2 awaits its reply. -/
def cOpen : Chip := cR.setSpace 2 { opened := [rq true 7] }

theorem witness_fault_replies : 2 < 513 ∧ at_ cOpen F.XLT_FQ_REPLY_ACTION = true ∧ (cOpen.space 2).opened.find? (fun r => r.id == 7) = some (rq true 7) ∧
    (cOpen.space 2).opened.find? (fun r => r.id == 8) = none ∧ (cOpen.space 2).opened = [rq true 7] ∧ at_ cR F.XLT_FQ_REPLY_ACTION = true ∧
    (cR.space 2).opened = [] := by decide +kernel

def iv (n : Nat) : Inval := ⟨n, 0, true, 0, 0⟩
def cInv (k : Nat) : Chip := { mapped cR 0 with invals := List.replicate k (iv 4), xcache := [⟨0, 3, 0, 0x5f, false⟩, ⟨1, 3, 0, 0x5f, false⟩] }

theorem witness_invalidates : at_ (cInv 16) F.XLT_INV_CMD_GO = true ∧ 16 ≤ (cInv 16).invals.length ∧ at_ (cInv 1) F.XLT_INV_CMD_GO = true ∧
    (cInv 1).invals.length < 16 ∧ cR.invals = [] ∧ (cInv 1).invals = [iv 4] ∧ (iv 4).seq < 65536 ∧ ((cInv 1).space (iv 4).space).hints = [] := by decide +kernel

theorem witness_pool_prod : at_ cR F.XLT_POOL_PROD_INDEX = true ∧ subMod 32 0 (cR.rd F.XLT_POOL_CONS_INDEX 0 0) ≤ 0 ∧
    0 < subMod 32 5 (cR.rd F.XLT_POOL_CONS_INDEX 0 0) := by decide +kernel

/-- A PREFETCH of the manager's to the granary: of one page that is mapped, and of none. -/
def wPre : List Nat := [0x18, 1, 0, 0, 0x10000, 0, 0, 0, 0, 0, 0, 0, 0, 0, 0, 0]
def ePre : Wqe := ⟨0, wPre, false, 0, false, none, 0⟩
def pPre : Prefetch := ⟨512, 0, 1, 0, some .grn, 0, 0, false⟩
def cPre : Chip := (adm (deep cR 512) wPre).wr F.XLT_POOL_SIZE_LOG2 4 0 (poolBank 512 1)
def cEnd1 : Chip := { deep cR 512 with prefetches := [{ pPre with next := 1 }], admWait := [(512, .prefetch)] }
def wHint (h clear : Nat) : List Nat := [0x19, h + 4 * clear + 0x720, 0, 0, 0x10000, 0, 0, 0, 0, 0, 0, 0, 0, 0, 0, 0]
def cPw (waiting : Bool) : Chip := { deep cR 512 with prefetches := [{ pPre with waiting := waiting }], admWait := [(512, .prefetch)] }
def wAdv : List Nat := [0x19, 1, 0, 0, 0x10000, 0, 0, 0, 0, 0, 0, 0, 0, 0, 0, 0]
/-- 256 ranges of hints. -/
def cAdv : Chip := adm (cR.setSpace 512 { hints := (List.range 256).map (fun k => { lo := 4 * k + 8, hi := 4 * k + 10, readMostly := true }) }) wAdv

theorem witness_prefetch : cPre.admHead 512 = some ePre ∧ ePre.op = 0x18 ∧ ePre.admRsv = false ∧ destOf (ePre.w 1) = some (some .grn) ∧
    cPre.prefetchBad pPre 0x10000 = none ∧ (adm cR wPre).admHead 512 = some ePre ∧ (adm cR wPre).prefetchBad pPre 0x10000 = some 9 ∧
    (cPw true).prefetches.find? (fun p => p.space == 512) = some { pPre with waiting := true } ∧ (cPw true).framesReady { pPre with waiting := true } = false ∧ cEnd1.prefetches.find? (fun p => p.space == 512) = some { pPre with next := 1 } ∧
    (cPw false).prefetches.find? (fun p => p.space == 512) = some pPre ∧ pPre.waiting = false ∧ pPre.next < pPre.pages ∧
    (cPw false).destTier pPre (pageVa pPre pPre.next) = some .grn ∧ cR.prefetches.find? (fun p => p.space == 512) = none := by decide +kernel

theorem witness_advise_runs : (adm (deep cR 512) (wHint 2 0)).admHead 512 = some ⟨0, wHint 2 0, false, 0, false, none, 0⟩ ∧
    (⟨0, wHint 2 0, false, 0, false, none, 0⟩ : Wqe).admRsv = false ∧ (⟨0, wHint 2 0, false, 0, false, none, 0⟩ : Wqe).op = 0x19 ∧
    (mergeHints ((adviseGo (hintChange 2 false 2 7) 0 1 []).filter (fun h => !h.none))).length ≤ 256 := by decide +kernel

theorem witness_advise : cAdv.admHead 512 = some ⟨0, wAdv, false, 0, false, none, 0⟩ ∧ (⟨0, wAdv, false, 0, false, none, 0⟩ : Wqe).admRsv = false ∧
    256 < (mergeHints ((adviseGo (hintChange 1 false 0 0) 0 1 (cAdv.space 512).hints).filter (fun h => !h.none))).length := by decide +kernel

def cQ3 : Chip := (cR.wr F.LFT_SEL_INSTANCE 3).wr F.LFT_SPILL_BASE 5 0 3
def cQ3q : Chip := cQ3.wr F.LFT_QUOTA_QUOTA 7 0 3

theorem witness_loft_quota : at_ cQ3 F.LFT_QUOTA_QUOTA = true ∧ 100 ≠ cQ3.rd F.LFT_QUOTA_QUOTA 0 3 ∧ (cQ3.ctx 5).st.idle = true ∧ cQ3.rd F.LFT_SPILL_BASE 0 3 ≠ 0 ∧
    cQ3.loftQuotaOthers 3 + 100 ≤ 384 ∧ 384 < ({ cQ3 with allot := [(4, [])] }.wr F.LFT_QUOTA_QUOTA 300 0 4).loftQuotaOthers 3 + 100 ∧
    at_ cQ3 F.LFT_SPILL_BASE = true ∧ cQ3.rd F.LFT_QUOTA_QUOTA 0 3 = 0 ∧ cQ3q.rd F.LFT_QUOTA_QUOTA 0 3 ≠ 0 ∧ 9 ≠ cQ3q.rd F.LFT_SPILL_BASE 0 3 := by decide +kernel

end Memo

namespace Clk

def mk : Mark := ⟨0, 0, 5, 0, 0, 1, 4, 0, 0, 0, 0, false⟩
def cTk : Chip := (cL.wr F.CLK_STATUS_LOCK Lock.timekeeper).onClk (fun x => { x with order := [5] })
def cFree : Chip := cL.onClk (fun x => { x with order := [5], upstreams := [3] })

def cUpst (l : Nat) : Chip := ((cR.wr F.CLK_STATUS_UP_VALID 1).wr F.CLK_STATUS_UPSTREAM 3).wr F.CLK_STATUS_LOCK l
/-- Link 3 UP is the upstream of a LOCKED module. -/
def cUp3 : Chip := (lk (cUpst Lock.locked) 3 LinkSt.up).onClk (fun x => { x with order := [5], upstreams := [3] })
/-- Link 3 in service has an end without a position. -/
def cLim : Chip := lk cR 3 LinkSt.up { limited := true }

theorem witness_marks : cR.hasLink 3 = true ∧ cR.inService 3 = false ∧ cLim.hasLink 3 = true ∧ cLim.inService 3 = true ∧ cLim.posLimited 3 = true ∧
    cTk.hasLink 3 = true ∧ cTk.inService 3 = true ∧ cTk.posLimited 3 = false ∧ cTk.upstream = none ∧
    cTk.clk.running = false ∧ mk.holdBell = 0 ∧ mk.resumeBell = 0 ∧ cTk.clk.order.contains mk.tkId = true ∧ cTk.lock = Lock.timekeeper ∧
    cFree.hasLink 3 = true ∧ cFree.inService 3 = true ∧ cFree.posLimited 3 = false ∧ cFree.upstream = none ∧ cFree.clk.running = false ∧
    cFree.clk.order.contains mk.tkId = true ∧ cFree.lock = Lock.free ∧ cFree.rd F.CLK_STATUS_STEPPED = 0 ∧ cFree.clk.upstreams = [3] ∧ mk.state = Lock.timekeeper ∧ mk.depth ≤ 5 ∧
    cUp3.hasLink 3 = true ∧ cUp3.inService 3 = true ∧ cUp3.posLimited 3 = false ∧ cUp3.clk.running = false ∧ cUp3.clk.order.contains mk.tkId = true ∧
    cUp3.upstream = some 3 ∧ cUp3.fitMark mk = true ∧ mk.surveyEpoch = cUp3.clk.epoch ∧ mk.surveyModules = 0 ∧
    cUp3.rd F.CLK_LINK_ASYM_ASYM 0 3 = Table.getD cUp3.clk.asym 3 0 ∧ (cUp3.markError 3 mk 64).natAbs ≤ 512 ∧ cUp3.lock = Lock.locked ∧
    cUp3.fitMark { mk with depth := 6 } = false := by decide +kernel

def cAcq : Chip := ({ cR with beat := 9000 }.wr F.CLK_STATUS_LOCK Lock.acquiring).onClk (fun x => { x with lastErr := 640 })
def cHo : Chip := (cR.wr F.CLK_STATUS_LOCK Lock.holdover).wr F.CLK_HOLDOVER_BELLS 2049
/-- A module whose list names it the first timekeeper, and the second. -/
def cTko (o : List Nat) (b : Nat) : Chip := ((cR.wr F.GLB_POSITION_POSITION_VALID 1).wr F.GLB_POSITION_MODULE_ID 5).onClk (fun x => { x with order := o, freeBells := b })

theorem witness_lock : (cUpst Lock.locked).upstream = some 3 ∧ (cUpst Lock.locked).inService 3 = false ∧ (cUpst Lock.locked).lock = Lock.locked ∧
    (cUpst Lock.acquiring).upstream = some 3 ∧ (cUpst Lock.acquiring).inService 3 = false ∧ (cUpst Lock.acquiring).lock = Lock.acquiring ∧ (cUpst Lock.acquiring).rd F.CLK_STATUS_STEPPED = 0 ∧
    cUp3.inService 3 = true ∧ cUp3.upstream = some 3 ∧ cUp3.marksMissing 3 = false ∧ ({ cUp3 with beat := 2 * bellBeats } : Chip).marksMissing 3 = true ∧
    cAcq.lock = Lock.acquiring ∧ cHo.lock = Lock.holdover ∧ 2049 ≤ cHo.rd F.CLK_HOLDOVER_BELLS ∧
    cHo.clk.limitRaised = false ∧ cHo.hold = {} ∧ cR.rd F.CLK_HOLDOVER_BELLS ≤ 2048 ∧ (cTko [5] 4).tkRankOf = some 0 ∧ (cTko [5] 4).lock = Lock.free ∧
    (∀ k ∈ (cTko [5] 4).clk.upstreams, (cTko [5] 4).adoptable k = false) ∧ 4 ≤ (cTko [5] 4).clk.freeBells ∧ (cTko [5] 4).rd F.CLK_STATUS_STEPPED = 0 ∧
    (cTko [5] 4).clk.heardTk = false ∧ (cTko [9, 5] 4).tkRankOf = some 1 ∧ 2 + 2 * 1 ≤ (cTko [9, 5] 4).clk.freeBells ∧
    (cTko [9] 4).tkRankOf = none := by decide +kernel

def sv (n : Nat) : LinkSurvey := { waiting := [(7, 100)], sent := 64, samples := List.replicate n 1700 }
def cSv (n : Nat) : Chip := cL.onClk (fun x => { x with surveys := [(3, sv n)] })
/-- The timekeeper of a stead of four, with a position. -/
def cTk4 : Chip := ((cTk.wr F.CLK_STEAD_SIZE_EXPECTED 4).wr F.GLB_POSITION_POSITION_VALID 1).wr F.CLK_LINK_DELAY_VALID 1 0 3

theorem witness_surveys : at_ cL F.CLK_CTRL_SURVEY_GO = true ∧ cL.isTk = false ∧ at_ cTk4 F.CLK_CTRL_SURVEY_GO = true ∧ cTk4.isTk = true ∧
    (∀ e ∈ cTk4.clk.marks, e.2.surveyEpoch ≠ (cTk4.clk.epoch + 1) % 65536) ∧ 1 < cTk4.rd F.CLK_STEAD_SIZE_EXPECTED ∧ at_ cTk4 F.CLK_CTRL_RESURVEY = true ∧
    cTk4.posValid = true ∧ 3 ∈ cTk4.linksUp ∧ cTk4.posLimited 3 = false ∧ cTk4.rd F.CLK_LINK_DELAY_VALID 0 3 = 1 ∧
    at_ cR F.CLK_CTRL_RESURVEY = true ∧ cR.linksUp = [] ∧ cL.hasLink 3 = true ∧ cL.inService 3 = true ∧ cL.posLimited 3 = false ∧
    Table.find? 3 (cSv 2).clk.surveys = some (sv 2) ∧ (sv 2).waiting.find? (fun w => w.1 == 7) = some (7, 100) ∧ (sv 2).samples.length < 63 ∧
    (sv 63).samples.length = 63 ∧ (cSv 63).clk.running = false ∧
    Table.find? 3 cL.clk.surveys = none ∧ (cTk.onClk (fun x => { x with running := true })).isTk = true ∧
    (cTk.onClk (fun x => { x with running := true })).clk.running = true := by decide +kernel

def cHeld (h : HoldSt) : Chip := (((lk (lk cR 3 LinkSt.up) 5 LinkSt.up).onHold (fun _ => h)).wr F.CLK_STATUS_UP_VALID 1).wr F.CLK_STATUS_UPSTREAM 5
def run0 (s : AlmState) (h : HoldSt) : Chip := withCtx (cHeld h) 0 { st := s, head := some (hd 0), frames := [{ origin := 5 }], started := true }
def cSvTk (h : HoldSt) (n : Nat := 2) : Chip := ((lk cTk 5 LinkSt.up).onHold (fun _ => h)).onClk (fun x => { x with tkBells := n })

theorem witness_hold : (cHeld {}).hasLink 3 = true ∧ (cHeld {}).inService 3 = true ∧ (cHeld {}).posLimited 3 = false ∧ (cHeld {}).hold.seen.contains (9, 1) = false ∧
    (cHeld {}).hold.bell = none ∧ (cHeld {}).hold.resume = none ∧ (cHeld {}).hold.held = false ∧ (cHeld {}).isTk = false ∧ 5 ∈ (cHeld {}).linksUp ∧
    (cSvTk {}).hasLink 3 = true ∧ (cSvTk {}).inService 3 = true ∧ (cSvTk {}).isTk = true ∧ (cSvTk {}).hold.bell = none ∧ (cSvTk {}).upstream = none ∧
    (lk (cHeld {}) 3 LinkSt.up { seenCopy := [(.hold 9 1 0, 0)] }).heardCopy 3 (.hold 9 1 0) = true ∧
    (cHeld { seen := [(9, 1)] }).hold.seen.contains (9, 1) = true ∧ (cHeld {}).upstream = some 5 ∧ (cHeld {}).posLimited 5 = false ∧
    (cSvTk { bell := some 1, now := { origins := [(9, false)] } }).hold.bell = some 1 ∧ (cSvTk {}).rd F.CMB_SUBST_ACTIVE = 0 ∧ 2 ≤ (cSvTk {}).clk.tkBells ∧
    (cSvTk { bell := some 1 }).hold.resume = none ∧ (cHeld { bell := some 1 }).hold.bell = some 1 ∧
    (cHeld { bell := some 1 }).hold.seenResume.contains (1, 4) = false ∧ (cHeld { bell := some 1, seenResume := [(1, 4)] }).hold.seenResume.contains (1, 4) = true ∧
    (6, 4) ∈ (cHeld { bell := some 1, seen := [(6, 4)] }).hold.seen ∧ ((run0 .running { bell := some 1 }).ctx 0).st = .running ∧
    (run0 .held { bell := some 1, held := true, resume := some 4 }).hold.resume = some 4 ∧
    ((run0 .held { bell := some 1, held := true, resume := some 4 }).ctx 0).st = .held := by decide +kernel

end Clk

namespace Agl

def fr (vc n : Nat) : LFrame := ⟨vc, 1, 5, 9, false, 0, 0, List.replicate n 0⟩
def ctl (m : CtlMsg) : CtlEnt := ⟨m, 0, 0⟩
/-- A frame with credit is queued on VC0 of link 3. -/
def cVc0 : Chip := lk cR 3 LinkSt.up { txq := [(fr 0 40, none)], limit := [9, 0, 0, 0, 0, 0, 0] }
def cOwe : Chip := lk cR 3 LinkSt.up { ackOwed := true, creditOwed := true, freed := [0, 1, 2, 3, 4, 5, 6] }
def cCtl : Chip := lk cR 3 LinkSt.up { ctlq := [ctl (.surveyReq 1 2)] }

theorem witness_flit_slots : cCtl.hasLink 3 = true ∧ cCtl.linkState 3 = LinkSt.up ∧ (cCtl.link 3).ctlq = [ctl (.surveyReq 1 2)] ∧
    (ctl (.surveyReq 1 2)).notBefore ≤ (cCtl.link 3).slot + 1 ∧ (CtlMsg.surveyReq 1 2).unlimited = true ∧ cVc0.mst ≠ .safe ∧ cVc0.mute = false ∧ (cVc0.link 3).ctlq = [] ∧
    (cVc0.link 3).cur = [] ∧ (cVc0.link 3).resend = [] ∧ (cVc0.link 3).replay.length < 512 ∧ cVc0.headFrame 3 0 = some (fr 0 40, none) ∧ (cL.link 3).txq = [] ∧
    cR.linkState 3 = LinkSt.down ∧ cOwe.inService 3 = true ∧ (cOwe.link 3).ackOwed = true ∧ (cL.link 3).ackOwed = false ∧ cR.inService 3 = false := by decide +kernel

/-- The slots of a frame of VC0–VC6. -/
def slotsOf (f : LFrame) (lseq ack : Nat) (lost : Bool := false) : List Slot :=
  ((flitBytes f.flits (f.wire lseq ack)).zip (1 :: List.replicate (f.flits - 1) 2)).map (fun x => ⟨x.2, lost, x.1⟩)
/-- The slot of a control message. -/
def ctlSlot (m : CtlMsg) (ack : Nat) : Slot := ⟨3, false, m.wire 0 9 0 ack⟩
def lNak : Link := { nakSent := true, expect := 4 }
def lPl (vc : Nat) (placed old : Bool) : Link := { rx := [⟨fr vc 40, placed, false, old⟩] }
def cRx (l : Link) : Chip := lk cR 3 LinkSt.up l
/-- Module 5 with column link 15 in service too. -/
def cCol : Chip := (lk cL 15 LinkSt.up).wr F.GLB_POSITION_MODULE_ID 5

theorem witness_frames : cCol.hasLink 3 = true ∧ cCol.inService 3 = true ∧ slotsOf (fr 1 100) 0 0 ≠ [] ∧
    (∀ x ∈ slotsOf (fr 1 100) 0 0, x.kind = FlitKind.head ∨ x.kind = FlitKind.body) ∧ (∀ x ∈ slotsOf (fr 1 100) 0 0, x.lost = false) ∧
    LFrame.parse ((slotsOf (fr 1 100) 0 0).flatMap (·.bytes)) = some (0, 0, fr 1 100) ∧ (fr 1 100).vc < 7 ∧ subMod 16 0 (cCol.link 3).expect = 0 ∧ cCol.mst ≠ .safe ∧
    roleCarries (cCol.linkRole 3) 1 = true ∧ cCol.posLimited 3 = false ∧ (fr 1 100).dest = cCol.modId ∧ roleCarries (cCol.linkRole 3) 2 = false ∧ cCol.linkRole 3 = 0 ∧
    seatOf 0x15 = seatOf cCol.modId ∧ rickOf 0x15 ≠ rickOf cCol.modId ∧ cCol.inService (colLink (rickOf cCol.modId) (rickOf 0x15)) = true ∧
    32768 ≤ subMod 16 3 (lNak.expect) ∧ 0 < subMod 16 3 (cCol.link 3).expect ∧ subMod 16 3 (cCol.link 3).expect < 32768 ∧ (cCol.link 3).nakSent = false := by decide +kernel
theorem witness_frames_fail : (∃ x ∈ slotsOf (fr 1 100) 0 0 true, x.lost = true) ∧ (ctlSlot (.credit [1, 2, 3, 4, 5, 6, 7]) 0).kind = FlitKind.control ∧
    (LFrame.parse (ctlSlot (.credit [1, 2, 3, 4, 5, 6, 7]) 0).bytes).map (fun x => (x.2.2.vc, CtlMsg.ofPayload x.2.2.typ x.2.2.payload)) =
      some (7, some (.credit [1, 2, 3, 4, 5, 6, 7])) ∧ CtlMsg.ofPayload 31 [] = none ∧ (cRx {}).rxHead (cRx {}).unheld (.link 3) = none ∧
    ((cRx (lPl 2 true false)).link 3).rx.find? (fun r => r.frame.vc == 2 && r.placed) = some ⟨fr 2 40, true, false, false⟩ ∧
    ((cRx (lPl 2 true true)).link 3).rx.find? (fun r => r.frame.vc == 2 && r.placed) = some ⟨fr 2 40, true, false, true⟩ ∧
    ((cRx {}).link 3).rx.find? (fun r => r.frame.vc == 2 && r.placed) = none ∧ (fr 3 40).plain = true := by decide +kernel

def rf (n replays : Nat) : RFrame := ⟨n, fr 2 40, none, replays, 100⟩
def cRp (l : List RFrame) : Chip := lk cR 3 LinkSt.up { replay := l }

theorem witness_ack : (cRp [rf 65535 0, rf 0 0]).hasLink 3 = true ∧ (cRp [rf 65535 0, rf 0 0]).inService 3 = true ∧ ((cRp [rf 65535 0, rf 0 0]).link 3).replay = [rf 65535 0, rf 0 0] ∧
    (rf 65535 0).lseq < 65536 ∧ 0 = ((rf 65535 0).lseq + 1) % 65536 ∧ 2 < subMod 16 9 (rf 65535 0).lseq ∧
    32768 ≤ subMod 16 (rf 65535 0).lseq 9 ∧ (cRp [rf 65535 0, rf 0 0]).heardCopy 3 (.nak 65535) = false ∧ (rf 65535 0).replays < 16 ∧ (cRp [rf 4 16]).linkState 3 = LinkSt.up ∧
    16 ≤ (rf 4 16).replays ∧ (cL.link 3).replay = [] := by decide +kernel

theorem witness_training : cR.hasLink 3 = true ∧ cR.linkState 3 = LinkSt.down ∧ cL.linkState 3 = LinkSt.up ∧ 0 < 4 ∧
    (lk cR 3 LinkSt.training).linkState 3 = LinkSt.training ∧ (lk cR 3 LinkSt.failed).linkState 3 = LinkSt.failed ∧
    (lk cR 3 LinkSt.failed).rd F.AGL_STATUS_CAUSE 3 ≠ 5 ∧ ((lk cR 3 LinkSt.failed).wr F.AGL_STATUS_CAUSE 5 3).rd F.AGL_STATUS_CAUSE 3 = 5 := by decide +kernel

def pm : PeerMsg := ⟨7, 3, true, false, 1, [1, 1, 1, 1, 1, 1, 1]⟩
def cPc : Chip := lk cR 3 LinkSt.peerCheck
/-- The link expects module 9. -/
def cPx : Chip := (((cPc.wr F.GLB_POSITION_POSITION_VALID 1).wr F.AGL_EXPECT_CHECK_EN 1 3).wr F.AGL_EXPECT_PEER_MODULE 9 3).wr F.AGL_EXPECT_PEER_LINK 11 3
def cPcHeard : Chip := lk cR 3 LinkSt.peerCheck { seenCopy := [(.peer pm, 0)] }

theorem witness_peers : cPc.hasLink 3 = true ∧ cPc.linkState 3 = LinkSt.peerCheck ∧ cPc.peerMatches 3 pm = true ∧ (cPc.link 3).peerEpoch ≠ some pm.epoch ∧ cPx.hasLink 3 = true ∧
    cPx.linkState 3 = LinkSt.peerCheck ∧ cPx.peerMatches 3 pm = false ∧ cL.inService 3 = true ∧ cL.on F.AGL_PEER_POS_VALID 3 ≠ pm.posValid ∧
    cPcHeard.heardCopy 3 (.peer pm) = true ∧ cPc.heardCopy 3 (.peer pm) = false ∧ cPc.rd F.AGL_PEER_VALID 3 = 0 ∧ (cPc.wr F.AGL_PEER_VALID 1 3).rd F.AGL_PEER_VALID 3 = 1 ∧
    cR.linkState 3 = LinkSt.down := by decide +kernel

def cGood (n : Nat) (state : Nat := LinkSt.up) : Chip := lk cR 3 state { good := n }
/-- Seven bad codewords of pair B. -/
def cSeven : Chip := lk cR 3 LinkSt.up { good := 3, uncorr := (List.range 7).map (fun i => (2, i)) }

theorem witness_shed : (cGood 3).hasLink 3 = true ∧ 2 < 4 ∧ (cGood 3).linkState 3 = LinkSt.up ∧ ((cGood 3).link 3).good = 3 ∧
    ((cGood (pairOf 2)).link 3).good = pairOf 2 ∧ (cSeven.link 3).good = 3 ∧ 7 ≤ ((cSeven.link 3).uncorr.filter (fun u => u.1 == 2 && decide (9 < u.2 + 1024))).length ∧
    cR.linkState 3 = LinkSt.down ∧ (cR.link 3).uncorr = [] ∧ (cGood 3).inService 3 = true ∧ (cGood 3).heardCopy 3 (.shed true) = false ∧
    ((cGood 1).link 3).good = 1 ∧ (cGood 1 LinkSt.retraining).linkState 3 = LinkSt.retraining := by decide +kernel

theorem witness_link_registers : 3 < 32 ∧ 2 < 7 ∧ 2000 < 2 ^ 15 ∧ at_ cL F.AGL_CTRL_DISABLE 3 = true ∧ cL.inService 3 = true ∧
    at_ (lk cR 3 LinkSt.disabled) F.AGL_CTRL_DISABLE 3 = true ∧ (lk cR 3 LinkSt.disabled).linkState 3 = LinkSt.disabled ∧ at_ cL F.AGL_CTRL_RETRAIN 3 = true ∧
    cL.linkPresent 3 = true ∧ cL.linkState 3 ≠ LinkSt.disabled ∧ at_ cR F.AGL_VC_CFG_BUF 3 = true ∧ cR.linkState 3 = LinkSt.down ∧
    ((List.range 7).map (fun i => if i = 2 then 500 else cR.rd F.AGL_VC_CFG_BUF 3 i)).sum ≤ 16384 ∧
    16384 < ((List.range 7).map (fun i => if i = 2 then 2000 else cR.rd F.AGL_VC_CFG_BUF 3 i)).sum ∧ at_ cL F.AGL_VC_CFG_BUF 3 = true ∧ cL.linkState 3 = LinkSt.up := by
  decide +kernel

def cShed (r : Option Restore) : Chip := (lk cR 3 LinkSt.up { good := 1, restore := r }).wr F.AGL_STATUS_SHED 1 3

theorem witness_restore : at_ (cShed none) F.AGL_CTRL_RESTORE 3 = true ∧ (cShed none).linkState 3 = LinkSt.up ∧ (cShed none).rd F.AGL_STATUS_SHED 3 = 1 ∧
    ((cShed none).link 3).restore = none ∧ at_ cL F.AGL_CTRL_RESTORE 3 = true ∧ cL.rd F.AGL_STATUS_SHED 3 = 0 ∧ (cShed none).hasLink 3 = true ∧ (cShed none).inService 3 = true ∧
    (cShed none).heardCopy 3 (.restore 0 0) = false ∧ (cShed none).heardCopy 3 (.restore 1 0) = false ∧ (cShed none).heardCopy 3 (.restore 2 0) = false ∧
    ((cShed (some { start := 9, own := true })).link 3).restore = some { start := 9, own := true } ∧
    ((cShed (some { start := 9, own := false, here := true })).link 3).restore = some { start := 9, own := false, here := true } ∧
    ((cShed (some { start := 9, own := false, join := some 2 })).link 3).restore = some { start := 9, own := false, join := some 2 } := by decide +kernel

theorem witness_quiet : cL.hasLink 3 = true ∧ cL.inService 3 = true ∧ (lk cR 3 LinkSt.up { seenCopy := [(.live, 0), (.quiet 9 4, 0)] }).heardCopy 3 .live = true ∧
    (lk cR 3 LinkSt.up { seenCopy := [(.live, 0), (.quiet 9 4, 0)] }).heardCopy 3 (.quiet 9 4) = true ∧ cL.hold.bell = none ∧ cL.beat < 4 * bellBeats ∧
    cL.hold.seen.contains (9, 4) = false := by decide +kernel

/-- A frame and a message whose fields fit. -/
def wireFrame : LFrame := ⟨3, 17, 200, 37, true, 0xABCD, 0x12345678, [1, 2, 3]⟩
theorem witness_wire : wireFrame.ok = true ∧ (CtlMsg.nak 65535).ok = true ∧ ({ wireFrame with typ := 32 } : LFrame).ok = false ∧ (CtlMsg.nak 65536).ok = false := by decide +kernel

end Agl

namespace Cmb

/-- Words of an FP32 tensor of three dimensions at an address of the crib; of a group of seats 0 and 1 of rick 0. -/
def dw (a d0 d1 : Nat) (d2 : Nat := 1) : List Nat := [a, 2 ^ 25, d0, d1, d2, 1, 4 * d0, 0, 4 * d0 * d1, 0, 0, 0, 0, 0, 64, 0]
def gw : List Nat := [0x10003, 1, 0x76543210, 0xFEDCBA98, 0x76543210, 0xFEDCBA98, 0, 0, 0, 0, 0, 0, 0, 0, 0, 0]
/-- A combine of an operation on channel 0, with a ring of ten slots, its chains and its slots. -/
def cb (op subop : Nat) (l : List Chain) (slots : List (Nat × RingSlot) := []) : Combine := {
  ctx := 0, idx := 1, words := [op + 4096 * subop + 256, 0, 0, 0, 0, 0, 0, 0], upd := [], descs := [dw 0x100000 1024 4, dw 0x110000 1024 1, dw 0x110000 1024 1, dw 0x120000 1024 4]
  group := gw, ring := dw 0x300000 1024 1 10, chaff := dw 0 1024 1, step := 0, chains := l, slots := slots }
def cCmb (op subop : Nat) (l : List Chain) (slots : List (Nat × RingSlot) := []) : Chip := { mapped cR 512 with cmb := [(0, cb op subop l slots)] }
/-- The same on the tenant channel. -/
def cTen (op subop : Nat) (l : List Chain) : Chip := { mapped cR 512 with cmb := [(1, cb op subop l)] }
/-- Sheaf `g` of position `pos`; a slot with what `who` sent for level `tag`. -/
def ch0 (g : Nat) (pos : Nat := 0) : Chain := { pos := pos, g := g }
def sl (tag who : Nat) (st : SlotSt := .ready) (g : Nat := 0) : RingSlot := { st := st, pos := 0, g := g, tag := tag, who := who }

theorem witness_chains : cR.comb 0 = none ∧ (cCmb Op.ar 0 []).comb 0 = some (cb Op.ar 0 []) ∧ (cb Op.ar 0 []).chain 0 0 = none ∧
    ((cCmb Op.ar 0 []).positionsOf (cb Op.ar 0 [])).contains 0 = true ∧ (cb Op.ar 0 []).grp.names 0 = true ∧ (cCmb Op.ar 0 []).ownStead (cb Op.ar 0 []).grp = true ∧
    0 < (cb Op.ar 0 []).total ∧ (cCmb Op.ar 0 []).opsInFlight + (cCmb Op.ar 0 []).pendingOps (cb Op.ar 0 []) (ch0 0) ≤ 4096 ∧ (cTen Op.ar 0 []).comb 1 = some (cb Op.ar 0 []) ∧
    (cTen Op.ar 0 []).combineOps (cb Op.ar 0 []) + (cTen Op.ar 0 []).pendingOps (cb Op.ar 0 []) (ch0 0) + (cTen Op.ar 0 []).opsKept ≤ 4096 ∧
    (cb Op.ar 1 [ch0 0]).chain 0 0 = some (ch0 0) ∧ (ch0 0).produced = false ∧ (cCmb Op.ar 1 [ch0 0]).makes (cb Op.ar 1 [ch0 0]) 0 0 = true ∧
    ((cCmb Op.ar 1 [ch0 0]).ownSlot (cb Op.ar 1 [ch0 0]) 0 0).isSome = true ∧ (cb Op.ar 1 [ch0 0]).e.reduces = true ∧ (cb Op.ar 1 [ch0 0]).ints = true := by decide +kernel
/-- A ring whose slots are all taken. -/
def full : List (Nat × RingSlot) := (List.range 10).map (fun k => (k, sl 1 1 .ready (k + 5)))
theorem witness_full : (cCmb Op.matmulRs 0 [ch0 0] full).ownSlot (cb Op.matmulRs 0 [ch0 0] full) 0 0 = none ∧ (cb Op.matmulRs 0 [ch0 0] full).waitFrom = none ∧
    4096 < (cCmb Op.ar 0 ((List.range 1400).map (fun g => ch0 (g + 1)))).opsInFlight := by decide +kernel

def xA : Chain := { pos := 0, g := 0, produced := true, anchors := some (List.replicate 32 130) }
def xIn : Chain := { pos := 0, g := 0, produced := true, win := [1] }
def in2 : List (Nat × RingSlot) := [(0, sl 1 0), (1, sl 1 1)]

theorem witness_floors : (cCmb Op.ar 1 [xA] [(0, sl 0 0)]).comb 0 = some (cb Op.ar 1 [xA] [(0, sl 0 0)]) ∧ (cb Op.ar 1 [xA] [(0, sl 0 0)]).chain 0 0 = some xA ∧
    xA.anchors.isSome = true ∧ xA.anchored = false ∧ xA.produced = true ∧
    ((cb Op.ar 1 [xA] [(0, sl 0 0)]).slots.find? (fun e => e.2.pos == 0 && e.2.g == 0 && e.2.who == 0 && e.2.st == .ready)).isSome = true ∧
    xIn.anchors = none ∧ xIn.floor = none ∧ (cb Op.ar 0 [xIn]).e.reduces = true ∧ (cb Op.ar 0 [xIn]).active 1 = true ∧
    (cCmb Op.ar 0 [xIn]).owns (cb Op.ar 0 [xIn]) 0 1 0 = true ∧ xIn.reducedLv.contains 1 = false ∧ (cCmb Op.ar 0 [xIn]).floorsBusy < 16 ∧ xIn.win.contains 1 = true ∧
    (0 :: (cCmb Op.ar 0 [xIn]).children (cb Op.ar 0 [xIn]) 0 1).all (fun m => ((cb Op.ar 0 [xIn] in2).slotOf 0 0 1 m).any (fun e => e.2.st == .ready)) = true ∧
    (cb Op.ar 1 []).ints = true ∧ (cb Op.ar 0 []).ints = false ∧ (cb Op.ar 0 []).above 1 = none ∧
    (cCmb Op.ar 0 (ch0 0 :: (List.range 16).map (fun k => { pos := 0, g := k + 1, floor := some 1 }))).floorsBusy = 16 := by decide +kernel

def xRes : Chain := { pos := 0, g := 0, produced := true, result := some (List.replicate 1024 (some 0x3f800000)), reducedLv := [1] }
/-- A member's copy of an AR result. -/
def xDn : Chain := { pos := 0, g := 1, produced := true, down := true, downData := List.replicate 4096 7, downFrom := 1 }
/-- An A2A whose second rick's block 2 module 0 passes on. -/
def cbA (slots : List (Nat × RingSlot)) : Combine := { cb Op.a2aMatmul 0 [ch0 8] slots with group := gw.set 0 0x30003 }
def cA2a (slots : List (Nat × RingSlot)) : Chip := { mapped cR 512 with cmb := [(0, cbA slots)] }

theorem witness_results : (cCmb Op.matmulRs 0 [xRes]).comb 0 = some (cb Op.matmulRs 0 [xRes]) ∧ (cb Op.matmulRs 0 [xRes]).chain 0 0 = some xRes ∧ xA.result = none ∧
    xRes.result.isSome = true ∧ xRes.rooted = false ∧ (cb Op.matmulRs 0 [xRes]).ints = false ∧ (cb Op.matmulRs 0 [xRes]).e.op = Op.matmulRs ∧
    (cb Op.matmulRs 0 [xRes]).e.p16 = 0 ∧ (∀ y ∈ (cb Op.ar 0 [xRes]).chains, y.waiting = []) ∧ xRes.down = false ∧ xDn.down = true ∧ xDn.downDone = false ∧
    (cb Op.ar 0 [xDn]).isAr = true ∧ xDn.rooted = false ∧ (cb Op.ar 0 [xDn]).levelsBelow xDn.downFrom = [] ∧
    (cCmb Op.matmulRs 0 [xRes]).allAcked 0 (cb Op.matmulRs 0 [xRes]) 0 0 = true ∧
    (lk (cCmb Op.matmulRs 0 [xRes]) 3 LinkSt.up { txq := [(⟨0, 1, 1, 0, false, 0, 0, []⟩, none)] }).allAcked 0 (cb Op.matmulRs 0 [xRes]) 0 0 = false ∧
    (cbA [(0, sl 16 1 .ready 8)]).slots.find? (fun e => e.2.g == 8 && e.2.tag == 16 && e.2.who == 1) = some (0, sl 16 1 .ready 8) ∧
    (cA2a []).carriedHere ((cbA []).blockOf 8) = false := by decide +kernel

/-- A combine frame for module 0 waits on link 3. -/
def fCmb (vc typ flow : Nat) (n : Nat := 4096) : LFrame := ⟨vc, typ, 0, 1, false, flow, 0, List.replicate n 7⟩
def cFr (c : Chip) (f : LFrame) : Chip := lk c 3 LinkSt.up { rx := [⟨f, false, false, false⟩] }
/-- The slot that module 1 fills for level 1. -/
def fill1 : List (Nat × RingSlot) := [(0, sl 1 0), (1, sl 1 1 .filling)]
/-- Module 0's sheaf 1, whose owner is module 1. -/
def x1 : Chain := { pos := 0, g := 1, produced := true }
/-- A bound tenant group; and its combine's frame of sheaf 1 from module 1. -/
def cGr : Chip := cFr (((({ cTen Op.ar 0 [x1] with cmb := [(1, { cb Op.ar 0 [x1] with ctx := 2 })] }).wr F.CMB_TGRP_VALID 1 0 0)).wr F.CMB_TGRP_INSTANCE 0 0 0) { fCmb 4 4 256 0 with ctx := 1024 }

theorem witness_combine_frames : (cFr cR (fCmb 0 1 0)).hasLink 3 = true ∧
    (cFr cR (fCmb 0 1 0)).comb 0 = none ∧
    ((cFr cR (fCmb 0 1 0)).peekRx 3 0).isSome = true ∧
    cL.peekRx 3 0 = none ∧
    cR.comb 1 = none ∧
    (cFr (cCmb Op.matmulRs 0 []) (fCmb 0 1 7)).comb 0 = some (cb Op.matmulRs 0 []) ∧
    (fCmb 0 1 7).typ = 1 ∧
    field (fCmb 0 1 7).flow 0 8 ≠ (cb Op.matmulRs 0 []).e.group ∧
    (cFr (cCmb Op.ar 0 [xIn] fill1) (fCmb 0 1 256)).member (cb Op.ar 0 [xIn] fill1).grp = true ∧
    field (fCmb 0 1 256).flow 0 8 = (cb Op.ar 0 [xIn] fill1).e.group :=
  ⟨by decide +kernel, by decide +kernel, by decide +kernel, by decide +kernel, by decide +kernel, by decide +kernel, by decide +kernel, by decide +kernel, by decide +kernel, by decide +kernel⟩
theorem witness_combine_places : field (fCmb 0 1 256).flow 11 5 = 0 ∧ 0 < (cb Op.ar 0 [xIn] fill1).total ∧
    (cFr (cCmb Op.ar 0 [xIn] fill1) (fCmb 0 1 256)).expects 0 (cb Op.ar 0 [xIn] fill1) 0 1 1 1 0 false = true ∧ (cb Op.ar 0 [xIn] fill1).chain 0 0 = some xIn ∧
    (cb Op.ar 0 [xIn] fill1).slotOf 0 0 1 1 = some (1, sl 1 1 .filling) ∧ Table.find? 1 (cb Op.ar 0 [xIn] fill1).slots = some (sl 1 1 .filling) ∧
    framesOf ((cb Op.ar 0 [xIn] fill1).expectBytes 1 false) = 1 := by decide +kernel
theorem witness_combine_anchors :
    (cFr (cCmb Op.ar 1 [xIn]) (fCmb 0 2 256 32)).expects 0 (cb Op.ar 1 [xIn]) 0 1 2 1 0 false = true ∧ 0 < (cb Op.ar 1 [xIn]).anchorBytes ∧ framesOf (cb Op.ar 1 [xIn]).anchorBytes = 1 ∧
    (∀ i ∈ xIn.ins, i.level = 32 + 1 → i.who ≠ 1) ∧ (cFr (cCmb Op.ar 1 [x1]) (fCmb 0 3 256 32)).expects 0 (cb Op.ar 1 [x1]) 0 1 3 1 1 false = true ∧
    (cGr.peekRx 3 4).map (·.ctx) = some 1024 ∧ cGr.tgroupOk { cb Op.ar 0 [x1] with ctx := 2 } = true ∧
    cGr.expects 1 { cb Op.ar 0 [x1] with ctx := 2 } 0 1 4 1 1 false = true := by decide +kernel

end Cmb

namespace Rme

/-- The manager's space is mapped; a CQ (local 2), an SQ (3) and an RQ (4) of the manager stand in the crib; queue pair 7 owns the last two. -/
def qp7 : QPair := { owner := 512, sq := 512 * 8192 + 3, rq := 512 * 8192 + 4, eth := false, prot := false, rWrite := true, rRead := true, rAtomic := true, stallIn := false, combine := false, pin := false, winVa := 0, winLen := 2 ^ 20 }
def conn : List Nat := [7, 0, 0, 0, 0, 0, 0, 0, 0, 0, 0x00100000, 0x10000, 0, 0]
def wqe (op : Nat) : Wqe := { idx := 0, words := [op, 0, 0, 0x1000, 0, 8, 0, 0, 0, 0, 0, 0, 0, 0, 0, 0] }
def cQp (st : QpSt) (sqe : List Wqe := []) : Chip :=
  ({ mapped cR 512 with
    queues := [(512 * 8192 + 2, { kind := .cq, base := 0x10000, shadow := 0x20000, p := 3, c := 1 }),
      (512 * 8192 + 3, { kind := .sq, base := 0x30000, cq := 512 * 8192 + 2, qp := some 7, ents := sqe, p := sqe.length, f := sqe.length }),
      (512 * 8192 + 4, { kind := .rq, base := 0x40000, cq := 512 * 8192 + 2, qp := some 7 })]
    qps := [(7, { qp7 with st := st, conn := if st = QpSt.idle then [] else (0x06 :: conn) })]
    ctxCache := [⟨7, true⟩] }).wr F.RME_CTRL_ENABLE 1
/-- Its context is not on the die. -/
def noCtx (c : Chip) : Chip := { c with ctxCache := [] }
def cRsv : Chip := adm cR [0x30, 1]
def admW (op : Nat) (ws : List Nat := []) : Wqe := ⟨0, op :: ws, false, 0, false, none, 0⟩
/-- The manager's admin queue holds one command beside the queues above. -/
def admQ (c : Chip) (ws : List Nat) : Chip := { c with queues := c.queues ++ (adm c ws).queues }.wr F.RME_CTRL_ADMQ_EN 1
/-- The queues are free of the queue pair. -/
def noQp (c : Chip) : Chip := { c with qps := [], queues := c.queues.map (fun e => (e.1, { e.2 with qp := none })) }
/-- An instance with its admin queue. -/
def insAdm (c : Chip) (ws : List Nat) : Chip :=
  ({ c with queues := [(0, { kind := .admin, ents := [⟨0, ws, false, 0, false, none, 0⟩], p := 1, f := 1 })] }.wr F.INS_ADMQ_CTRL_ADMQ_EN 1 0).wr F.INS_STATUS_STATE 1 0

theorem witness_doorbells : cR.hostUp = true ∧ cR.mst ≠ .off ∧ cR.dataState = true ∧ cR.queue (512 * 8192 + 9) = none ∧
    ((cQp .connected).queue (512 * 8192 + 3)).isSome = true ∧ (({} : Chip)).hostUp = false ∧
    ((cQp .connected).queue (512 * 8192 + 2)).map (·.kind) = some .cq ∧ ((cQp .connected).queue (512 * 8192 + 3)).map (·.kind) = some .sq := by decide +kernel

theorem witness_work_entries : cR.queue (512 * 8192 + 9) = none ∧ (adm cR [0x30]).admOn 512 = true ∧ (adm cR [0x30]).admErr 512 = false ∧
    (adm cR [0x30]).gap = false ∧ (adm cR [0x30]).cqStalled (512 * 8192 + 1) = false ∧ ((cQp .connected [wqe 1]).qpair 7).isSome = true ∧
    (cQp .connected [wqe 1]).rmeOn = true ∧ (cQp .connected [wqe 1]).ownerServed 512 = true ∧ (cQp .connected [wqe 1]).ctxHeld 7 = true ∧ (noCtx (cQp .connected)).ctxHeld 7 = false ∧
    (cQp .connected [wqe 1]).cqStalled (512 * 8192 + 2) = false ∧ (wqe 1).badSq = false ∧ (wqe 4).badSq = false ∧
    (wqe 5).badSq = false ∧ cR.qpair 7 = none ∧ qp7.stalled = false ∧ qp7.draining = false ∧ (wqe 0).op = 0 ∧ (wqe 3).op = 3 ∧
    ((cQp .connected).onQueue (512 * 8192 + 3) (fun q => { q with p := 1 })).ringRange (512 * 8192 + 3) 0x30000 64 .read =
      (.ok, (((cQp .connected).onQueue (512 * 8192 + 3) (fun q => { q with p := 1 })).ringRange (512 * 8192 + 3) 0x30000 64 .read).2) := by decide +kernel

def cStall : Chip := ({ cQp .connected with ctxMiss := [7], ctxCache := [] }).onQueue (512 * 8192 + 2) (fun q => { q with p := 17, since := some 5, waiting := [⟨[0], none, none⟩] })
def cEnding : Chip := { cStall with qps := [(7, { qp7 with closing := some { destroy := true, since := 0 } })] }
theorem witness_ring_stalls : (cStall.qpair 7).map (·.st) = some .connected ∧ (cStall.queue (512 * 8192 + 2)).map (·.full) = some true ∧
    (cStall.queue (512 * 8192 + 2)).map (·.since) = some (some 5) ∧ qp7.closing = none ∧ (cStall.ctxMiss.take 64).contains 7 = true ∧ cStall.ctxCache.length < 16384 ∧
    (cR.ctxMiss.take 64).contains 7 = false ∧ ((cQp .connected).queue (512 * 8192 + 2)).map (·.full) = some false := by decide +kernel

theorem witness_admin : (cR.admHead 512).isNone = true ∧ (adm cR [0x30]).admHead 512 = some (admW 0x30) ∧ (admW 0x30).admRsv = false ∧ (admW 0x30).op = 0x30 ∧
    cRsv.admHead 512 = some (admW 0x30 [1]) ∧ (admW 0x30 [1]).admRsv = true ∧ admListed 0x2f = false ∧ (admQ (cQp .connected) [0x09, 7]).admHead 512 = some (admW 0x09 [7]) ∧
    ((admQ (cQp .connected) [0x09, 7]).ownQp 512 7).map (·.owner) = some 512 := by decide +kernel

def wCq (l : Nat) : List Nat := [l + 0x07FF0000, 0x100000, 0, 0x200000, 0]
theorem witness_create_queues : (adm cR (0x01 :: wCq 8)).admHead 512 = some (admW 0x01 (wCq 8)) ∧ (admW 0x01 (wCq 8)).admRsv = false ∧
    vectorOk 512 (field ((admW 0x01 (wCq 8)).w 1) 16 11) = true ∧ ringAligned ((admW 0x01 (wCq 8)).w64 2) 8 32 = true ∧
    ((admQ (cQp .connected) [0x03, 8, 2, 0x100000, 0]).ownQueue 512 2 (· == .cq)).isSome = true ∧ ((adm cR [0x03, 8, 2, 0x100000, 0]).ownQueue 512 2 (· == .cq)) = none ∧
    ((admQ (cQp .connected) [0x04, 3]).ownQueue 512 3 (fun k => k == .sq || k == .rq)).map (·.qp) = some (some 7) ∧
    ((admQ (noQp (cQp .connected)) [0x04, 3]).ownQueue 512 3 (fun k => k == .sq || k == .rq)).map (·.qp) = some none ∧
    cR.queueQuota 0 ≤ cR.queuesUsed 0 := by decide +kernel

theorem witness_admin_qp : (admQ (noQp (cQp .connected)) [0x05, 3, 4, 0]).admHead 512 = some (admW 0x05 [3, 4, 0]) ∧ (admW 0x05 [3, 4, 0]).admRsv = false ∧
    ((admQ (noQp (cQp .connected)) [0x05, 3, 4, 0]).ownQueue 512 3 (· == .sq)).map (·.qp) = some none ∧
    ((admQ (noQp (cQp .connected)) [0x05, 3, 4, 0]).ownQueue 512 4 (· == .rq)).map (·.qp) = some none ∧
    (admQ (noQp (cQp .connected)) [0x05, 3, 4, 0]).qpsUsed 512 < (admQ (noQp (cQp .connected)) [0x05, 3, 4, 0]).qpQuota 512 ∧
    ((admQ (cQp .idle) (0x06 :: conn)).ownQp 512 7).map (·.st) = some .idle ∧
    (adm cR [0x06, 7]).ownQp 512 7 = none ∧ 0 < ({ qp7 with conn := (0x06 :: conn) } : QPair).window ∧
    ({ qp7 with conn := (0x06 :: conn) } : QPair).window ≤ 4096 := by decide +kernel

theorem witness_admin_almanac : (adm cR [0x14, 0]).admHead 512 = some (admW 0x14 [0]) ∧ (admW 0x14 [0]).admRsv = false ∧ (admW 0x10 [0]).admRsv = false ∧
    (insAdm cR [0x14, 1]).admHead 0 = some (admW 0x14 [1]) ∧ (admW 0x14 [1]).admRsv = false ∧ (insAdm cR [0x12, 0, 0, 0]).admHead 0 = some (admW 0x12 [0, 0, 0]) ∧
    ((adm cR [0x11, 0]).almAdmit 0).rd F.ALM_STATE_CMD_ERR 0 0 ≠ 0 ∧
    ((adm (withCtx (mapped cR 512) 0 { st := .loaded, head := some (hd 0) }) [0x11, 0]).almAdmit 0).rd F.ALM_STATE_CMD_ERR 0 0 = 0 ∧
    (((adm (withCtx (mapped cR 512) 0 { st := .loaded, head := some (hd 0) }) [0x11, 0]).almAdmit 0).ctx 0).adm.isSome = true ∧
    ((adm (withCtx cR 0 { st := .running }) [0x13, 0]).almStop 0).rd F.ALM_STATE_CMD_ERR 0 0 = 0 ∧
    (adm cR (0x10 :: [1, 2, 0, 4, 0, 6, 7, 0])).almGate 1 (fun s => s.idle) (decide ((1:Nat) < 2) && cR.chaffBusy) = 0 := by decide +kernel

theorem witness_key_slots : cR.variant ≠ .r ∧ ({ cR with variant := .r } : Chip).variant = .r ∧ (adm cR [0x20, 0]).admHead 512 = some (admW 0x20 [0]) ∧
    (admW 0x20 [1]).admRsv = false ∧ (admW 0x21 [5]).admRsv = false ∧ (adm cR [0x20, 0]).keysHeld 0 (sourceOf 512) < (adm cR [0x20, 0]).keyQuota 0 512 ∧
    (insAdm cR [0x20, 0]).keyQuota 0 0 ≤ (insAdm cR [0x20, 0]).keysHeld 0 (sourceOf 0) ∧ ((adm cR [0x21, 5]).keySlot 0 5).st = .free ∧
    (((adm cR [0x21, 5]).setKey 0 5 { st := .empty, owner := 0x3FF }).keySlot 0 5).owner = sourceOf 512 ∧
    ((adm cR [0x21, 5]).setKey 0 5 { st := .empty, owner := 0x3FF }).keyBound 0 5 = false := by decide +kernel

end Rme

namespace Ort
open Sys2Proof.Tests.Rme

/-- A packet for queue pair 7 that waits in this module's own buffer. -/
def pk (op : Nat) (psn : Nat := 0) : OrtPkt := { op := op, dest := 7, psn := psn, ver := 1, msgFirst := true, msgLast := true, va := 0x100, vlen := 4, data := if op = 1 ∨ op = 2 then [1, 2, 3, 4] else [], aux := 1 }
def cPk (op : Nat) (psn : Nat := 0) (st : QpSt := .connected) : Chip := { cQp st with loopRx := [pk op psn] }
theorem witness_packets : cR.rmeOn = false ∧ (cQp .connected).rxHead (cQp .connected).unheld .self = none ∧ (cPk 8).rxHead (cPk 8).unheld .self = some (.self, some (pk 8)) ∧
    (cPk 8).rmeOn = true ∧ ((cPk 8).qpair 7).map (·.st) = some .connected ∧ (cPk 8).ctxHeld 7 = true ∧ (noCtx (cPk 8)).ctxHeld 7 = false ∧
    (cPk 8).resetting 512 = false ∧ qp7.draining = false ∧ (pk 8).malformed none = false ∧ ({ pk 8 with ver := 2 } : OrtPkt).malformed none = true ∧
    (pk 2).malformed (some { qp7 with st := .connected, conn := 0x06 :: conn }) = false ∧ ({ cPk 8 with qps := [] }).qpair 7 = none ∧
    ((((cPk 2).useCtx 7).takeAck 7 0).takeLimits 7 0 0 |>.recvRequest 7 (pk 2)).1 = true := by decide +kernel

theorem witness_requests : ((cPk 2).qpair 7).map (·.exp) = some 0 ∧ subMod 32 5 0 < 2 ^ 31 ∧ 2 ^ 31 ≤ subMod 32 (2 ^ 32 - 1) 0 ∧ qp7.rWrite = true ∧ qp7.inWindow 0x100 4 = true ∧
    ((cPk 2).range 512 0x100 4 .write 4 false (.inbound 7)).1 = .ok ∧ qp7.inWindow (2 ^ 20) 4 = false ∧ qp7.msgOff = 0 ∧ qp7.inStall = none := by decide +kernel
def qx : QPair := { qp7 with st := .connected, conn := 0x06 :: conn, exp := 2 ^ 32 + 3, atoms := [(2 ^ 32 + 2, 77)] }

def cRq : Chip := (cPk 1).onQueue (512 * 8192 + 4) (fun q => { q with p := 1, f := 1, ents := [{ idx := 0, words := [0x10, 0, 0, 0x1000, 0, 64, 0, 0, 0, 0, 0, 0, 0, 0, 0, 0] }] })

theorem witness_qp_timers : cR.qpair 7 = none ∧ (cQp .connected).mst ≠ .safe ∧ ((cQp .connected).qpair 7).map (·.st) = some .connected ∧
    ((cQp .connecting).qpair 7).map (·.st) = some .connecting ∧ qp7.told = (qp7.mgrant, qp7.bgrant) ∧ ({ qp7 with told := (9, 9) } : QPair).told ≠ (0, 0) ∧
    qp7.connAt ≤ qp7.connEnd ∧ (cQp .connected).ctxHeld 7 = true ∧ (noCtx (cQp .connected)).ctxHeld 7 = false ∧ qp7.waitM = none ∧ ({ qp7 with waitB := some 3 } : QPair).waitB = some 3 ∧ ({ qp7 with waitM := some 3 } : QPair).waitM = some 3 ∧
    ({ qp7 with rtxAt := some 3 } : QPair).rtxAt = some 3 ∧ ({ qp7 with ackAt := some 3 } : QPair).ackAt = some 3 := by decide +kernel
def cT (q : QPair) : Chip := (cQp .connected [{ wqe 1 with started := true }]).setQp 7 q

end Ort

namespace Eth
open Sys2Proof.Tests.Rme

/-- A READY module whose Ethernet port 1 is up, with a port state. -/
def cE (e : EPort := {}) (links : Nat := 1) : Chip := (((cR.ewr F.ETH_PFC_CFG_EN 0 1 0).wr F.ETH_CTRL_ENABLE 1 1).ewr F.ETH_STATUS_LINK links 1 0).setPort (portKey 1 0) e
def fE (len : Nat) (body : EBody := .other) (dm : Nat := asDest) : EFrame := { dmac := dm, smac := 7, len := len, body := body }

def cP (e : EPort := {}) : Chip := (cE e).ewr F.ETH_PFC_CFG_EN 8 1 0
/-- A received frame's bytes: so many with a type field, and its check sequence. -/
def bE (n : Nat) (dm : Nat := asDest) (typ : Nat := 0x88F7) (data : List Byte := []) : List Byte :=
  let b := toBE 6 dm ++ toBE 6 7 ++ toBE 2 typ ++ data
  let b := b ++ List.replicate (n - 4 - b.length) 0
  b ++ toLE 4 (crc32 b)
theorem witness_eth_frames : cE.hasPort 1 0 = true ∧ (cE {} 0).ethUp 1 0 = false ∧ cE.ethUp 1 0 = true ∧ fcsFails (bE 64) = false ∧ fcsFails (List.replicate 64 1) = true ∧
    cE.ethAccepts 1 (EFrame.parse (bE 64)) = true ∧ cE.ethAccepts 1 (EFrame.parse (bE 64 5)) = false ∧ (EFrame.parse (bE 64)).len = 64 ∧
    cE.sharedFree 1 < 2 ^ 23 + 1 ∧ (EFrame.parse (bE 64)).len ≤ cE.sharedFree 1 ∧ cE.pfcOn 1 0 3 = false ∧
    ((cE { rx := [⟨3, fE 64, true, false, none⟩] }).eport (portKey 1 0)).rx.find? (fun r => r.prio == 3) = some ⟨3, fE 64, true, false, none⟩ ∧
    cE.rxHead cE.unheld (.eth 1 0 3) = none := by decide +kernel

theorem witness_priorities : cE.hasPort 1 0 = true ∧ cP.pfcOn 1 0 3 = true ∧ cE.pfcOn 1 0 3 = false ∧ ((cP.ewr F.ETH_PFC_STATUS_TX_XOFF 8 1 0).xoffed 1 0 3) = true ∧
    cE.breakout 1 = false ∧ cE.xoffed 1 0 3 = false ∧ cE.erd F.ETH_PFC_CFG_STORM 1 0 * 9000000 * 1000 ≤ 10 ^ 15 ∧ bit (cE.erd F.ETH_PFC_STATUS_STORM 1 0) 3 = false := by decide +kernel

theorem witness_eth_link : cE.hasPort 1 0 = true ∧ (cE {} 0).erd F.ETH_CTRL_ENABLE 1 0 = 1 ∧ (cE {} 0).ethUp 1 0 = false ∧ cE.preempts 1 0 = false ∧
    at_ cE F.ETH_PREEMPT_VERIFY_RESTART 1 = true ∧ (cE.ewr F.ETH_STATUS_VERIFY 1 1 0).erd F.ETH_STATUS_VERIFY 1 0 = 1 ∧
    ((cE {} 0).ewr F.ETH_PREEMPT_EN 1 1 0).erd F.ETH_PREEMPT_EN 1 0 = 1 ∧ ((cE {} 0).ewr F.ETH_CTRL_AN_EN 1 1 0).erd F.ETH_CTRL_AN_EN 1 0 = 1 := by decide +kernel

theorem witness_time_maps : at_ cE F.ETH_TMAP_CTRL_COMMIT 1 = true ∧ cE.ethPresent 1 = true ∧ (cE.wr F.ETH_TMAP_CTRL_VALID 1 1).rd F.ETH_TMAP_CTRL_VALID 1 ≠ 0 ∧
    cE.rd F.ETH_TMAP_CTRL_VALID 1 = 0 ∧ cE.rd F.ETH_PPS_CTRL_OUT_EN = 0 ∧ ((cE.wr F.ETH_PPS_CTRL_OUT_EN 1).wr F.ETH_PPS_CTRL_TIMEBASE 1).rd F.ETH_PPS_CTRL_TIMEBASE = 1 := by decide +kernel

def gl (n : Nat) : GateList := { enable := true, beats := true, base := 5, cycle := n, ents := [0xff000000 + n] }
theorem witness_gates : cE.hasPort 1 0 = true ∧ at_ cE F.ETH_GATE_CTRL_CHANGE 1 = true ∧ ((cE { admitting := some (some (2, 3), gl 100) }).eport (portKey 1 0)).admitting = some (some (2, 3), gl 100) ∧
    ((cE { admitting := some (none, gl 100) }).eport (portKey 1 0)).admitting = some (none, gl 100) ∧ ((cE { pendingList := some (gl 100, 9, 9) }).eport (portKey 1 0)).pendingList = some (gl 100, 9, 9) ∧
    (gl 100).enable = true ∧ (gl 100).ents ≠ [] ∧ (cE.eport (portKey 1 0)).oper.enable = false := by decide +kernel

/-- A running list that shuts every gate. -/
def gl1 : GateList := { enable := true, beats := true, base := 5, cycle := 100, ents := [100] }
theorem witness_transmission : cE.hasPort 1 0 = true ∧ cE.ethUp 1 0 = true ∧ at_ cE F.ETH_SHP_CMD_APPLY 1 = true ∧ (cE.wr F.ETH_SHP_RATE_MBPS 800001 1 0).rd F.ETH_SHP_RATE_MBPS 1 0 = 800001 ∧
    cE.rd F.ETH_SHP_RATE_MBPS 1 0 ≤ 800000 ∧ 9216 ≤ cE.rd F.ETH_SHP_DEPTH_BYTES 1 0 := by decide +kernel

end Eth

namespace Cph

def kOk (w : Nat) : Chip := (cR.setKey 0 5 { st := .empty, owner := 0x3FF }).setStage 0x3FF { words := (List.range w).map (fun i => (i, i + 9)) } |>.wr F.KEY_SEL_SLOT 5 0 0
theorem witness_keys : cR.reachesKey mgr F.KEY_SEL_KIND = true ∧ cR.reachesKey mgr F.KEY_DATA_DATA 60 = true ∧ cR.reachesKey mgr F.KEY_TWEAK_TWEAK_BASE 4 = true ∧
    cR.reachesKey mgr F.KEY_CMD_CMD = true ∧ (kOk 9).commitResult (keyOwner mgr) = 0 ∧ (kOk 8).commitResult (keyOwner mgr) = 2 ∧ (kOk 9).zeroiseResult (keyOwner mgr) = 0 ∧
    cR.zeroiseResult (keyOwner mgr) ≠ 0 := by decide +kernel
/-- An XTS slot of the manager with so many words staged. -/
def kXts (w : Nat) : Chip := ((cR.setKey 1 5 { st := .empty, owner := 0x3FF }).setStage 0x3FF { words := (List.range w).map (fun i => (i, i)) }).wr F.KEY_SEL_SLOT 5 0 0 |>.wr F.KEY_SEL_KIND 1 0 0
theorem witness_commit_refusals : (kOk 9).commitResult 0x3FF = 0 ∧ cR.commitResult 0x3FF = 5 ∧ (kXts 15).commitResult 0x3FF = 2 ∧ (kXts 16).commitResult 0x3FF = 6 := by decide +kernel
theorem witness_cipher_test : at_ cR F.CPH_TEST_RUN = true ∧ cR.rd F.CPH_TEST_RUN = 0 ∧ (cR.wr F.CPH_TEST_RUN 1).rd F.CPH_TEST_RUN = 1 := by decide +kernel

end Cph

namespace Hst

/-- BAR4 is the full device memory, with every stack of the crib in service. -/
def cM : Chip := (((cR.wr F.HST_STATUS_BAR4_FULL 1).wr F.HST_STATUS_CXL_MEM 1).wr F.GLB_SVC_CRB_STACKS 0xfff)
def cVf : Chip := ((mapped cR 5).wr F.INS_STATUS_VF_PRESENT 1 5).wr F.INS_STATUS_STATE 1 5

theorem witness_device_memory : accLen 8 none = 8 ∧ cM.hostUp = true ∧ (({} : Chip)).hostUp = false ∧ cM.rd F.HST_STATUS_BAR4_FULL = 1 ∧ cM.dpa 0x1000 = some (.crib, 0x1000) ∧
    cM.dpa (2 ^ 40 - 1) = none ∧ cM.rd F.HST_STATUS_CXL_MEM = 1 ∧ cVf.rd F.INS_STATUS_VF_PRESENT 5 = 1 ∧ cVf.rd F.INS_STATUS_VF_PRESENT 6 = 0 ∧ cVf.insResetting 5 = false ∧
    cVf.dataState = true ∧ cVf.ownerServed 5 = true ∧ (cVf.apertureRuns 5 false (runs 0x1000 8)).1 = none ∧
    (cVf.apertureRuns 5 true (runs (2 ^ 39) 8)).1 = some .unmapped := by decide +kernel

theorem witness_host_port : at_ cR F.HST_WIN_BASE_BASE = true ∧ cR.hostUp = true ∧ (({ mst := .ready, inputs := {} } : Chip)).hostUp = false ∧
    ({ mst := .off } : Chip).mst = .off ∧ cR.mst ≠ .off ∧ ({} : Chip).inputs.perst = true ∧
    ({ mst := .ready, hostReady := true, inputs := { perst := false } } : Chip).inputs.perst = false ∧
    ({ mst := .ready, hostReady := true, inputs := { perst := false } } : Chip).hostReady = true := by decide +kernel

def cW (st probe : Nat) : Chip := ((((cR.wr F.HST_P2P_CTRL_VALID 1 0 0).wr F.HST_P2P_CTRL_PROBE probe 0 0).wr F.HST_P2P_STATUS_STATE st 0 0).wr F.HST_P2P_CTRL_LOG2 20 0 0).wr F.HST_P2P_BASE_BASE 256 0 0
theorem witness_peer_windows : at_ cR F.HST_P2P_CTRL_PROBE = true ∧ cR.rd F.HST_P2P_SEL_WINDOW < 16 ∧ cR.rd F.HST_P2P_CTRL_VALID 0 0 = 0 ∧ (cW 2 0).rd F.HST_P2P_CTRL_VALID 0 0 = 1 ∧
    (cW 1 1).rd F.HST_P2P_CTRL_PROBE 0 0 = 1 := by decide +kernel

/-- A message waits in a mailbox. -/
def cMb (o : Nat) (w : List Nat) : Chip :=
  let c := if o = 512 then cR else (cR.wr F.INS_STATUS_VF_PRESENT 1 o).wr F.INS_STATUS_STATE 1 o
  (w.zipIdx.foldl (fun c x => c.mbWr o F.HST_MB_SLOT_WORD F.INS_MB_SLOT_WORD x.1 x.2) c).mbWr o F.HST_MB_H2R_PROD F.INS_MB_H2R_PROD 1
theorem witness_mailbox : at_ cR F.HST_MB_H2R_PROD = true ∧ (cVf.reaches 5 F.INS_MB_H2R_PROD 5 0) = true ∧ cR.mbHead 512 = none ∧ ((cMb 512 [0x20000]).mbHead 512).isSome = true ∧
    (cMb 512 [0x20000]).msgBad 512 [0x20000] = false ∧ (cMb 512 [0x20000]).msgDenied 512 [0x20000] = false ∧ (cMb 5 [0x80000]).msgDenied 5 [0x80000] = true ∧
    (cMb 5 [0x40000]).msgBad 5 [0x40000] = true ∧ ((cMb 5 [0x10000]).mbHead 5).isSome = true := by decide +kernel
def mw (w : List Nat) : List Nat := w ++ List.replicate (16 - w.length) 0

/-- A relay frame at the head of link 3's buffer. -/
def cRel (typ src ctx : Nat) (pay : List Byte := []) : Chip := lk cR 3 LinkSt.up { rx := [⟨⟨5, typ, 0, src, false, 0, ctx, pay⟩, false, false, false⟩] }
theorem witness_relay : ((cMb 512 [0x80000, 0, 9]).mbHead 512).isSome = true ∧ msgType (mw [0x80000, 0, 9]) = 8 ∧ (cMb 512 [0x80000, 0, 9]).msgBad 512 (mw [0x80000, 0, 9]) = false ∧
    (cMb 512 [0x80000, 0, 9]).msgDenied 512 (mw [0x80000, 0, 9]) = false ∧ cL.hasLink 3 = true ∧ cL.mgmtHead 3 = none ∧ ((cRel 1 9 4).mgmtHead 3).isSome = true ∧
    ((cRel 2 9 4).mgmtHead 3).map (·.typ) = some 2 ∧ (Table.getD (cRel 1 9 4).relaySeen 9 []).contains 4 = false ∧ cR.relay = none := by decide +kernel

theorem witness_instances : at_ cVf F.INS_CTRL_ENABLE 5 = true ∧ cVf.rd F.INS_STATUS_VF_PRESENT 5 = 1 ∧ cVf.insResetting 5 = false ∧ cVf.mst ≠ .refused ∧
    at_ cVf F.INS_CTRL_RESET 5 = true ∧ (cVf.wr F.INS_CTRL_ENABLE 1 5).rd F.INS_CTRL_ENABLE 5 = 1 ∧ cR.rd F.INS_STATUS_VF_PRESENT 5 = 0 ∧
    (cVf.wr F.INS_STATUS_STATE 2 5).insResetting 5 = true ∧ at_ cVf F.INS_QUOTA_Q_QUEUES 5 = true ∧ cVf.queuesUsed 5 ≤ 8190 ∧ cVf.qpair 0 = none := by decide +kernel

def cRst : Chip := { cVf.wr F.INS_STATUS_STATE 2 5 with insResets := [(5, { start := 0, cause := 2 })], beat := 90001 }
/-- A queue pair of the resetting instance that still drains. -/
def cDrain : Chip := { cRst with qps := [(7, { owner := 5, sq := 0, rq := 0, draining := true, st := .connected, reads := [⟨0, 1, 3, 0, 0, 8, 0, []⟩] })] }
theorem witness_instance_reset : 7 ∈ cDrain.ownQps 5 ∧ (cDrain.qpair 7).any (fun q => q.draining && cDrain.hasDrain q) = true ∧ (cVf.space 5).waiting = [] ∧ cRst.again = [] ∧
    cVf.ownQps 5 = [] ∧ (cVf.space 5).opened = [] ∧ (cVf.space 5).queue = [] ∧ cVf.prefetches = [] ∧ cVf.thr.shift = none ∧ cVf.comb 1 = none ∧
    Table.find? 5 cRst.insResets = some { start := 0, cause := 2 } ∧ cRst.ownQps 5 = [] := by decide +kernel

end Hst

namespace Fw

/-- A core of the module is in a state. -/
def cCore (k st : Nat) (l : List Nat := []) : Chip := { cR.wr F.FWC_CORE_STATE st 0 k with restarts := if l = [] then [] else [(k, l)] }
theorem witness_cores : cR.mst ≠ .off ∧ ({ mst := .off } : Chip).mst = .off ∧ (cCore 5 0).coreState 5 = 0 ∧ (cCore 5 1).coreState 5 = 1 ∧ cR.coreState 0 = 0 ∧
    at_ cR F.RST_CORE_RESET = true ∧ cR.rd F.RST_CORE_SEL_CORE = 0 ∧ (cR.wr F.RST_CORE_SEL_CORE 5).rd F.RST_CORE_SEL_CORE = 5 ∧
    (Table.getD (cCore 5 1 [70, 30, 7]).restarts 5 []) = [70, 30, 7] := by decide +kernel

/-- The module boots in a phase. -/
def cB (n : Nat) : Chip := ({ mst := .booting } : Chip).wr F.FWC_STATUS_PHASE n
/-- No memory unit trains. -/
def cB5 : Chip := cB 5
theorem witness_boot : (cB 0).inPhase 0 = true ∧ (cB 1).inPhase 1 = true ∧ (cB 2).inPhase 2 = true ∧ (cB 3).inPhase 3 = true ∧ (cB 4).inPhase 4 = true ∧ cB5.inPhase 5 = true ∧
    (cB 3).inputs.mainGood = true ∧ (cB 0).on F.FWC_BOOT_TRIAL = false ∧ ((cB 0).wr F.FWC_BOOT_TRIAL 1).on F.FWC_BOOT_TRIAL = true ∧
    (((cB 0).wr F.FWC_BOOT_TRIAL 1).wr F.FWC_BOOT_ATTEMPTS 2).rd F.FWC_BOOT_ATTEMPTS = 2 ∧ cR.inPhase 0 = false ∧
    cB5.bootSafe = false ∧ cB5.hello = none ∧ cB5.anyTraining = false ∧ (cB 4).bootTraining.anyTraining = true ∧ cB5.revOk 0 = true ∧ cB5.revOk 9 = false := by decide +kernel

def cRun : Chip := (up .running)
theorem witness_firmware : at_ cR F.FWC_CMD_CMD = true ∧ cR.mst ≠ .off ∧ cR.mst ≠ .keepalive ∧ ({ cR with fwcBusy := 1 } : Chip).fwcBusy ≠ 0 ∧ cR.phase ≠ 8 ∧ fromSideband 0x3FD = true ∧
    cR.reaches 0x3FD F.FWC_CMD_CMD 0 0 = true ∧ (cB 8).reaches 0x3FD F.FWC_CMD_CMD 0 0 = true ∧ fromSideband mgr = false ∧ cR.verified = false ∧ ({ cR with verified := true } : Chip).anyRestarting = false ∧ cRun.mst = .running ∧
    (cR.wr F.FWC_STATUS_UPDATE 4).rd F.FWC_STATUS_UPDATE = 4 ∧ cR.otherBank = 1 ∧ ({ cR with fwcBusy := 6 } : Chip).fwcBusy = 6 := by decide +kernel

def upd : Update := { bank := 1, ver := 7, iface := 5, hrec := 1 }
def cU (n : Nat) (u : Update := upd) : Chip := { cR.wr F.FWC_STATUS_UPDATE n with update := some u, fwcBusy := 3 }
/-- A verified image whose range of record versions is everything from 0xFFFF. -/
def cV : Chip := { cR.wr F.FWC_GAP_HREC 65535 with verified := true }
theorem witness_live_update : at_ cR F.FWC_CMD_CMD = true ∧ cR.mst ≠ .off ∧ cR.mst ≠ .keepalive ∧ cR.fwcBusy = 0 ∧ cR.phase ≠ 8 ∧ cV.verified = true ∧ cV.hello = none ∧ cV.mst ≠ .booting ∧ cV.anyRestarting = false ∧
    cR.rd F.FWC_GAP_HREC < cR.header cR.otherBank 0x014 % 65536 ∧ (cV.header cV.otherBank 0x014 % 65536 ≤ cV.rd F.FWC_GAP_HREC ∧ cV.rd F.FWC_GAP_HREC ≤ cV.header cV.otherBank 0x014 / 65536) ∧
    (cU 6).update = some upd ∧ upd.reported.contains 3 = false := by decide +kernel

theorem witness_power : at_ cR F.RST_CMD_CMD = true ∧ cR.mst ≠ .off ∧ cR.inputs.auxGood = true ∧ ({ mst := .off, inputs := { auxGood := false, mainGood := false } } : Chip).inputs.auxGood = false ∧
    cR.fwcBusy ≠ 6 ∧ cR.inputs.mainGood = true ∧ ({ mst := .off, inputs := { mainGood := false } } : Chip).mst = .off := by decide +kernel

theorem witness_governor : cR.railsUp = true ∧ (cB 2).railsUp = false ∧ cR.skipPower = false ∧ ({ cR with skipPower := true } : Chip).skipPower = true := by decide +kernel

end Fw

namespace Flt

def cSrc (n : Nat) (x : Src) : Chip := cR.setSrc n x
theorem witness_events : srcNamed (Flt.xltStead) = true ∧ (cR.src Flt.xltStead).enable = true ∧ (cSrc 515 { cls := .contain, n := 2, buckets := [1] }).src 515 = { cls := .contain, n := 2, buckets := [1] } := by decide +kernel

theorem witness_fault_sources : cR.irqDue = false ∧ ({ cR with irqDue := true } : Chip).irqLast = none ∧ cR.reachesElem mgr F.FLT_FORCE_FORCE (515 / 32) = true ∧ srcNamed 515 = true ∧
    srcNamed 300 = false ∧ cR.reachesElem mgr F.FLT_FORCE_FORCE (300 / 32) = true ∧ at_ cR F.FLT_SRC_CFG_CLASS = true ∧ (cR.src 515).force = false ∧
    srcNamed (cR.rd F.FLT_SRC_SEL_SOURCE) = true ∧ srcNamed ((cR.wr F.FLT_SRC_SEL_SOURCE 300).rd F.FLT_SRC_SEL_SOURCE) = false := by decide +kernel

/-- Module 0 and its twin, module 1; both twin links are up. -/
def cTw (t : Twin := {}) (n : Nat := Tw.paired) : Chip :=
  let c := (((cR.wr F.GLB_POSITION_POSITION_VALID 1).wr F.GLB_POSITION_TWIN_VALID 1).wr F.GLB_POSITION_TWIN_ID 1).wr F.FLT_TWIN_STATUS_STATE n
  { lk (lk c 30 LinkSt.up) 31 LinkSt.up with twin := t }
def hb (ts : Nat := Tw.paired) (fallow : Bool := false) (st : Nat := 4) : Heartbeat :=
  { modId := 1, state := st, twinState := ts, fallow := fallow, mirror := false, mirrorSync := false, bell := 0, alm0 := 0, alm1 := 0, twin := 0 }

theorem witness_heartbeats : cTw.twinValid = true ∧ cTw.tw = Tw.paired ∧ cTw.expectsTwin = true ∧ cR.expectsTwin = false ∧ cTw.twin.checked ≠ some cTw.bell ∧ cTw.hasLink 30 = true ∧ cTw.inService 30 = true ∧
    cTw.posLimited 30 = false ∧ cR.inService 30 = false ∧ cTw.beat ≤ cTw.heartbeatBy 30 ∧ cTw.modId = 0 ∧ cTw.twinId = 1 ∧ cTw.rd F.FLT_TWIN_STATUS_FAILED < 2 ∧
    (cTw.wr F.FLT_TWIN_STATUS_FAILED 2).rd F.FLT_TWIN_STATUS_FAILED = 2 ∧ [30, 31].filter (fun k => (cTw { heard := [(31, 0)] }).twin.heard.contains (k, cTw.bell)) = [31] ∧
    (withCtx cTw 1 { st := .admitted }).mst = .ready := by decide +kernel

def ann (x : Subst) : RxFrame := ⟨⟨5, 0x10, 0, 9, false, 0, 0, x.bytes⟩, false, false, false⟩
def cAnn (x : Subst) (t : Twin := {}) : Chip := { lk cR 3 LinkSt.up { rx := [ann x] } with twin := t }
theorem witness_substitutions : cL.hasLink 3 = true ∧ (cAnn ⟨0, 9, 8, 77, 0, 0⟩).twin.seen.contains (Subst.parse (ann ⟨0, 9, 8, 77, 0, 0⟩).frame.payload) = false ∧
    Subst.parse (ann ⟨0, 9, 8, 77, 0, 0⟩).frame.payload = ⟨0, 9, 8, 77, 0, 0⟩ ∧ (cTw { subst := some ⟨0, 9, 8, 77, 0, 0⟩ }).twin.subst = some ⟨0, 9, 8, 77, 0, 0⟩ ∧ cR.modId = 0 ∧
    ((withCtx cR 0 { st := .admitted, head := some (hd 0) }).ctx 0).st = .admitted := by decide +kernel
def cSw (x : Subst) (m : ModState := .ready) : Chip := { cTw { subst := some x } with mst := m }

def mir : RxFrame := ⟨⟨2, 1, 0, 1, false, 0, 0, toLE 16 0x1000 ++ [1, 2, 3]⟩, false, false, false⟩
def cMir (n : Nat) : Chip := (mapped (cTw {} n) 512).setLink 30 { rx := [mir] }
theorem witness_mirror : (cMir 1).hasLink 30 = true ∧ (cMir 1).twinValid = true ∧ ((cMir 1).link 30).rx = [mir] ∧ (cMir 1).rangeOk steadSpace 0x1000 3 .write = true ∧
    at_ cTw F.FLT_TWIN_CTRL_MIRROR = true ∧ bit 1 0 ≠ cTw.on F.FLT_TWIN_CTRL_MIRROR ∧ bit 2 0 = cTw.on F.FLT_TWIN_CTRL_MIRROR ∧ cTw.mirrorHeld = false ∧ (withCtx cTw 1 { st := .admitted }).mirrorHeld = true := by decide +kernel

def cVfs : Chip := (cTw.wr F.INS_STATUS_VF_PRESENT 1 5).wr F.INS_CTRL_ENABLE 1 5
theorem witness_lift : cTw.reaches 0x3FF F.FLT_TWIN_CMD_CMD 0 0 = true ∧ cTw.reaches 0x3FD F.FLT_TWIN_CMD_CMD 0 0 = true ∧ cTw.instances.any (fun i => cTw.insHome i == 1) = false ∧ (hb Tw.paired true).alm0 = cTw.almanacId 0 ∧
    cTw.twin.subst = none ∧ (cTw {} 2).inProcedure = true ∧ cTw.inProcedure = false ∧ cTw.copyLeft = 0 ∧ (cTw { copying := true } 2 |>.setLink 30 { txq := [(⟨2, 1, 1, 0, false, 0, 0, toLE 16 0 ++ [1]⟩, none)] }).copyLeft ≠ 0 ∧ cVfs.instances.any (fun i => cVfs.insHome i == 1) = true := by decide +kernel

end Flt

namespace Mgt

def cOff : Chip := { mst := .off, inputs := { auxGood := false, kaSeen := (1, 0) } }
def cKa : Chip := { mst := .keepalive }
def cPin (low : Nat) : Chip := { cR.wr (gpFld 5) 5 with inputs := { cR.inputs with low := [(5, low)] } }
theorem witness_senses : cR.railsUp = true ∧ cOff.inputs.auxGood = false ∧ cKa.reaches 0x3FE F.MGT_KA_ACK_KEY 0 0 = true ∧ 0x5AFE0001 / 65536 = 0x5AFE ∧
    bit 0x5AFE0001 0 = true ∧ (cKa.wr F.MGT_KA_ALARM_ACKED 1).on F.MGT_KA_ALARM_ACKED = true ∧ (cPin 9).pinActs 5 5 = true ∧ Table.getD (cPin 9).inputs.low 5 0 = 9 := by decide +kernel

def cHold : Chip := { cR with holds := [⟨5, 3, 36⟩, ⟨6, 3, 36⟩] }
theorem witness_pins : at_ cR (gpReg 5) = true ∧ at_ cR (gpReg 13) = true ∧ cR.gpFunc 5 = 0 ∧ cR.variant = .f ∧ cHold.pinHeld 5 = true ∧ cR.pinHeld 5 = false := by decide +kernel

theorem witness_spi : ({ mst := .off } : Chip).busDead 0x3FE = true ∧ cR.busDead 0x3FE = false ∧ cR.busBad 0x3FE 0 false false = none ∧ cR.busBad 0x3FE 2 false true = some .size ∧ cR.busBad 0x3FE 0xc true false = none ∧
    cR.busBad 0x3FE 0xffffffc true false ≠ none := by decide +kernel

theorem witness_smbus : ({ mst := .off } : Chip).busDead 0x3FD = true ∧ cR.busDead 0x3FD = false ∧ cR.busBad 0x3FD 0 false false = none ∧ cR.busBad 0x3FD 2 false true = some .size ∧ cR.busBad 0x3FD 0xc true false = none := by decide +kernel

end Mgt

end Sys2Proof.Tests
end

/-! ### The latches of pair accesses (R39, R40) -/
section
namespace Sys2Proof.Machine

/-! A read of one half of a pair. -/

theorem Chip.foldl_clear_rdLatch (l : Loc) (b : Nat) (fs : List Fld) (c : Chip) :
    (fs.foldl (fun d f => if f.acc = .rc then d.wr f 0 l.idx b l.elem else d) c).rdLatch = c.rdLatch := by
  induction fs generalizing c with
  | nil => rfl
  | cons f fs ih =>
    rw [List.foldl_cons, ih]
    split
    · exact Chip.wr_rdLatch ..
    · rfl

/-- Clearing RC fields as a register is read leaves every read latch. -/
theorem Chip.clearRc_rdLatch (c : Chip) (l : Loc) : (c.clearRc l).rdLatch = c.rdLatch := by
  unfold Chip.clearRc
  split
  · dsimp only
    split
    · exact Chip.setSrc_rdLatch ..
    · rfl
  · split
    · rfl
    · split
      · exact Chip.wr_rdLatch ..
      · exact Chip.foldl_clear_rdLatch ..

/-- At `addr`, on a page that is present, lies the low (`hi = false`) or the high word of the pair `l`, and reading it takes no free value. -/
structure Chip.PairWordAt (c : Chip) (addr : Nat) (l : Loc) (hi : Bool) : Prop where
  present : c.pageAbsent (addr / 65536) = false
  found : c.locate (addr / 65536) (addr % 65536) = some l
  noFree : l.open_ = false
  half : l.hi = hi
  pair : l.reg.pair = true

/-- R39: a low word is answered with its register's low half, and the high half goes into the requester's latch. -/
theorem Chip.readWord_lo {c : Chip} {addr : Nat} {l : Loc} (h : c.PairWordAt addr l false) (src : Nat) :
    c.readWord src addr = (c.regVal l 0 % 2 ^ 32,
      ({ c with rdLatch := Table.insert src ⟨addr, c.regVal l 0 / 2 ^ 32 % 2 ^ 32⟩ (Table.erase src c.rdLatch) } : Chip).clearRc l) := by
  simp [Chip.readWord, h.present, h.found, h.noFree, h.half, h.pair]

/-- R39: what the requester's read latch holds once a low word has been read. -/
theorem Chip.readWord_lo_latch {c : Chip} {addr : Nat} {l : Loc} (h : c.PairWordAt addr l false) (src : Nat) :
    Table.find? src (c.readWord src addr).2.rdLatch = some ⟨addr, c.regVal l 0 / 2 ^ 32 % 2 ^ 32⟩ := by
  rw [Chip.readWord_lo h, Chip.clearRc_rdLatch]
  exact Table.find?_insert_self ..

/-- R39: a high word whose pair is latched is answered from the latch, which is emptied. -/
theorem Chip.readWord_hi_latched {c : Chip} {addr src : Nat} {l : Loc} {x : Latch} (h : c.PairWordAt addr l true)
    (hx : Table.find? src c.rdLatch = some x) (ha : x.pair + 4 = addr) :
    c.readWord src addr = (x.word, { c with rdLatch := Table.erase src c.rdLatch }) := by
  simp [Chip.readWord, h.present, h.found, h.noFree, h.half, h.pair, hx, ha]

/-- R39: a high word whose pair is not latched is answered live, and the page's LATCH_MISS is set. -/
theorem Chip.readWord_hi_missed {c : Chip} {addr src : Nat} {l : Loc} (h : c.PairWordAt addr l true)
    (hx : ∀ x, Table.find? src c.rdLatch = some x → x.pair + 4 ≠ addr) :
    c.readWord src addr = (c.regVal l 0 / 2 ^ 32 % 2 ^ 32, c.latchMiss (addr / 65536)) := by
  cases hf : Table.find? src c.rdLatch with
  | none => simp [Chip.readWord, h.present, h.found, h.noFree, h.half, h.pair, hf]
  | some x => simp [Chip.readWord, h.present, h.found, h.noFree, h.half, h.pair, hf, hx x hf]

theorem Chip.latchMiss_rd (c : Chip) (page : Nat) : (c.latchMiss page).rd F.PAGE_STATUS_LATCH_MISS page = 1 :=
  Chip.rd_wr_self c F.PAGE_STATUS_LATCH_MISS 1 page 0 0

theorem Chip.latchMiss_rdLatch (c : Chip) (page : Nat) : (c.latchMiss page).rdLatch = c.rdLatch := rfl

/-- Settles O12: the low read's latch is all that the high read looks at, so what the pair holds by then does not matter. -/
theorem pairReadsAreOneMoment : Obligations.PairReadsAreOneMoment := by
  unfold Obligations.PairReadsAreOneMoment
  refine ⟨?latched, ?missed⟩
  case latched =>
    intro c d src addr l h hAbsL hLocL hOpenL hLo hPairL hLatch hAbsH hLocH hOpenH hHi hPairH
    have atLo : c.PairWordAt addr l false := ⟨hAbsL, hLocL, hOpenL, hLo, hPairL⟩
    have atHi : d.PairWordAt (addr + 4) h true := ⟨hAbsH, hLocH, hOpenH, hHi, hPairH⟩
    have held : Table.find? src d.rdLatch = some ⟨addr, c.regVal l 0 / 2 ^ 32 % 2 ^ 32⟩ := by
      rw [hLatch]; exact Chip.readWord_lo_latch atLo src
    have answer := Chip.readWord_hi_latched atHi held rfl
    exact ⟨congrArg Prod.fst (Chip.readWord_lo atLo src), congrArg Prod.fst answer, congrArg Prod.snd answer, Table.find?_erase_self ..⟩
  case missed =>
    intro c src addr h hAbs hLoc hOpen hHi hPair hMiss
    rw [Chip.readWord_hi_missed ⟨hAbs, hLoc, hOpen, hHi, hPair⟩ hMiss]
    exact ⟨rfl, Chip.latchMiss_rd .., Chip.latchMiss_rdLatch ..⟩

/-! A write of one half of an RW pair. -/

section
variable {c : Chip} {src addr : Nat} {l : Loc} (v : Nat) (found : c.locate (addr / 65536) (addr % 65536) = some l) (hrw : l.rwPair = true)
include found hrw

/-- R40: a low word goes into the requester's latch, and nothing else changes. -/
theorem Chip.writeWord_lo (half : l.hi = false) :
    c.writeWord src addr v = { c with wrLatch := Table.insert src ⟨addr, v % 2 ^ 32⟩ (Table.erase src c.wrLatch) } := by
  simp [Chip.writeWord, found, hrw, half]

/-- R40: a high word whose pair is latched writes both words and empties the latch. -/
theorem Chip.writeWord_hi_latched (half : l.hi = true) {x : Latch} (hx : Table.find? src c.wrLatch = some x) (ha : x.pair + 4 = addr) :
    c.writeWord src addr v = ({ c with wrLatch := Table.erase src c.wrLatch } : Chip).regWrite l src (x.word + v % 2 ^ 32 * 2 ^ 32) := by
  simp [Chip.writeWord, found, hrw, half, hx, ha]

/-- R40: a high word whose pair is not latched is written beside the present low word, and the page's LATCH_MISS is set. -/
theorem Chip.writeWord_hi_missed (half : l.hi = true) (hx : ∀ x, Table.find? src c.wrLatch = some x → x.pair + 4 ≠ addr) :
    c.writeWord src addr v = (c.latchMiss l.page).regWrite l src (c.regVal l 0 % 2 ^ 32 + v % 2 ^ 32 * 2 ^ 32) := by
  cases hf : Table.find? src c.wrLatch with
  | none => simp [Chip.writeWord, found, hrw, half, hf]
  | some x => simp [Chip.writeWord, found, hrw, half, hf, hx x hf]

end

/-- Settles O14, by the three cases of a write to half of an RW pair: low word, high word latched, high word missed. -/
theorem pairWriteCommitsBothWords : Obligations.PairWriteCommitsBothWords := by
  unfold Obligations.PairWriteCommitsBothWords
  intro c src addr v l h hLoc hRw hLo
  refine ⟨Chip.writeWord_lo v hLoc hRw hLo, fun hLocH hRwH hHi w => ⟨fun x hx ha => ?latched, fun hMiss => ?missed⟩⟩
  case latched => exact Chip.writeWord_hi_latched w hLocH hRwH hHi hx (by omega)
  case missed =>
    refine Chip.writeWord_hi_missed w hLocH hRwH hHi fun x hx => ?_
    have := hMiss x hx
    omega

end Sys2Proof.Machine
end

/-! ### The violation record of a page header (R47) -/
section
namespace Sys2Proof.Machine

/-! What an event of a fault source leaves of the register fields. -/

/-- An event of a fault source changes no register field but the collector's CNT_SAT. -/
theorem Chip.event_rd (c : Chip) (s : Nat) {f : Fld} {i b a : Nat} (h : f.key i b a ≠ F.PAGE_STATUS_CNT_SAT.key 3 0 0) :
    (c.event s).rd f i b a = c.rd f i b a := by
  unfold Chip.event
  split
  · unfold Chip.takeEvent
    dsimp only
    split
    · exact Chip.rd_wr_ne _ 1 h
    · rfl
  · rfl

/-- An event of a tenant's fault source changes no register field but the collector's CNT_SAT and that tenant's cause bits (R407). -/
theorem Chip.instEvent_rd (c : Chip) (n k : Nat) {f : Fld} {i b a : Nat} (hs : f.key i b a ≠ F.PAGE_STATUS_CNT_SAT.key 3 0 0)
    (hc : f.key i b a ≠ F.FLT_INST_CAUSE_CAUSE.key 0 n 0) : (c.instEvent n k).rd f i b a = c.rd f i b a := by
  unfold Chip.instEvent
  split
  · rw [Chip.event_rd _ _ hs, Chip.rd_wr_ne _ _ hc]
  · rfl

/-! The fields of the record. -/

/-- The fields that hold a page's violation record. -/
def violFields : List Fld :=
  [F.PAGE_STATUS_VIOL, F.VIOL_ADDR_ADDR, F.VIOL_INFO_COUNT, F.VIOL_INFO_BAR, F.VIOL_INFO_REASON, F.VIOL_INFO_ACCESS, F.VIOL_INFO_SOURCE]

/-- The fields of a record lie in different bits of their page's header, and CNT_SAT in none of them. -/
theorem violFields_apart : ∀ f ∈ violFields, f.page = 0 ∧ f.off < 2 ^ 16 ∧ f.lo < 256 ∧ (f.off ≠ 0xc ∨ f.lo ≠ 4) ∧
    ∀ g ∈ violFields, f ≠ g → f.off ≠ g.off ∨ f.lo ≠ g.lo := by decide

/-- A write to one field of a record leaves the others. -/
theorem Chip.rd_wr_viol (c : Chip) (page v : Nat) {f g : Fld} (hf : f ∈ violFields) (hg : g ∈ violFields) (h : f ≠ g) :
    (c.wr g v page).rd f page = c.rd f page := by
  obtain ⟨hfp, -, hfl, -, hfg⟩ := violFields_apart f hf
  obtain ⟨hgp, -, hgl, -⟩ := violFields_apart g hg
  exact Chip.rd_wr_ne c v (Fld.key_ne_of_off f g page page 0 0 (by rw [hfp, hgp]) rfl hfl hgl (hfg g hg h))

theorem violFields_key_ne_cntSat {f : Fld} (hf : f ∈ violFields) (page : Nat) : f.key page 0 0 ≠ F.PAGE_STATUS_CNT_SAT.key 3 0 0 := by
  obtain ⟨hp, ho, hl, hn, -⟩ := violFields_apart f hf
  simp only [Fld.key, F.PAGE_STATUS_CNT_SAT, hp]
  omega

theorem violFields_key_ne_instCause {f : Fld} (hf : f ∈ violFields) {page n : Nat} (hpage : 0x100 ≤ page) (hn : n < 1024) :
    f.key page 0 0 ≠ F.FLT_INST_CAUSE_CAUSE.key 0 n 0 := by
  obtain ⟨hp, ho, hl, -⟩ := violFields_apart f hf
  simp only [Fld.key, F.FLT_INST_CAUSE_CAUSE, hp]
  omega

/-- A field holds a value that fits it. -/
theorem Chip.rd_wr_fits (c : Chip) (f : Fld) {v : Nat} (page : Nat) (h : v < 2 ^ f.width) : (c.wr f v page).rd f page = v := by
  rw [Chip.rd_wr_self, Nat.mod_eq_of_lt h]

/-! A violation is a record in the header and a note to the fault collector. -/

/-- What a violation writes into the page's header. -/
def Chip.recordViol (c : Chip) (page src addr acc bar : Nat) (why : Viol) : Chip :=
  if c.rd F.VIOL_INFO_COUNT page ≠ 0 then c.wr F.VIOL_INFO_COUNT (min 255 (c.rd F.VIOL_INFO_COUNT page + 1)) page
  else (((((((c.wr F.VIOL_INFO_COUNT 1 page).wr F.VIOL_ADDR_ADDR addr page).wr F.VIOL_INFO_SOURCE src page).wr F.VIOL_INFO_ACCESS acc page).wr
    F.VIOL_INFO_REASON why.code page).wr F.VIOL_INFO_BAR bar page).wr F.PAGE_STATUS_VIOL 1 page)

/-- The note that a recorded violation raises (R48). -/
def Chip.noteViol (c : Chip) (page : Nat) (why : Viol) : Chip :=
  if !c.on F.PAGE_CTRL_VIOL_NOTE_EN page then c
  else if 0x100 ≤ page then (if why = .state ∧ c.mst = .safe then c else c.instEvent (page - 0x100) 0)
  else c.event Flt.regAccess

theorem Chip.violation_eq (c : Chip) (page src addr acc bar : Nat) (why : Viol) :
    c.violation page src addr acc bar why = (c.recordViol page src addr acc bar why).noteViol page why := rfl

/-- The note leaves every field of the record. -/
theorem Chip.noteViol_rd (c : Chip) {page : Nat} (hpage : page < 1024) (why : Viol) {f : Fld} (hf : f ∈ violFields) :
    (c.noteViol page why).rd f page = c.rd f page := by
  have hs := violFields_key_ne_cntSat hf page
  unfold Chip.noteViol
  split
  · rfl
  · split
    · next hi =>
      split
      · rfl
      · exact Chip.instEvent_rd c _ 0 hs (violFields_key_ne_instCause hf hi (by omega))
    · exact Chip.event_rd c _ hs

/-- A field of the record after a violation is what recording it leaves there. -/
theorem Chip.violation_rd (c : Chip) {page : Nat} (hpage : page < 1024) (src addr acc bar : Nat) (why : Viol) {f : Fld} (hf : f ∈ violFields) :
    (c.violation page src addr acc bar why).rd f page = (c.recordViol page src addr acc bar why).rd f page := by
  rw [Chip.violation_eq, Chip.noteViol_rd _ hpage why hf]

theorem Viol.code_lt (why : Viol) : why.code < 2 ^ F.VIOL_INFO_REASON.width := by cases why <;> decide

/-- R47: the first violation since the record was clear is kept whole. -/
theorem Chip.recordViol_first (c : Chip) (page src addr acc bar : Nat) (why : Viol) (h0 : c.rd F.VIOL_INFO_COUNT page = 0)
    (hsrc : src < 2 ^ F.VIOL_INFO_SOURCE.width) (hacc : acc < 2 ^ F.VIOL_INFO_ACCESS.width) (hbar : bar < 2 ^ F.VIOL_INFO_BAR.width)
    (haddr : addr < 2 ^ F.VIOL_ADDR_ADDR.width) :
    let e := c.recordViol page src addr acc bar why
    e.rd F.PAGE_STATUS_VIOL page = 1 ∧ e.rd F.VIOL_INFO_COUNT page = 1 ∧ e.rd F.VIOL_INFO_SOURCE page = src ∧ e.rd F.VIOL_INFO_ACCESS page = acc ∧
      e.rd F.VIOL_INFO_REASON page = why.code ∧ e.rd F.VIOL_INFO_BAR page = bar ∧ e.rd F.VIOL_ADDR_ADDR page = addr := by
  simp (disch := decide) only [Chip.recordViol, h0, ne_eq, not_true_eq_false, if_false, Chip.rd_wr_viol, Chip.rd_wr_fits _ _ page hsrc,
    Chip.rd_wr_fits _ _ page hacc, Chip.rd_wr_fits _ _ page hbar, Chip.rd_wr_fits _ _ page haddr, Chip.rd_wr_fits _ _ page why.code_lt,
    Chip.rd_wr_fits, and_self]

/-- R47: a later violation only counts, to 255. -/
theorem Chip.recordViol_later (c : Chip) (page src addr acc bar : Nat) (why : Viol) (h : c.rd F.VIOL_INFO_COUNT page ≠ 0) :
    c.recordViol page src addr acc bar why = c.wr F.VIOL_INFO_COUNT (min 255 (c.rd F.VIOL_INFO_COUNT page + 1)) page := if_pos h

/-- R47: clearing the record leaves each of its fields 0, and the fault sources as they are. -/
theorem Chip.violClear_clears (c : Chip) (page : Nat) :
    let d := c.violClear page
    d.rd F.PAGE_STATUS_VIOL page = 0 ∧ d.rd F.VIOL_INFO_COUNT page = 0 ∧ d.rd F.VIOL_INFO_SOURCE page = 0 ∧ d.rd F.VIOL_INFO_REASON page = 0 ∧
      d.rd F.VIOL_INFO_ACCESS page = 0 ∧ d.rd F.VIOL_INFO_BAR page = 0 ∧ d.rd F.VIOL_ADDR_ADDR page = 0 ∧ d.srcs = c.srcs := by
  simp (disch := decide) only [Chip.violClear, Chip.rd_wr_viol, Chip.rd_wr_self, Chip.wr_srcs, Nat.zero_mod, and_self]

/-- R47: a write of 1 to PAGE_STATUS.VIOL clears the record, and the other bits act by their access types. -/
theorem Chip.regWrite_viol (c : Chip) {l : Loc} (hreg : l.reg.reg = .PAGE_STATUS) (src : Nat) {v : Nat} (hv : v % 2 = 1) :
    c.regWrite l src v = (c.violClear l.page).putReg l (v / 2 * 2) := by
  simp [Chip.regWrite, hreg, bit, hv]

/-- Settles O9: the note to the fault collector leaves the record, so each clause is one of recording or clearing it. -/
theorem violationsAreRecorded : Obligations.ViolationsAreRecorded := by
  unfold Obligations.ViolationsAreRecorded
  intro c page src addr acc bar why hpage hsrc hacc hbar haddr e d
  have he {f : Fld} (hf : f ∈ violFields) : e.rd f page = (c.recordViol page src addr acc bar why).rd f page :=
    Chip.violation_rd c hpage src addr acc bar why hf
  refine ⟨fun h0 => ?first, fun h => ?later, Chip.violClear_clears c page, fun l who v hl hreg hv => ?write⟩
  case first =>
    simp (disch := decide) only [he]
    exact Chip.recordViol_first c page src addr acc bar why h0 hsrc (Nat.lt_trans hacc (by decide)) hbar haddr
  case later =>
    have hcount : min 255 (c.rd F.VIOL_INFO_COUNT page + 1) < 2 ^ F.VIOL_INFO_COUNT.width := by
      rw [show F.VIOL_INFO_COUNT.width = 8 from rfl]; omega
    simp (disch := decide) only [he, Chip.recordViol_later c page src addr acc bar why h, Chip.rd_wr_viol, Chip.rd_wr_fits _ _ page hcount, and_self]
  case write =>
    subst hl
    exact Chip.regWrite_viol c hreg who hv

end Sys2Proof.Machine
end
